-- ==== Sys2Proof/Word.lean ====
section
/-! DEFINITION. Words, bytes, sparse maps in canonical form and tables: the data every other file is built on. -/
namespace Sys2Proof

/-- A 32-bit register word (spec/03_formats.md R67). -/
abbrev Word := BitVec 32

/-- A byte (spec/00_scope.md R1). -/
abbrev Byte := BitVec 8

/-- One bit for each cell of a wave, bit f for the cell with F0 value f: at most 64 x 8 cells
(spec/06_cell.md R113, spec/10_isa_control.md R207). -/
abbrev Mask := BitVec 512

/-- A sparse map with natural keys: a list of entries with strictly rising keys, none of them equal to the
value that an unlisted key reads as. -/
abbrev NMap (α : Type) := List (Nat × α)

/-- The value at a key; `d` is what an unlisted key reads as. -/
def NMap.get {α : Type} (d : α) : NMap α → Nat → α
  | [], _ => d
  | (j, x) :: m, k => if k = j then x else NMap.get d m k

/-- Insert a pair at its place in the rising order, replacing an entry with the same key. -/
def NMap.put {α : Type} : NMap α → Nat → α → NMap α
  | [], k, x => [(k, x)]
  | (j, y) :: m, k, x =>
    if k < j then (k, x) :: (j, y) :: m
    else if k = j then (k, x) :: m
    else (j, y) :: NMap.put m k x

/-- Remove every entry of a key. -/
def NMap.erase {α : Type} : NMap α → Nat → NMap α
  | [], _ => []
  | (j, y) :: m, k => if k = j then NMap.erase m k else (j, y) :: NMap.erase m k

/-- Write a value: writing the value that an unlisted key reads as removes the entry. -/
def NMap.set {α : Type} [DecidableEq α] (d : α) (m : NMap α) (k : Nat) (x : α) : NMap α :=
  if x = d then NMap.erase m k else NMap.put m k x

/-- Every key of the map is above `k`. -/
def NMap.above {α : Type} (k : Nat) : NMap α → Bool
  | [] => true
  | (j, _) :: m => decide (k < j) && NMap.above k m

/-- The canonical form: keys strictly rising, no entry equal to the default. -/
def NMap.wf {α : Type} [DecidableEq α] (d : α) : NMap α → Bool
  | [] => true
  | (j, x) :: m => decide (x ≠ d) && NMap.above j m && NMap.wf d m

/-- A table: records under natural identifiers, in rising order. -/
abbrev Tbl (α : Type) := List (Nat × α)

/-- The record under an identifier. -/
def Tbl.find {α : Type} : Tbl α → Nat → Option α
  | [], _ => none
  | (j, x) :: m, k => if k = j then some x else Tbl.find m k

/-- Write a record. -/
def Tbl.put {α : Type} (t : Tbl α) (k : Nat) (x : α) : Tbl α := NMap.put t k x

/-- Remove a record. -/
def Tbl.del {α : Type} (t : Tbl α) (k : Nat) : Tbl α := NMap.erase t k

/-- Change a record where there is one. -/
def Tbl.modify {α : Type} (f : α → α) : Tbl α → Nat → Tbl α
  | [], _ => []
  | (j, x) :: m, k => if k = j then (j, f x) :: m else (j, x) :: Tbl.modify f m k

/-- Change every record. -/
def Tbl.mapVals {α : Type} (f : Nat → α → α) : Tbl α → Tbl α
  | [] => []
  | (j, x) :: m => (j, f j x) :: Tbl.mapVals f m

/-- An identifier above every identifier in use. -/
def Tbl.fresh {α : Type} : Tbl α → Nat
  | [] => 0
  | (j, _) :: m => max (j + 1) (Tbl.fresh m)

/-- The first record that satisfies a test, with its identifier. -/
def Tbl.first? {α : Type} (p : Nat → α → Bool) : Tbl α → Option (Nat × α)
  | [] => none
  | (j, x) :: m => if p j x then some (j, x) else Tbl.first? p m

/-- The signed value of a word. -/
abbrev sv {w : Nat} (x : BitVec w) : Int := x.toInt

/-- The unsigned value of a word. -/
abbrev uv {w : Nat} (x : BitVec w) : Nat := x.toNat

end Sys2Proof
end

