-- ==== Sys2Proof/Syntax.lean ====
section
/-! DEFINITION. The AX-9's instructions as syntax: operand forms, modifiers, and the one type of instructions, with a
constructor for every row of the opcode table (spec/opcode_table.json): 217 instruction words and 117 machine steps. -/
namespace Sys2Proof

/-! Register indexes (spec/03_formats.md R67). An index field wider than its class allows is a decoding matter:
the syntax holds only indexes of the class. -/

/-- V0 to V63. -/
abbrev VReg := BitVec 6
/-- S0 to S31. -/
abbrev SReg := BitVec 5
/-- P0 to P7. -/
abbrev PReg := BitVec 3
/-- K0 to K7. -/
abbrev KReg := BitVec 3
/-- A0 to A7. -/
abbrev AReg := BitVec 3
/-- I0 to I7. -/
abbrev IReg := BitVec 3
/-- D0 to D7. -/
abbrev DReg := BitVec 3
/-- C0 to C7. -/
abbrev CReg := BitVec 3
/-- T0 to T7. -/
abbrev TReg := BitVec 3
/-- H0 to H15. -/
abbrev HReg := BitVec 4
/-- B0 to B15. -/
abbrev BReg := BitVec 4

/-- A lattice axis (spec/02_idioms.md R41). -/
inductive Axis where | x | y | z
deriving DecidableEq, Repr

/-- The B-operand of a per-cell word (R62, R41): own V register, S register, signed immediate, the literal word, or
the published register of the neighbour on an axis, at the plus end or the minus end. -/
inductive BOp where
  | v (r : VReg) | s (r : SReg) | imm (i : BitVec 6) | lit (w : Word) | nbr (ax : Axis) (plus : Bool) (r : BitVec 5)
deriving DecidableEq, Repr

/-- The B-operand of a uniform word (R43, R62). -/
inductive UOp where
  | s (r : SReg) | imm (i : BitVec 6) | lit (w : Word)
deriving DecidableEq, Repr

/-- The scopes of the scope layout (R61). -/
inductive Scope where | wave | team | cluster | device | system
deriving DecidableEq, Repr

/-- The address, handle and scope fields of an FM word in scope layout (R60, R61). `pi` chooses post-increment
through I register `i`; without it `i` is the word offset. -/
structure FmOp where
  a : AReg
  pi : Bool
  i : IReg
  h : HReg
  scope : Scope
deriving DecidableEq, Repr

/-- The fields of an FM word in tile layout (R61, spec/09_isa_memory.md R190): `col` is DIR. -/
structure TileOp where
  a : AReg
  pi : Bool
  i : IReg
  h : HReg
  col : Bool
  d : DReg
deriving DecidableEq, Repr

/-- The fields of an FX word that takes an options register, a handle and a barrier (R65, R66). -/
structure FxOp where
  sbase : SReg
  sparm : SReg
  hnd : HReg
  bar : Option BReg
deriving DecidableEq, Repr

/-- The fields of an MMA word (spec/20_matrix.md R368). -/
structure MmaOp where
  da : DReg
  tt : TReg
  db : DReg
  ao : BitVec 3
  oe : Bool
  kc : BitVec 3
  ra : Bool
deriving DecidableEq, Repr

/-- The signed and equality conditions of ICMP (spec/07_isa_integer.md R148). -/
inductive ICond where
  | eq | ne | lt | le | gt | ge
deriving DecidableEq, Repr

/-- The unsigned conditions of ICMP (R148). -/
inductive UCond where
  | ltu | leu | gtu | geu
deriving DecidableEq, Repr

/-- The conditions of FCMP (spec/08_isa_float.md R166). -/
inductive FCond where
  | eq | ne | lt | le | gt | ge | un | ord
deriving DecidableEq, Repr

/-- The modes of VOTE (R150). -/
inductive VoteMode where
  | all | any | uni
deriving DecidableEq, Repr

/-- The selectors of WIDF (R154), under their immediates. -/
inductive WidSel where
  | f0 | f1 | f2 | f3 | f4 | f5 | x | y | z | widlo | widhi
deriving DecidableEq, Repr

/-- The element formats of the packed words (R170). -/
inductive HFmt where
  | f16 | bf16
deriving DecidableEq, Repr

/-- The kinds of RAND (R176). -/
inductive RandKind where
  | u32 | f32
deriving DecidableEq, Repr

/-- The conversions of major 0x1C (R171), destination first. -/
inductive CvtKind where
  | f16f32 | bf16f32 | f32f64 | s32f32
deriving DecidableEq, Repr

/-- The rounding modes (spec/05_numbers.md R87). -/
inductive Rnd where
  | rn | rz | rp | rm
deriving DecidableEq, Repr

/-- The conversions of major 0x1D (R171). -/
inductive CvtExt where
  | u32f32rn | u32f32rz | u32f32rp | u32f32rm | s32f64rn | s32f64rz | f32f16 | f32bf16 | f64f32 | f32s32 | f32u32 | f64s32 | f64u32
deriving DecidableEq, Repr

/-- The conversions of major 0x1F (R171). -/
inductive CvtUni where
  | s32f32rz | f32s32
deriving DecidableEq, Repr

/-- The block formats of NPACK and NUNPACK (R173). -/
inductive NFmt where
  | tx8 | tx4 | ob8 | ob4
deriving DecidableEq, Repr

/-- The sizes of LD (spec/09_isa_memory.md R185). -/
inductive LdSize where
  | u8 | s8 | u16 | s16 | b32 | b64
deriving DecidableEq, Repr

/-- The sizes of ST (R185). -/
inductive StSize where
  | b8 | b16 | b32 | b64
deriving DecidableEq, Repr

/-- The operations of major 0x2C (R194). -/
inductive AtomArith where
  | add | smin | umin | smax | umax
deriving DecidableEq, Repr

/-- The operations of major 0x2D (R194). -/
inductive AtomBit where
  | and | or | xor | exch | cas
deriving DecidableEq, Repr

/-- The operations of major 0x2E (R194). -/
inductive AtomFloat where
  | fadd | fmin | fmax
deriving DecidableEq, Repr

/-- The operations of major 0x2F (R194). -/
inductive AtomUni where
  | add | exch | cas | fadd
deriving DecidableEq, Repr

/-- The modes of LSHUF (R197). -/
inductive ShufMode where
  | idx | up | down | xor
deriving DecidableEq, Repr

/-- The operand formats of MMA (R368). -/
inductive MmaFmt where
  | tx8 | tx4 | ob8 | ob4 | bf16 | f16
deriving DecidableEq, Repr

/-- The output formats of MDRAIN (R374). -/
inductive DrainFmt where
  | f32 | bf16 | tx8 | tx4 | e4m3 | e5m2 | e2m1 | ob8
deriving DecidableEq, Repr

/-- A fabric flit: the header fields of spec/25_link.md R417 and its payload bytes (112 in a whole flit; a missing
byte counts as 0). -/
structure Flit where
  kind : BitVec 4
  src : BitVec 4
  dst : BitVec 4
  rly : Bool
  last : Bool
  tag : BitVec 10
  gen : BitVec 8
  vf : BitVec 4
  epoch : BitVec 4
  pseq : BitVec 24
  lseq : BitVec 16
  ackseq : BitVec 16
  crc : BitVec 32
  payload : List Byte
deriving DecidableEq, Repr

/-- A translation table entry of one stage (spec/17_page.md R312): bits 51:16 of what its page maps to, the accesses it
permits, and whether it maps a large page, a naturally aligned run of 32 pages. -/
structure TableEnt where
  tgt : BitVec 36
  rd : Bool
  wr : Bool
  large : Bool := false
deriving DecidableEq, Repr

/-- What a servicer does with a page after a shoot-down (R327): it takes the entries of the page out of the stages named, or
narrows what the entry of one stage permits. -/
inductive PageAct where
  | remove (stage1 stage2 : Bool)
  | narrow (stage1 rd wr : Bool)
deriving DecidableEq, Repr

/-- What a servicer does after a shoot-down, and with which page. -/
structure PageTask where
  page : Nat
  act : PageAct
deriving DecidableEq, Repr

/-- A kernel whose ranges are translated, and the die that the dispatcher chooses for each of its die groups on this device
(spec/06_cell.md R128). -/
structure Dispatching where
  kern : Nat
  dies : List Nat
deriving DecidableEq, Repr

/-- Every row of spec/opcode_table.json: first the instruction words, then the machine's other steps
(spec/95_what_each_step_holds.md), which stand on the agenda. -/
inductive Instr where
  /-- IADD (R144): Per-cell 32-bit wrapping add of A and B. -/
  | iadd (d : VReg) (a : VReg) (b : BOp)
  /-- IADD_UNI (R144): Uniform 32-bit wrapping add on S registers. -/
  | iaddUni (d : SReg) (a : SReg) (b : UOp)
  /-- ISUB (R144): Per-cell wrapping subtract a minus b. -/
  | isub (d : VReg) (a : VReg) (b : BOp)
  /-- ISUB_UNI (R144): Uniform wrapping subtract a minus b. -/
  | isubUni (d : SReg) (a : SReg) (b : UOp)
  /-- IRSUB (R144): Per-cell reverse subtract b minus a. -/
  | irsub (d : VReg) (a : VReg) (b : BOp)
  /-- IRSUB_UNI (R144): Uniform reverse subtract b minus a. -/
  | irsubUni (d : SReg) (a : SReg) (b : UOp)
  /-- IMUL (R144): Per-cell low 32 bits of a times b. -/
  | imul (d : VReg) (a : VReg) (b : BOp)
  /-- IMUL_UNI (R144): Uniform low 32 bits of a times b. -/
  | imulUni (d : SReg) (a : SReg) (b : UOp)
  /-- IMULHI (R144): Per-cell high 32 bits of the signed product. -/
  | imulhi (d : VReg) (a : VReg) (b : BOp)
  /-- IMULHI_UNI (R144): Uniform high 32 bits of the signed product. -/
  | imulhiUni (d : SReg) (a : SReg) (b : UOp)
  /-- IMAD (R144): Per-cell d plus a times b, wrapping. -/
  | imad (d : VReg) (a : VReg) (b : BOp)
  /-- IMAD_UNI (R144): Uniform d plus a times b, wrapping. -/
  | imadUni (d : SReg) (a : SReg) (b : UOp)
  /-- IMIN (R144): Per-cell signed minimum. -/
  | imin (d : VReg) (a : VReg) (b : BOp)
  /-- IMIN_UNI (R144): Uniform signed minimum. -/
  | iminUni (d : SReg) (a : SReg) (b : UOp)
  /-- IMAX (R144): Per-cell signed maximum. -/
  | imax (d : VReg) (a : VReg) (b : BOp)
  /-- IMAX_UNI (R144): Uniform signed maximum. -/
  | imaxUni (d : SReg) (a : SReg) (b : UOp)
  /-- IABS (R144): Per-cell absolute value of b, wrapping. -/
  | iabs (d : VReg) (b : BOp)
  /-- IABS_UNI (R144): Uniform absolute value of b, wrapping. -/
  | iabsUni (d : SReg) (b : UOp)
  /-- INEG (R144): Per-cell negation of b, wrapping. -/
  | ineg (d : VReg) (b : BOp)
  /-- INEG_UNI (R144): Uniform negation of b, wrapping. -/
  | inegUni (d : SReg) (b : UOp)
  /-- IADDC (R144): Per-cell add with carry through P6. -/
  | iaddc (d : VReg) (a : VReg) (b : BOp)
  /-- IADDC_UNI (R144): Uniform add with carry through K6. -/
  | iaddcUni (d : SReg) (a : SReg) (b : UOp)
  /-- ISAT (R144): Per-cell signed saturating add. -/
  | isat (d : VReg) (a : VReg) (b : BOp)
  /-- ISAT_UNI (R144): Uniform signed saturating add. -/
  | isatUni (d : SReg) (a : SReg) (b : UOp)
  /-- AND (R146): Per-cell bitwise and. -/
  | and (d : VReg) (a : VReg) (b : BOp)
  /-- AND_UNI (R146): Uniform bitwise and. -/
  | andUni (d : SReg) (a : SReg) (b : UOp)
  /-- OR (R146): Per-cell bitwise or. -/
  | or (d : VReg) (a : VReg) (b : BOp)
  /-- OR_UNI (R146): Uniform bitwise or. -/
  | orUni (d : SReg) (a : SReg) (b : UOp)
  /-- XOR (R146): Per-cell bitwise xor. -/
  | xor (d : VReg) (a : VReg) (b : BOp)
  /-- XOR_UNI (R146): Uniform bitwise xor. -/
  | xorUni (d : SReg) (a : SReg) (b : UOp)
  /-- ANDN (R146): Per-cell a and not b. -/
  | andn (d : VReg) (a : VReg) (b : BOp)
  /-- ANDN_UNI (R146): Uniform a and not b. -/
  | andnUni (d : SReg) (a : SReg) (b : UOp)
  /-- NOT (R146): Per-cell bitwise not of b. -/
  | not (d : VReg) (b : BOp)
  /-- NOT_UNI (R146): Uniform bitwise not of b. -/
  | notUni (d : SReg) (b : UOp)
  /-- SHL (R146): Per-cell shift left, zero for counts of 32 or more. -/
  | shl (d : VReg) (a : VReg) (b : BOp)
  /-- SHL_UNI (R146): Uniform shift left. -/
  | shlUni (d : SReg) (a : SReg) (b : UOp)
  /-- SHR (R146): Per-cell logical shift right. -/
  | shr (d : VReg) (a : VReg) (b : BOp)
  /-- SHR_UNI (R146): Uniform logical shift right. -/
  | shrUni (d : SReg) (a : SReg) (b : UOp)
  /-- SAR (R146): Per-cell arithmetic shift right. -/
  | sar (d : VReg) (a : VReg) (b : BOp)
  /-- SAR_UNI (R146): Uniform arithmetic shift right. -/
  | sarUni (d : SReg) (a : SReg) (b : UOp)
  /-- ROT (R146): Per-cell rotate left by b mod 32. -/
  | rot (d : VReg) (a : VReg) (b : BOp)
  /-- ROT_UNI (R146): Uniform rotate left. -/
  | rotUni (d : SReg) (a : SReg) (b : UOp)
  /-- CLZ (R146): Per-cell count of leading zeros. -/
  | clz (d : VReg) (b : BOp)
  /-- CLZ_UNI (R146): Uniform count of leading zeros. -/
  | clzUni (d : SReg) (b : UOp)
  /-- POPC (R146): Per-cell population count. -/
  | popc (d : VReg) (b : BOp)
  /-- POPC_UNI (R146): Uniform population count. -/
  | popcUni (d : SReg) (b : UOp)
  /-- BREV (R146): Per-cell bit reversal. -/
  | brev (d : VReg) (b : BOp)
  /-- BREV_UNI (R146): Uniform bit reversal. -/
  | brevUni (d : SReg) (b : UOp)
  /-- BFE (R147): Per-cell signed bit-field extract. -/
  | bfe (d : VReg) (a : VReg) (b : BOp)
  /-- BFE_UNI (R147): Uniform signed bit-field extract. -/
  | bfeUni (d : SReg) (a : SReg) (b : UOp)
  /-- BFI (R147): Per-cell bit-field insert into d. -/
  | bfi (d : VReg) (a : VReg) (b : BOp)
  /-- BFI_UNI (R147): Uniform bit-field insert into d. -/
  | bfiUni (d : SReg) (a : SReg) (b : UOp)
  /-- SEL (R146): Per-cell select a or b by P6. -/
  | sel (d : VReg) (a : VReg) (b : BOp)
  /-- SEL_UNI (R146): Uniform select a or b by K6. -/
  | selUni (d : SReg) (a : SReg) (b : UOp)
  /-- ICMP (R148): Per-cell signed or equality compare into a P register. -/
  | icmp (c : ICond) (d : PReg) (a : VReg) (b : BOp)
  /-- ICMP_UNI (R148): Uniform signed or equality compare into a K register. -/
  | icmpUni (c : ICond) (d : KReg) (a : SReg) (b : UOp)
  /-- ICMP_UNSIGNED (R148): Per-cell unsigned compare into a P register. -/
  | icmpUnsigned (c : UCond) (d : PReg) (a : VReg) (b : BOp)
  /-- ICMP_UNSIGNED_UNI (R148): Uniform unsigned compare into a K register. -/
  | icmpUnsignedUni (c : UCond) (d : KReg) (a : SReg) (b : UOp)
  /-- PAND (R149): Per-cell predicate and. -/
  | pand (d : PReg) (a : PReg) (b : PReg)
  /-- PAND_UNI (R149): Uniform K-register and. -/
  | pandUni (d : KReg) (a : KReg) (b : KReg)
  /-- POR (R149): Per-cell predicate or. -/
  | por (d : PReg) (a : PReg) (b : PReg)
  /-- POR_UNI (R149): Uniform K-register or. -/
  | porUni (d : KReg) (a : KReg) (b : KReg)
  /-- PXOR (R149): Per-cell predicate xor. -/
  | pxor (d : PReg) (a : PReg) (b : PReg)
  /-- PXOR_UNI (R149): Uniform K-register xor. -/
  | pxorUni (d : KReg) (a : KReg) (b : KReg)
  /-- PNOT (R149): Per-cell predicate not. -/
  | pnot (d : PReg) (b : PReg)
  /-- PNOT_UNI (R149): Uniform K-register not. -/
  | pnotUni (d : KReg) (b : KReg)
  /-- VOTE (R150): Reduces a predicate over active cells into a K register. -/
  | vote (m : VoteMode) (d : KReg) (b : PReg)
  /-- BALLOT (R151): Gathers 32 cells' predicate bits into an S register. -/
  | ballot (d : SReg) (k : BitVec 4) (b : PReg)
  /-- MOV (R152): Per-cell 32-bit copy of B. -/
  | mov (d : VReg) (b : BOp)
  /-- MOV_UNI (R152): Uniform 32-bit copy of B. -/
  | movUni (d : SReg) (b : UOp)
  /-- MOVL (R152): Per-cell 64-bit pair copy. -/
  | movl (d : VReg) (b : BOp)
  /-- MOVL_UNI (R152): Uniform 64-bit pair copy. -/
  | movlUni (d : SReg) (b : UOp)
  /-- WIDF (R154): Per-cell read of a WID field, coordinate or WID word. -/
  | widf (d : VReg) (k : WidSel)
  /-- WIDF_UNI (R154): Uniform read of a WID field with F0 taken as 0. -/
  | widfUni (d : SReg) (k : WidSel)
  /-- AADD (R155): Adds B to an A register. -/
  | aadd (d : AReg) (a : AReg) (b : UOp)
  /-- ASET (R155): Sets an A register to B. -/
  | aset (d : AReg) (b : UOp)
  /-- ISET (R157): Loads an I register from three S registers, checking limits. -/
  | iset (d : IReg) (n : SReg)
  /-- MOVI (R153): Per-cell load of a sign-extended 17-bit immediate. -/
  | movi (d : VReg) (i : BitVec 17)
  /-- MOVI_UNI (R153): Uniform load of a sign-extended 17-bit immediate. -/
  | moviUni (d : SReg) (i : BitVec 17)
  /-- IMULHI_UNSIGNED (R145): Per-cell high half of the unsigned product. -/
  | imulhiUnsigned (d : VReg) (a : VReg) (b : BOp)
  /-- IMULHI_UNSIGNED_UNI (R145): Uniform high half of the unsigned product. -/
  | imulhiUnsignedUni (d : SReg) (a : SReg) (b : UOp)
  /-- IMIN_UNSIGNED (R145): Per-cell unsigned minimum. -/
  | iminUnsigned (d : VReg) (a : VReg) (b : BOp)
  /-- IMIN_UNSIGNED_UNI (R145): Uniform unsigned minimum. -/
  | iminUnsignedUni (d : SReg) (a : SReg) (b : UOp)
  /-- IMAX_UNSIGNED (R145): Per-cell unsigned maximum. -/
  | imaxUnsigned (d : VReg) (a : VReg) (b : BOp)
  /-- IMAX_UNSIGNED_UNI (R145): Uniform unsigned maximum. -/
  | imaxUnsignedUni (d : SReg) (a : SReg) (b : UOp)
  /-- ISAT_UNSIGNED (R145): Per-cell unsigned saturating add. -/
  | isatUnsigned (d : VReg) (a : VReg) (b : BOp)
  /-- ISAT_UNSIGNED_UNI (R145): Uniform unsigned saturating add. -/
  | isatUnsignedUni (d : SReg) (a : SReg) (b : UOp)
  /-- BFE_UNSIGNED (R147): Per-cell zero-extended bit-field extract. -/
  | bfeUnsigned (d : VReg) (a : VReg) (b : BOp)
  /-- BFE_UNSIGNED_UNI (R147): Uniform zero-extended bit-field extract. -/
  | bfeUnsignedUni (d : SReg) (a : SReg) (b : UOp)
  /-- FADD (R164): Per-cell FP32 add, rounded once. -/
  | fadd (d : VReg) (a : VReg) (b : BOp)
  /-- FADD_UNI (R164): Uniform FP32 add. -/
  | faddUni (d : SReg) (a : SReg) (b : UOp)
  /-- FSUB (R164): Per-cell FP32 subtract. -/
  | fsub (d : VReg) (a : VReg) (b : BOp)
  /-- FSUB_UNI (R164): Uniform FP32 subtract. -/
  | fsubUni (d : SReg) (a : SReg) (b : UOp)
  /-- FMUL (R164): Per-cell FP32 multiply. -/
  | fmul (d : VReg) (a : VReg) (b : BOp)
  /-- FMUL_UNI (R164): Uniform FP32 multiply. -/
  | fmulUni (d : SReg) (a : SReg) (b : UOp)
  /-- FFMA (R164): Per-cell fused FP32 a times b plus d. -/
  | ffma (d : VReg) (a : VReg) (b : BOp)
  /-- FFMA_UNI (R164): Uniform fused FP32 multiply-add. -/
  | ffmaUni (d : SReg) (a : SReg) (b : UOp)
  /-- FMIN (R165): Per-cell FP32 minimumNumber. -/
  | fmin (d : VReg) (a : VReg) (b : BOp)
  /-- FMIN_UNI (R165): Uniform FP32 minimumNumber. -/
  | fminUni (d : SReg) (a : SReg) (b : UOp)
  /-- FMAX (R165): Per-cell FP32 maximumNumber. -/
  | fmax (d : VReg) (a : VReg) (b : BOp)
  /-- FMAX_UNI (R165): Uniform FP32 maximumNumber. -/
  | fmaxUni (d : SReg) (a : SReg) (b : UOp)
  /-- FABS (R164): Per-cell clear of the sign bit. -/
  | fabs (d : VReg) (b : BOp)
  /-- FABS_UNI (R164): Uniform clear of the sign bit. -/
  | fabsUni (d : SReg) (b : UOp)
  /-- FNEG (R164): Per-cell inversion of the sign bit. -/
  | fneg (d : VReg) (b : BOp)
  /-- FNEG_UNI (R164): Uniform inversion of the sign bit. -/
  | fnegUni (d : SReg) (b : UOp)
  /-- FRSUB (R164): Per-cell FP32 reverse subtract b minus a. -/
  | frsub (d : VReg) (a : VReg) (b : BOp)
  /-- FRSUB_UNI (R164): Uniform FP32 reverse subtract. -/
  | frsubUni (d : SReg) (a : SReg) (b : UOp)
  /-- FCMP (R166): Per-cell FP32 compare into a P register. -/
  | fcmp (c : FCond) (d : PReg) (a : VReg) (b : BOp)
  /-- FCMP_UNI (R166): Uniform FP32 compare into a K register. -/
  | fcmpUni (c : FCond) (d : KReg) (a : SReg) (b : UOp)
  /-- FRCP (R167): Per-cell approximate reciprocal. -/
  | frcp (d : VReg) (b : BOp)
  /-- FRCP_UNI (R167): Uniform approximate reciprocal. -/
  | frcpUni (d : SReg) (b : UOp)
  /-- FRSQ (R167): Per-cell approximate reciprocal square root. -/
  | frsq (d : VReg) (b : BOp)
  /-- FRSQ_UNI (R167): Uniform approximate reciprocal square root. -/
  | frsqUni (d : SReg) (b : UOp)
  /-- FSQRT (R167): Per-cell correctly rounded square root. -/
  | fsqrt (d : VReg) (b : BOp)
  /-- FSQRT_UNI (R167): Uniform square root. -/
  | fsqrtUni (d : SReg) (b : UOp)
  /-- FEXP2 (R167): Per-cell base-2 exponential. -/
  | fexp2 (d : VReg) (b : BOp)
  /-- FEXP2_UNI (R167): Uniform base-2 exponential. -/
  | fexp2Uni (d : SReg) (b : UOp)
  /-- FLOG2 (R167): Per-cell base-2 logarithm. -/
  | flog2 (d : VReg) (b : BOp)
  /-- FLOG2_UNI (R167): Uniform base-2 logarithm. -/
  | flog2Uni (d : SReg) (b : UOp)
  /-- FSIN (R167): Per-cell sine. -/
  | fsin (d : VReg) (b : BOp)
  /-- FSIN_UNI (R167): Uniform sine. -/
  | fsinUni (d : SReg) (b : UOp)
  /-- FCOS (R167): Per-cell cosine. -/
  | fcos (d : VReg) (b : BOp)
  /-- FCOS_UNI (R167): Uniform cosine. -/
  | fcosUni (d : SReg) (b : UOp)
  /-- DADD (R169): FP64 add on register pairs, VA only. -/
  | dadd (d : VReg) (a : VReg) (b : BOp)
  /-- DMUL (R169): FP64 multiply on register pairs. -/
  | dmul (d : VReg) (a : VReg) (b : BOp)
  /-- DFMA (R169): FP64 fused multiply-add. -/
  | dfma (d : VReg) (a : VReg) (b : BOp)
  /-- HADD2 (R170): Per-cell packed FP16 or BF16 add. -/
  | hadd2 (m : HFmt) (d : VReg) (a : VReg) (b : BOp)
  /-- HADD2_UNI (R170): Uniform packed 16-bit add. -/
  | hadd2Uni (m : HFmt) (d : SReg) (a : SReg) (b : UOp)
  /-- HMUL2 (R170): Per-cell packed 16-bit multiply. -/
  | hmul2 (m : HFmt) (d : VReg) (a : VReg) (b : BOp)
  /-- HMUL2_UNI (R170): Uniform packed 16-bit multiply. -/
  | hmul2Uni (m : HFmt) (d : SReg) (a : SReg) (b : UOp)
  /-- HFMA2 (R170): Per-cell packed 16-bit fused multiply-add. -/
  | hfma2 (m : HFmt) (d : VReg) (a : VReg) (b : BOp)
  /-- HFMA2_UNI (R170): Uniform packed 16-bit fused multiply-add. -/
  | hfma2Uni (m : HFmt) (d : SReg) (a : SReg) (b : UOp)
  /-- RAND (R176): Per-cell draw from the cell's stream, advancing its draw counter. -/
  | rand (m : RandKind) (d : VReg)
  /-- CVT (R171): Per-cell conversion of major 0x1C with a directed rounding mode. -/
  | cvt (c : CvtKind) (m : Rnd) (d : VReg) (b : BOp)
  /-- CVT_EXT (R171): Per-cell conversion of major 0x1D. -/
  | cvtExt (c : CvtExt) (d : VReg) (b : BOp)
  /-- CVT_UNI (R171): Uniform FP32 to INT32 or INT32 to FP32 conversion. -/
  | cvtUni (c : CvtUni) (d : SReg) (b : UOp)
  /-- NPACK (R174): Quantises 32 FP32 registers into a narrow block per cell. -/
  | npack (m : NFmt) (d : VReg) (a : VReg)
  /-- NUNPACK (R175): Widens a narrow block into 32 FP32 registers per cell. -/
  | nunpack (m : NFmt) (d : VReg) (a : VReg)
  /-- LD (R186): Per-cell scratchpad load under a handle and scope. -/
  | ld (m : LdSize) (d : VReg) (a : FmOp)
  /-- ST (R186): Per-cell scratchpad store under a handle and scope. -/
  | st (m : StSize) (d : VReg) (a : FmOp)
  /-- LD_UNI (R186): Uniform scratchpad load into an S register. -/
  | ldUni (m : LdSize) (d : SReg) (a : FmOp)
  /-- ST_UNI (R186): Uniform 32-bit scratchpad store from an S register. -/
  | stUni (d : SReg) (a : FmOp)
  /-- LDT (R190): Loads skewed tile words by row or column. -/
  | ldt (d : VReg) (a : TileOp)
  /-- STT (R190): Stores skewed tile words by row or column. -/
  | stt (d : VReg) (a : TileOp)
  /-- ACCRD (R192): Reads accumulator tile elements into V registers. -/
  | accrd (d : VReg) (t : TReg) (b : BOp)
  /-- ACCWR (R192): Writes V registers into accumulator tile elements. -/
  | accwr (t : TReg) (a : VReg) (b : BOp)
  /-- LSHUF (R197): Moves register values between cells of a wave. -/
  | lshuf (m : ShufMode) (d : VReg) (a : VReg) (b : BOp)
  /-- BCAST (R198): Per-cell copy of one cell's value to every active cell. -/
  | bcast (d : VReg) (a : VReg) (b : UOp)
  /-- BCAST_UNI (R198): Copies one cell's value into an S register. -/
  | bcastUni (d : SReg) (a : VReg) (b : UOp)
  /-- XCHG (R199): Rendezvous and register swap with a wave on another cluster. -/
  | xchg (d : VReg) (a : VReg) (b : UOp)
  /-- ATOM (R195): Per-cell atomic add, min or max on scratchpad words. -/
  | atom (m : AtomArith) (d : VReg) (a : FmOp)
  /-- ATOM_BITWISE (R195): Per-cell atomic and, or, xor, exchange or compare-and-swap. -/
  | atomBitwise (m : AtomBit) (d : VReg) (a : FmOp)
  /-- ATOM_FLOAT (R195): Per-cell atomic FP32 add, min or max. -/
  | atomFloat (m : AtomFloat) (d : VReg) (a : FmOp)
  /-- ATOM_UNI (R195): Uniform atomic on one scratchpad word. -/
  | atomUni (m : AtomUni) (d : SReg) (a : FmOp)
  /-- BRA (R207): Branch on a K or P condition, diverging the wave when mixed. -/
  | bra (c : BitVec 4) (o : BitVec 21)
  /-- CALL (R205): Conditional call pushing the call stack. -/
  | call (k : KReg) (o : BitVec 21)
  /-- SPLIT (R207): Pushes a split entry naming the reconvergence point. -/
  | split (o : BitVec 21)
  /-- JMP (R205): Jumps to a byte offset from an S register or literal. -/
  | jmp (b : UOp)
  /-- RET (R205): Returns from a call, checking depths. -/
  | ret
  /-- MERGE (R207): Pops a path or split entry and restores the active mask. -/
  | merge
  /-- YIELD (R210): Moves the wave last for issue; a switch point in deterministic mode. -/
  | yield
  /-- EXIT (R211): Commits banks and ends the active cells. -/
  | exit
  /-- NOP (R80): Changes no state other than the PC. -/
  | nop
  /-- BINIT (R245): Sets a barrier's member mask and external count. -/
  | binit (n : SReg) (b : BReg)
  /-- BARR (R245): Arrives at a barrier without waiting. -/
  | barr (h : HReg) (b : BReg)
  /-- BWAIT (R245): Waits for and consumes one barrier completion. -/
  | bwait (b : BReg)
  /-- BSYNC (R245): Arrives at a barrier, then waits for its completion. -/
  | bsync (h : HReg) (b : BReg)
  /-- BQRY (R245): Reads a barrier's state into three S registers. -/
  | bqry (n : SReg) (b : BReg)
  /-- HFORK (R274): Gives a handle a new sequencer gated behind another handle. -/
  | hfork (d : HReg) (h : HReg)
  /-- HJOIN (R274): Gives a handle a new sequencer gated behind two handles. -/
  | hjoin (d : HReg) (h : HReg) (e : HReg)
  /-- HPASS (R276): Appends a pass sending a handle stream to a receiving wave. -/
  | hpass (h : HReg) (n : SReg)
  /-- HRECV (R275): Gives a handle a new sequencer gated on a keyed pass. -/
  | hrecv (d : HReg) (n : SReg)
  /-- HWAIT (R280): Waits until every older entry of a handle is performed. -/
  | hwait (h : HReg)
  /-- HWAIT_RET (R280): Waits on a handle, then detaches and retires it. -/
  | hwaitRet (h : HReg)
  /-- FENCE (R260): Appends a scoped fence to one handle's sequencer. -/
  | fence (c : Scope) (h : HReg)
  /-- FENCE_ALL (R260): Appends one scoped fence at the tail of every sequencer of the wave. -/
  | fenceAll (c : Scope)
  /-- STEP (R137): Waits on the neighbour set, commits published banks and advances the step count. -/
  | step
  /-- ACQ (R225): Requests an extended register set from the team pool. -/
  | acq
  /-- REL (R225): Returns the wave's extended register set to the pool. -/
  | rel
  /-- ELECT (R227): Sets a K register true in the wave holding the elected cell. -/
  | elect (d : KReg)
  /-- CPY (R336): Issues this wave's slice of a team-collective copy. -/
  | cpy (o : FxOp)
  /-- TCPY (R342): Issues a slice of a team-collective tensor copy, reading its descriptor. -/
  | tcpy (o : FxOp)
  /-- GATH (R343): Issues a per-wave gather of one element per active cell. -/
  | gath (o : FxOp)
  /-- SCAT (R343): Issues a per-wave scatter of one element per active cell. -/
  | scat (o : FxOp)
  /-- CBINIT (R346): Sets a circular-buffer register with every count zero. -/
  | cbinit (c : CReg) (n : SReg)
  /-- CPYQ (R348): Queries the Tongs operation at the head of a handle. -/
  | cpyq (n : SReg) (h : HReg)
  /-- CPYQ_RES (R348): Resumes a paused Tongs operation at its faulting segment. -/
  | cpyqRes (h : HReg)
  /-- CPYQ_ABN (R348): Abandons a paused Tongs operation. -/
  | cpyqAbn (h : HReg)
  /-- LAUNCH (R309): Writes a launch packet from the window into a queue. -/
  | launch (t : Bool) (n : SReg)
  /-- QROOM (R293): Reads a queue's room and descriptor bits. -/
  | qroom (n : SReg)
  /-- RST (R443): Issues a remote store with optional flag. -/
  | rst (o : FxOp)
  /-- RLD (R443): Issues a remote load into the window. -/
  | rld (o : FxOp)
  /-- RRED (R450): Issues a contribution to a fabric reduction round. -/
  | rred (o : FxOp)
  /-- RATOM (R449): Issues a remote atomic on a 32-bit word. -/
  | ratom (o : FxOp)
  /-- RCPY (R443): Issues a remote bulk copy of up to 64 MiB. -/
  | rcpy (o : FxOp)
  /-- RWAIT (R451): Waits for a handle's remote operations and optionally reads their status. -/
  | rwait (t : Bool) (n : SReg) (h : HReg)
  /-- SWPLAN (R471): Reads two layout records and writes a re-sharding plan. -/
  | swplan (n : SReg) (p : SReg)
  /-- SWGO (R472): Starts this device's part of a plan. -/
  | swgo (o : FxOp)
  /-- SWSTAT (R475): Reads a plan header's progress fields. -/
  | swstat (n : SReg)
  /-- SWRESUME (R473): Resumes a paused or stopped plan from its recorded progress. -/
  | swresume (o : FxOp)
  /-- SWABORT (R474): Abandons the Swage operation at a handle's head. -/
  | swabort (h : HReg)
  /-- CBTAKE (R347): Waits for a full slot and takes it. -/
  | cbtake (d : AReg) (c : CReg)
  /-- CBFREE (R347): Appends a team fence and release of the oldest taken slot. -/
  | cbfree (c : CReg)
  /-- RESQ (R323): Queries the residency of each cell's page. -/
  | resq (d : VReg) (h : HReg)
  /-- PAGEREQ (R323): Requests absent pages of sparse extents. -/
  | pagereq (d : VReg) (h : HReg)
  /-- MZERO (R369): Queues a matrix operation clearing a pair tile. -/
  | mzero (t : TReg)
  /-- MRDY (R370): Appends a cluster-scope ready fence on every handle. -/
  | mrdy
  /-- MWAIT (R372): Waits until earlier matrix operations on a tile retire. -/
  | mwait (t : TReg)
  /-- MDRAIN (R375): Queues a drain that requantises a tile into the window. -/
  | mdrain (m : DrainFmt) (t : TReg) (n : SReg) (i : Bool) (z : Bool)
  /-- MMA (R371): Queues a 128x128 matrix multiply-accumulate on the pair. -/
  | mma (m : MmaFmt) (o : MmaOp)
  /-- SYSR (R214): Reads a system register into an S register. -/
  | sysr (d : SReg) (r : BitVec 6) (b : Option UOp)
  /-- SYSW_TRAPPC (R214): Writes TRAPPC in handler mode. -/
  | syswTrappc (b : UOp)
  /-- SYSW_TRAPRES (R214): Writes the resume mask of TRAPRES in handler mode. -/
  | syswTrapres (b : UOp)
  /-- TRAP (R215): Raises SWTRAP with a code and enters the handler. -/
  | trap (b : UOp)
  /-- TRET (R215): Checks and leaves handler mode, re-issuing or continuing. -/
  | tret
  /-- CAUSEC (R215): Reads and clears one WCAUSE bit. -/
  | causec (d : SReg) (b : UOp)
  /-- BKPT (R215): Halts for a debugger or raises BRKPT. -/
  | bkpt (i : BitVec 6)
  /-- PENDING_FAULT_DELIVERY (R494): Delivers the oldest pending engine or fabric fault at a chain boundary. -/
  | pendingFaultDelivery (w : Nat)
  /-- NOTICE (R127): Received step notice updates the halo step table and exit marks. -/
  | notice (peer : Nat) (flit : Flit)
  /-- HALO (R127): Received halo head and data write remote banks into the halo store. -/
  | halo (peer : Nat) (flit : Flit)
  /-- PLACE (R222): A pending team is placed on a core with room for its window. -/
  | place (k : Nat) (t : Nat) (core : Nat)
  /-- EVICT (R134): Core evicts the held team with the highest step count. -/
  | evict (core : Nat)
  /-- RELOAD (R134): Core reloads the evicted team with the lowest step count. -/
  | reload (core : Nat)
  /-- QUANTUM_END (R230): A deterministic quantum ends after Q retired words. -/
  | quantumEnd (t : Nat)
  /-- COMMIT (R266): Performs a round's staged effects in ascending WID order. -/
  | commit (t : Nat)
  /-- TOKEN_PASS (R233): The floating-point token passes to the next team once its round is drained. -/
  | tokenPass (k : Nat)
  /-- DETLOCK (R234): A quiet deterministic run raises DETLOCK in every waiting wave. -/
  | detlock (k : Nat)
  /-- PERFORM (R252): An access entry at a sequencer head is performed. -/
  | perform (w : Nat) (slot : Nat)
  /-- DRAIN (R253): A buffered wave-scope store drains into its location modules. -/
  | drain (w : Nat) (id : Nat)
  /-- ACCEPT (R254): An operation entry is handed to its engine or fabric channel. -/
  | accept (w : Nat) (id : Nat)
  /-- SEGMENT (R255): An engine operation performs its next segment. -/
  | segment (op : Nat)
  /-- COMPLETE (R255): An engine operation completes, removing markers then arriving. -/
  | complete (op : Nat)
  /-- FAULT (R256): An engine segment faults before writing and the operation pauses. -/
  | fault (op : Nat)
  /-- DELIVER (R257): The oldest packet of a fabric channel is performed at the target. -/
  | deliver (ch : Nat)
  /-- ACK (R257): The target's outcome reaches the source and removes the marker. -/
  | ack (op : Nat)
  /-- OPEN (R258): A fork, join or receive gate opens. -/
  | openGate (w : Nat) (slot : Nat)
  /-- FENCE_OPEN (R260): A fence opens once older entries are performed at its scope. -/
  | fenceOpen (w : Nat) (id : Nat)
  /-- ROOTLAUNCH (R287): Host command writing one launch packet at a queue tail. -/
  | rootlaunch (box : Nat) (vf : Nat) (q : Nat) (pkt : List Byte)
  /-- BIND (R285): Host command binding a queue to a context, pinning its ring. -/
  | bind (box : Nat) (vf : Nat) (q : Nat) (base : Nat) (logcap : Nat) (prio : Nat)
  /-- UNBIND (R285): Host command moving a bound queue to CLOSING. -/
  | unbind (box : Nat) (vf : Nat) (q : Nat)
  /-- DISCARD (R285): A closing queue discards its head, ending that launch FAILED. -/
  | discard (q : Nat)
  /-- SELECT (R289): The schedulers dispatch the next eligible queue head. -/
  | select (part : Nat)
  /-- TRANSLATED (R313): A kernel's ranges are translated and pinned; it starts dispatching. -/
  | translated (k : Dispatching)
  /-- KERNEL_DONE (R304): Signals the SIGNAL counter and writes the report after all entries perform. -/
  | kernelDone (k : Nat)
  /-- COUNTER_POLL (R304): Periodic re-read of waited completion counters at least every 10 µs. -/
  | counterPoll (q : Nat)
  /-- MEMWRITE (R73): Host command writing up to 4096 bytes through a context's translation. -/
  | memwrite (box : Nat) (vf : Nat) (va : Nat) (bytes : List Byte)
  /-- FILLED (R318): Servicer ends a page service with a frame. `host`: the host has been called for the page (R317).
  `vf` from 16 on is a command that another mailbox gives: the virtual function is `vf` mod 16, the mailbox's number `vf` div 16 less 1. -/
  | filled (vf : Nat) (page : Nat) (e1 : Option TableEnt) (e2 : Option TableEnt) (asked : Bool) (host : Bool)
  /-- NOBACK (R318): Servicer ends a page service without a frame. `vf` is as for FILLED. -/
  | noback (vf : Nat) (page : Nat)
  /-- SHOOTDOWN (R327): Bumps the extent generation and waits for older requests to drain. -/
  | shootdown (vf : Nat) (pages : List Nat)
  /-- RECLAIM (R327): After the drain the servicer reclaims, moves or narrows the page. -/
  | reclaim (vf : Nat) (task : PageTask)
  /-- SHOOTDOWN_TIMEOUT (R328): 50 µs bound exceeded; the lagging context is quenched. -/
  | shootdownTimeout (vf : Nat)
  /-- MOVE (R329): Servicer starts migrating a page, setting MIGRATING. -/
  | move (vf : Nat) (page : Nat) (pfn : Nat)
  /-- MOVED (R329): Migration completes with the new frame in place. -/
  | moved (vf : Nat) (page : Nat)
  /-- WAIT_NOTICE_TIMER (R330): Target sends a keep-waiting notice every 10 µs for a parked access. -/
  | waitNoticeTimer (ch : Nat)
  /-- PARKED_COMPLETE (R331): A parked access completes late, performed or with FAULT. -/
  | parkedComplete (ch : Nat)
  /-- RESERVE (R345): An accepted CBE copy reserves the next free slot. -/
  | reserve (op : Nat)
  /-- TOKEN_TICK (R350): Per-microsecond refill, debt payment and lending of Tongs tokens. -/
  | tokenTick
  /-- ALLOWANCE_SET (R349): Host command setting a VF's token allowance. -/
  | allowanceSet (box : Nat) (vf : Nat) (amount : Nat)
  /-- MATRIX_START (R367): A queued matrix operation starts on the pair's arrays. -/
  | matrixStart (pair : Nat)
  /-- RETIRE (R360): A matrix operation retires, settling its tile and opening MWAITs. -/
  | retire (pair : Nat)
  /-- CREATE (R393): Host command creating a PARKED context on a virtual function. -/
  | create (box : Nat) (vf : Nat) (parts : BitVec 4)
  /-- CTX_CONFIGURE (R391): Host command changing SLICE, GRACE or QTIME of a parked context. -/
  | ctxConfigure (box : Nat) (vf : Nat) (slice : Nat) (grace : Nat) (qtime : Nat)
  /-- CTXREAD (R391): Host command returning a context record. -/
  | ctxread (box : Nat) (vf : Nat)
  /-- IMGREAD (R396): Host command reading a parked context's images. -/
  | imgread (box : Nat) (vf : Nat)
  /-- DESTROY (R393): Host command moving a context to DRAINING. -/
  | destroy (box : Nat) (vf : Nat)
  /-- CONTEXT_DRAINED (R433): After replies or 100 µs, the VF generation bumps and the context is freed. -/
  | contextDrained (vf : Nat)
  /-- TURN (R392): The next context with work begins a turn with its computed length. -/
  | turn (part : Nat)
  /-- SLICEEND (R394): Soft request timer: the context dispatches nothing more. -/
  | sliceend (vf : Nat)
  /-- GRACE (R394): Timer forcing an instruction-level halt of every team. -/
  | grace (vf : Nat)
  /-- HALTED (R395): Halt complete after non-pre-emptible operations end; debt recorded. -/
  | halted (vf : Nat) (overrun : Nat)
  /-- QTIMER (R394): Quench timer expires without HALTED; the context is quenched. -/
  | qtimer (vf : Nat)
  /-- RESTORED (R398): Tag checks of the saved image finish; waves reload and run. `first`: the unit that is read first. -/
  | restored (vf : Nat) (first : Nat)
  /-- QUENCH (R399): Host command or internal kill that stops and zeroes a context. -/
  | quench (box : Nat) (vf : Nat)
  /-- RESETDONE (R399): No unit holds the quenched context's state; it becomes FAILED. -/
  | resetdone (vf : Nat)
  /-- BLKMOVE (R400): Host command starting the move of a 2 GiB block between partitions. -/
  | blkmove (box : Nat) (block : Nat) (part : Nat)
  /-- REMOVED (R400): Guest report that no frame of the block is mapped; scrubbing begins. -/
  | removed (block : Nat)
  /-- BLKMOVE_TIMEOUT (R400): Guest does not report REMOVED in time; the block stays OWNED. -/
  | blkmoveTimeout (block : Nat)
  /-- SCRUBBED (R400): Block zeroed and invalidated; it enters the receiving pool. -/
  | scrubbed (block : Nat)
  /-- CORRECTED_ERROR (R406): A corrected error is counted. -/
  | correctedError (unit : Nat)
  /-- UNCORRECTABLE_ERROR (R406): Refetches clean data or quenches the blast set with BLAST. `reading`: the read of an image that is
  restored has met it (R398). -/
  | uncorrectableError (unit : Nat) (reading : Bool) (addr : Nat)
  /-- HNDSET (R410): Host command setting the context's handler offset. -/
  | hndset (box : Nat) (vf : Nat) (off : Word)
  /-- FLTREAD (R413): Host command reading the escalation record. -/
  | fltread (box : Nat) (vf : Nat)
  /-- EVTREAD (R435): Host command reading link event records. -/
  | evtread
  /-- RUNBIND (R432): Host command mapping peer VFs of a cross-device run. -/
  | runbind (box : Nat) (vf : Nat) (peer : Nat) (peerVf : Nat)
  /-- IDLE (R418): Received idle flit, carrying only its acknowledgement. -/
  | idle (peer : Nat) (flit : Flit)
  /-- CTRL_ACK (R421): Received cumulative link acknowledgement frees replay entries. -/
  | ctrlAck (peer : Nat) (flit : Flit)
  /-- NAK (R421): Received NAK makes the sender resend from the named LSEQ. -/
  | nak (peer : Nat) (flit : Flit)
  /-- RESTRIPE (R420): Received restripe changes the active wavelength mask at a flit boundary. -/
  | restripe (peer : Nat) (flit : Flit)
  /-- CTRL_CREDIT (R431): Received credit returns reorder-stage allowance to a VF. -/
  | ctrlCredit (peer : Nat) (flit : Flit)
  /-- LOL (R423): Received loss-of-light report; sender restripes excluding dark wavelengths. -/
  | lol (peer : Nat) (flit : Flit)
  /-- REQ (R427): Received request head enters the reorder stage or is forwarded. -/
  | req (peer : Nat) (flit : Flit)
  /-- DATA (R417): Received data flit joins its packet. -/
  | data (peer : Nat) (flit : Flit)
  /-- RSP (R452): Received reply head with status, old value or read data. -/
  | rsp (peer : Nat) (flit : Flit)
  /-- PASS (R277): Received pass flit enters its channel toward the receiver. -/
  | pass (peer : Nat) (flit : Flit)
  /-- DONE (R418): Received end-to-end acknowledgement with status. -/
  | done (peer : Nat) (flit : Flit)
  /-- WAIT (R330): Received keep-waiting notice keeps the operation HANDED OFF. -/
  | wait (peer : Nat) (flit : Flit)
  /-- GENN (R434): Received generation notice discards and reclaims the old generation's traffic. -/
  | genn (peer : Nat) (flit : Flit)
  /-- ACK_TIMER (R421): Receiver sends CTRL ACK after 200 ns with nothing else to send. -/
  | ackTimer (peer : Nat)
  /-- REPLAY_TIMEOUT (R421): No acknowledgement for 2 µs; sender resends from the oldest unacknowledged flit. -/
  | replayTimeout (peer : Nat)
  /-- LOSS_OF_LIGHT (R423): Receiver loses light on wavelengths and reports LOL within 50 ns. -/
  | lossOfLight (peer : Nat) (mask : BitVec 64)
  /-- BERHIGH (R424): A 1 ms BER window exceeds threshold; the wavelength is excluded for retraining. -/
  | berhigh (peer : Nat) (wl : Nat)
  /-- WLBACK (R424): A retrained wavelength returns with a restripe. -/
  | wlback (peer : Nat) (wl : Nat)
  /-- WLDEAD (R424): A wavelength failing retraining three times stays excluded. -/
  | wldead (peer : Nat) (wl : Nat)
  /-- RETRAIN (R422): Hearth's 100 ms timer retrains a failed link. -/
  | retrain (peer : Nat) (spares : Nat)
  /-- TRAINED (R422): Training completes with at least 8 wavelengths. -/
  | trained (peer : Nat) (mask : BitVec 64)
  /-- TRAINFAIL (R422): Three 10 ms training attempts fail; the link is FAILED. -/
  | trainfail (peer : Nat)
  /-- UNREACHABLE (R430): NOROUTE lasts 1 ms; packets end INDETERMINATE and waiters take LINKERR. -/
  | unreachable (peer : Nat)
  /-- RESYNC (R430): Both sides confirm a new epoch and restart PSEQ after a route returns. -/
  | resync (peer : Nat)
  /-- RCPY_PACKET (R443): The port reads and sends the next RCPY packet, faulting on its source page. -/
  | rcpyPacket (op : Nat)
  /-- WRITTEN (R471): Plan generation finishes and the plan becomes PLANNED. -/
  | written (w : Nat)
  /-- SWAGE_SEGMENT_START (R465): The next own segment within the 64-segment window translates and starts. -/
  | swageSegmentStart (op : Nat)
  /-- SWAGE_SEGMENT_DONE (R465): An own segment completes and advances the cursor. -/
  | swageSegmentDone (op : Nat) (seg : Nat)
  /-- LINK_WIDTH_DROP (R24): A mesh link drops one width after a low-utilisation window. -/
  | linkWidthDrop (link : Nat)
  /-- LINK_WIDTH_RETURN (R24): A mesh link returns to full width when four flits queue. -/
  | linkWidthReturn (link : Nat)
  /-- CROSSBAR_TOKEN (R21): A home-channel token hold: up to four packets sent, then the token passes. -/
  | crossbarToken (chan : Nat)
  /-- CLOCK_HALVE (R492): Power or temperature over limit halves a die's clock. -/
  | clockHalve (die : Nat)
  /-- CLOCK_RESTORE (R492): After 10 ms under limits the die returns to 4.0 GHz. -/
  | clockRestore (die : Nat)
  /-- THERMAL_TRIP (R492): A sensor above 115 °C quenches the partition's contexts and holds the die. -/
  | thermalTrip (die : Nat)
  /-- POWER_ON (R484): Power-on enters RESET with Hearth running its boot ROM. -/
  | powerOn
  /-- RESET (R484): Host command restarting the device from RESET. -/
  | reset
  /-- ROM_DONE (R484): Boot ROM finishes; the firmware image is verified. -/
  | romDone
  /-- STACK_TRAINED (R484): HBM training progress opens reduced then full service. -/
  | stackTrained (stack : Nat)
  /-- HBMTRAIN (R486): A stack fails training; contexts quenched and the start fails. -/
  | hbmtrain (stack : Nat)
  /-- STATUS (R484): Host command returning the start stage. -/
  | status
  /-- ATTEST (R490): Host command starting a signed attestation report. -/
  | attest (nonce : List Byte)
  /-- ATTEST_REPORT (R490): Signing completes and the report is returned. -/
  | attestReport
  /-- FWLOAD (R489): Host command loading and checking a recovery image. -/
  | fwload (image : List Byte)
  /-- FWCOMMIT (R488): Host command storing the loaded image and raising the fused minimum. -/
  | fwcommit
  /-- REGISTER_WRITE (R9): Write to a register that has no row of its own. -/
  | registerWrite (reg : Nat) (value : BitVec 64)
  /-- ILLOP (R77): An instruction word in an unassigned major or column, such as 0x7E00_0000, is fetched and raises ILLOP before issue. -/
  | illop (slot : Nat)
  /-- UCIE_EVENT (R10): A failure of the host die reaches the device as an event at the UCIe attachment. -/
  | ucieEvent (code : Nat)
  /-- THERMAL_RELEASE (R492): A die held in reset after a thermal trip is released once its sensors read below 95 °C. -/
  | thermalRelease (die : Nat)
  /-- DEBUGGER_ATTACH (R212): A debugger attaches or detaches, changing DBGATT and allowing a team halt for the debugger. -/
  | debuggerAttach (on : Bool)
  /-- DEBUGGER_RESUME (R215): A team halted for the debugger resumes, at PC_bkpt + 4 after a BKPT. -/
  | debuggerResume (t : Nat)
deriving DecidableEq, Repr

end Sys2Proof
end

