-- ==== Sys2Proof/WellFormed.lean ====
section
/-! DEFINITION. What a word alone must satisfy beyond its register classes (spec/03_formats.md R67, R69): even pairs,
runs that stay within their file, scopes and selectors an entry accepts. Every other condition of R67 to R69 holds by
the types of the syntax. -/
namespace Sys2Proof

/-- Every V pair named is even (R67). -/
def evens (l : List VReg) : Bool := l.all fun r => r.toNat % 2 = 0
/-- Every S pair named is even (spec/07_isa_integer.md R140). -/
def evenS (l : List SReg) : Bool := l.all fun r => r.toNat % 2 = 0

/-- A 64-bit B-operand names an even register of its class (R63, R152). -/
def BOp.even : BOp → Bool
  | .v r => r.toNat % 2 = 0
  | .s r => r.toNat % 2 = 0
  | .nbr _ _ r => r.toNat % 2 = 0
  | .imm _ => true
  | .lit _ => true

/-- A 64-bit uniform B-operand names an even register. -/
def UOp.even : UOp → Bool
  | .s r => r.toNat % 2 = 0
  | .imm _ => true
  | .lit _ => true

/-- Whether the operand is an immediate. -/
def UOp.isImm : UOp → Bool
  | .imm _ => true
  | _ => false

/-- Scratchpad words accept wave and team scope only (spec/09_isa_memory.md R184). -/
def FmOp.spadScope (o : FmOp) : Bool := o.scope == .wave || o.scope == .team

/-- The registers of a stored block (spec/08_isa_float.md R173). -/
def NFmt.regs : NFmt → Nat
  | .tx8 => 9
  | .tx4 => 5
  | .ob8 => 9
  | .ob4 => 5

/-- The FP64-source columns of major 0x1C (R161). -/
def CvtKind.src64 : CvtKind → Bool
  | .f32f64 => true
  | _ => false
/-- The FP64-source columns of major 0x1D. -/
def CvtExt.src64 : CvtExt → Bool
  | .s32f64rn => true
  | .s32f64rz => true
  | _ => false
/-- The FP64-result columns of major 0x1D. -/
def CvtExt.dst64 : CvtExt → Bool
  | .f64f32 => true
  | .f64s32 => true
  | .f64u32 => true
  | _ => false

/-- OE needs an A pair; RA is for bf16 and f16 with K = 64 and DA = 0 (spec/20_matrix.md R366, R368, R376). -/
def MmaOp.wf (m : MmaFmt) (o : MmaOp) : Bool :=
  (!o.oe || decide (o.ao.toNat ≤ 6)) &&
  (!o.ra || ((m == .bf16 || m == .f16) && o.kc == 1 && o.da == 0))

/-- SYSR names a register 0 to 16; the two masks take a selector, the others none (spec/10_isa_control.md R204,
notes/assumptions/9.md). -/
def sysrWf (r : BitVec 6) (b : Option UOp) : Bool :=
  decide (r.toNat ≤ 16) && ((r == 1 || r == 2) == b.isSome)

/-- Whether a word's fields are within what its entry accepts. The machine's other steps carry no word. -/
def Instr.wf : Instr → Bool
  | .iadd _ _ _ => true
  | .iaddUni _ _ _ => true
  | .isub _ _ _ => true
  | .isubUni _ _ _ => true
  | .irsub _ _ _ => true
  | .irsubUni _ _ _ => true
  | .imul _ _ _ => true
  | .imulUni _ _ _ => true
  | .imulhi _ _ _ => true
  | .imulhiUni _ _ _ => true
  | .imad _ _ _ => true
  | .imadUni _ _ _ => true
  | .imin _ _ _ => true
  | .iminUni _ _ _ => true
  | .imax _ _ _ => true
  | .imaxUni _ _ _ => true
  | .iabs _ _ => true
  | .iabsUni _ _ => true
  | .ineg _ _ => true
  | .inegUni _ _ => true
  | .iaddc _ _ _ => true
  | .iaddcUni _ _ _ => true
  | .isat _ _ _ => true
  | .isatUni _ _ _ => true
  | .and _ _ _ => true
  | .andUni _ _ _ => true
  | .or _ _ _ => true
  | .orUni _ _ _ => true
  | .xor _ _ _ => true
  | .xorUni _ _ _ => true
  | .andn _ _ _ => true
  | .andnUni _ _ _ => true
  | .not _ _ => true
  | .notUni _ _ => true
  | .shl _ _ _ => true
  | .shlUni _ _ _ => true
  | .shr _ _ _ => true
  | .shrUni _ _ _ => true
  | .sar _ _ _ => true
  | .sarUni _ _ _ => true
  | .rot _ _ _ => true
  | .rotUni _ _ _ => true
  | .clz _ _ => true
  | .clzUni _ _ => true
  | .popc _ _ => true
  | .popcUni _ _ => true
  | .brev _ _ => true
  | .brevUni _ _ => true
  | .bfe _ _ _ => true
  | .bfeUni _ _ _ => true
  | .bfi _ _ _ => true
  | .bfiUni _ _ _ => true
  | .sel _ _ _ => true
  | .selUni _ _ _ => true
  | .icmp _ _ _ _ => true
  | .icmpUni _ _ _ _ => true
  | .icmpUnsigned _ _ _ _ => true
  | .icmpUnsignedUni _ _ _ _ => true
  | .pand _ _ _ => true
  | .pandUni _ _ _ => true
  | .por _ _ _ => true
  | .porUni _ _ _ => true
  | .pxor _ _ _ => true
  | .pxorUni _ _ _ => true
  | .pnot _ _ => true
  | .pnotUni _ _ => true
  | .vote _ _ _ => true
  | .ballot _ _ _ => true
  | .mov _ _ => true
  | .movUni _ _ => true
  | .movl d b => evens [d] && b.even
  | .movlUni d b => evenS [d] && b.even
  | .widf _ _ => true
  | .widfUni _ k => k != .f0
  | .aadd _ _ _ => true
  | .aset _ _ => true
  | .iset _ n => decide (n.toNat ≤ 29)
  | .movi _ _ => true
  | .moviUni _ _ => true
  | .imulhiUnsigned _ _ _ => true
  | .imulhiUnsignedUni _ _ _ => true
  | .iminUnsigned _ _ _ => true
  | .iminUnsignedUni _ _ _ => true
  | .imaxUnsigned _ _ _ => true
  | .imaxUnsignedUni _ _ _ => true
  | .isatUnsigned _ _ _ => true
  | .isatUnsignedUni _ _ _ => true
  | .bfeUnsigned _ _ _ => true
  | .bfeUnsignedUni _ _ _ => true
  | .fadd _ _ _ => true
  | .faddUni _ _ _ => true
  | .fsub _ _ _ => true
  | .fsubUni _ _ _ => true
  | .fmul _ _ _ => true
  | .fmulUni _ _ _ => true
  | .ffma _ _ _ => true
  | .ffmaUni _ _ _ => true
  | .fmin _ _ _ => true
  | .fminUni _ _ _ => true
  | .fmax _ _ _ => true
  | .fmaxUni _ _ _ => true
  | .fabs _ _ => true
  | .fabsUni _ _ => true
  | .fneg _ _ => true
  | .fnegUni _ _ => true
  | .frsub _ _ _ => true
  | .frsubUni _ _ _ => true
  | .fcmp _ _ _ _ => true
  | .fcmpUni _ _ _ _ => true
  | .frcp _ _ => true
  | .frcpUni _ _ => true
  | .frsq _ _ => true
  | .frsqUni _ _ => true
  | .fsqrt _ _ => true
  | .fsqrtUni _ _ => true
  | .fexp2 _ _ => true
  | .fexp2Uni _ _ => true
  | .flog2 _ _ => true
  | .flog2Uni _ _ => true
  | .fsin _ _ => true
  | .fsinUni _ _ => true
  | .fcos _ _ => true
  | .fcosUni _ _ => true
  | .dadd d a b => evens [d, a] && b.even
  | .dmul d a b => evens [d, a] && b.even
  | .dfma d a b => evens [d, a] && b.even
  | .hadd2 _ _ _ _ => true
  | .hadd2Uni _ _ _ _ => true
  | .hmul2 _ _ _ _ => true
  | .hmul2Uni _ _ _ _ => true
  | .hfma2 _ _ _ _ => true
  | .hfma2Uni _ _ _ _ => true
  | .rand _ _ => true
  | .cvt c _ _ b => (!c.src64 || b.even)
  | .cvtExt c d b => (!c.src64 || b.even) && (!c.dst64 || evens [d])
  | .cvtUni _ _ _ => true
  | .npack m d a => decide (d.toNat + m.regs ≤ 64) && decide (a.toNat ≤ 32)
  | .nunpack m d a => decide (a.toNat + m.regs ≤ 64) && decide (d.toNat ≤ 32)
  | .ld m d a => (m != .b64 || evens [d]) && a.spadScope
  | .st m d a => (m != .b64 || evens [d]) && a.spadScope
  | .ldUni m _ a => (m != .b64) && a.spadScope
  | .stUni _ a => true && a.spadScope
  | .ldt _ _ => true
  | .stt _ _ => true
  | .accrd _ _ _ => true
  | .accwr _ _ _ => true
  | .lshuf _ _ _ _ => true
  | .bcast _ _ _ => true
  | .bcastUni _ _ _ => true
  | .xchg _ _ _ => true
  | .atom _ _ a => true && a.spadScope
  | .atomBitwise m d a => (m != .cas || evens [d]) && a.spadScope
  | .atomFloat _ _ a => true && a.spadScope
  | .atomUni m d a => (m != .cas || evenS [d]) && a.spadScope
  | .bra _ _ => true
  | .call _ _ => true
  | .split _ => true
  | .jmp b => !b.isImm
  | .ret => true
  | .merge => true
  | .yield => true
  | .exit => true
  | .nop => true
  | .binit _ _ => true
  | .barr _ _ => true
  | .bwait _ => true
  | .bsync _ _ => true
  | .bqry n _ => decide (n.toNat ≤ 29)
  | .hfork _ _ => true
  | .hjoin _ _ _ => true
  | .hpass _ n => decide (n.toNat ≤ 29)
  | .hrecv _ _ => true
  | .hwait _ => true
  | .hwaitRet _ => true
  | .fence _ _ => true
  | .fenceAll _ => true
  | .step => true
  | .acq => true
  | .rel => true
  | .elect _ => true
  | .cpy o => decide (o.sbase.toNat + 4 ≤ 32)
  | .tcpy o => decide (o.sbase.toNat + 3 ≤ 32)
  | .gath o => decide (o.sbase.toNat + 2 ≤ 32)
  | .scat o => decide (o.sbase.toNat + 2 ≤ 32)
  | .cbinit _ n => decide (n.toNat ≤ 29)
  | .cpyq n _ => decide (n.toNat ≤ 28)
  | .cpyqRes _ => true
  | .cpyqAbn _ => true
  | .launch _ n => decide (n.toNat ≤ 30)
  | .qroom n => decide (n.toNat ≤ 30)
  | .rst o => decide (o.sbase.toNat + 6 ≤ 32)
  | .rld o => decide (o.sbase.toNat + 4 ≤ 32)
  | .rred o => decide (o.sbase.toNat + 7 ≤ 32)
  | .ratom o => decide (o.sbase.toNat + 4 ≤ 32)
  | .rcpy o => decide (o.sbase.toNat + 7 ≤ 32)
  | .rwait t n _ => (if t then decide (n.toNat ≤ 30) else decide (n = 0))
  | .swplan n _ => decide (n.toNat ≤ 28)
  | .swgo o => decide (o.sbase.toNat + 4 ≤ 32)
  | .swstat n => decide (n.toNat ≤ 28)
  | .swresume o => decide (o.sbase.toNat + 4 ≤ 32)
  | .swabort _ => true
  | .cbtake _ _ => true
  | .cbfree _ => true
  | .resq _ _ => true
  | .pagereq _ _ => true
  | .mzero _ => true
  | .mrdy => true
  | .mwait _ => true
  | .mdrain _ _ n _ _ => decide (n.toNat ≤ 27)
  | .mma m o => o.wf m
  | .sysr _ r b => sysrWf r b
  | .syswTrappc _ => true
  | .syswTrapres _ => true
  | .trap _ => true
  | .tret => true
  | .causec _ _ => true
  | .bkpt _ => true
  | .pendingFaultDelivery _ => true
  | .notice _ _ => true
  | .halo _ _ => true
  | .place _ _ _ => true
  | .evict _ => true
  | .reload _ => true
  | .quantumEnd _ => true
  | .commit _ => true
  | .tokenPass _ => true
  | .detlock _ => true
  | .perform _ _ => true
  | .drain _ _ => true
  | .accept _ _ => true
  | .segment _ => true
  | .complete _ => true
  | .fault _ => true
  | .deliver _ => true
  | .ack _ => true
  | .openGate _ _ => true
  | .fenceOpen _ _ => true
  | .rootlaunch _ _ _ _ => true
  | .bind _ _ _ _ _ _ => true
  | .unbind _ _ _ => true
  | .discard _ => true
  | .select _ => true
  | .translated _ => true
  | .kernelDone _ => true
  | .counterPoll _ => true
  | .memwrite _ _ _ _ => true
  | .filled _ _ _ _ _ _ => true
  | .noback _ _ => true
  | .shootdown _ _ => true
  | .reclaim _ _ => true
  | .shootdownTimeout _ => true
  | .move _ _ _ => true
  | .moved _ _ => true
  | .waitNoticeTimer _ => true
  | .parkedComplete _ => true
  | .reserve _ => true
  | .tokenTick => true
  | .allowanceSet _ _ _ => true
  | .matrixStart _ => true
  | .retire _ => true
  | .create _ _ _ => true
  | .ctxConfigure _ _ _ _ _ => true
  | .ctxread _ _ => true
  | .imgread _ _ => true
  | .destroy _ _ => true
  | .contextDrained _ => true
  | .turn _ => true
  | .sliceend _ => true
  | .grace _ => true
  | .halted _ _ => true
  | .qtimer _ => true
  | .restored _ _ => true
  | .quench _ _ => true
  | .resetdone _ => true
  | .blkmove _ _ _ => true
  | .removed _ => true
  | .blkmoveTimeout _ => true
  | .scrubbed _ => true
  | .correctedError _ => true
  | .uncorrectableError _ _ _ => true
  | .hndset _ _ _ => true
  | .fltread _ _ => true
  | .evtread => true
  | .runbind _ _ _ _ => true
  | .idle _ _ => true
  | .ctrlAck _ _ => true
  | .nak _ _ => true
  | .restripe _ _ => true
  | .ctrlCredit _ _ => true
  | .lol _ _ => true
  | .req _ _ => true
  | .data _ _ => true
  | .rsp _ _ => true
  | .pass _ _ => true
  | .done _ _ => true
  | .wait _ _ => true
  | .genn _ _ => true
  | .ackTimer _ => true
  | .replayTimeout _ => true
  | .lossOfLight _ _ => true
  | .berhigh _ _ => true
  | .wlback _ _ => true
  | .wldead _ _ => true
  | .retrain _ _ => true
  | .trained _ _ => true
  | .trainfail _ => true
  | .unreachable _ => true
  | .resync _ => true
  | .rcpyPacket _ => true
  | .written _ => true
  | .swageSegmentStart _ => true
  | .swageSegmentDone _ _ => true
  | .linkWidthDrop _ => true
  | .linkWidthReturn _ => true
  | .crossbarToken _ => true
  | .clockHalve _ => true
  | .clockRestore _ => true
  | .thermalTrip _ => true
  | .powerOn => true
  | .reset => true
  | .romDone => true
  | .stackTrained _ => true
  | .hbmtrain _ => true
  | .status => true
  | .attest _ => true
  | .attestReport => true
  | .fwload _ => true
  | .fwcommit => true
  | .registerWrite _ _ => true
  | .illop _ => true
  | .ucieEvent _ => true
  | .thermalRelease _ => true
  | .debuggerAttach _ => true
  | .debuggerResume _ => true

end Sys2Proof
end

