-- ==== Sys2Proof/Decode.lean ====
section
/-! DEFINITION. Decoding and encoding of instruction words, from the format and encoding tables of
spec/03_formats.md and spec/04_opcode_map.md. Decoding is total and names why it refuses a word. -/
namespace Sys2Proof

/-- Why a word is no instruction (R69): an unassigned major, an unassigned column, an index outside its class, a
B-operand the row does not accept, a reserved field that is not zero, a literal with no following slot, or a limit of
the entry (WellFormed). -/
inductive DecErr where | major | column | register | operand | field | literal | limit
deriving DecidableEq, Repr

/-! ## Codes of the modifiers -/

/-- The code of a ICond. -/
def ICond.enc : ICond → BitVec 4
  | .eq => 0
  | .ne => 1
  | .lt => 2
  | .le => 3
  | .gt => 4
  | .ge => 5
/-- The ICond of a code. -/
def ICond.dec (c : BitVec 4) : Except DecErr ICond :=
  match c.toNat with
  | 0 => .ok .eq
  | 1 => .ok .ne
  | 2 => .ok .lt
  | 3 => .ok .le
  | 4 => .ok .gt
  | 5 => .ok .ge
  | _ => .error .column

/-- The code of a UCond. -/
def UCond.enc : UCond → BitVec 4
  | .ltu => 0
  | .leu => 1
  | .gtu => 2
  | .geu => 3
/-- The UCond of a code. -/
def UCond.dec (c : BitVec 4) : Except DecErr UCond :=
  match c.toNat with
  | 0 => .ok .ltu
  | 1 => .ok .leu
  | 2 => .ok .gtu
  | 3 => .ok .geu
  | _ => .error .column

/-- The code of a FCond. -/
def FCond.enc : FCond → BitVec 4
  | .eq => 0
  | .ne => 1
  | .lt => 2
  | .le => 3
  | .gt => 4
  | .ge => 5
  | .un => 6
  | .ord => 7
/-- The FCond of a code. -/
def FCond.dec (c : BitVec 4) : Except DecErr FCond :=
  match c.toNat with
  | 0 => .ok .eq
  | 1 => .ok .ne
  | 2 => .ok .lt
  | 3 => .ok .le
  | 4 => .ok .gt
  | 5 => .ok .ge
  | 6 => .ok .un
  | 7 => .ok .ord
  | _ => .error .column

/-- The code of a VoteMode. -/
def VoteMode.enc : VoteMode → BitVec 4
  | .all => 4
  | .any => 5
  | .uni => 6
/-- The VoteMode of a code. -/
def VoteMode.dec (c : BitVec 4) : Except DecErr VoteMode :=
  match c.toNat with
  | 4 => .ok .all
  | 5 => .ok .any
  | 6 => .ok .uni
  | _ => .error .column

/-- The code of a WidSel. -/
def WidSel.enc : WidSel → BitVec 6
  | .f0 => 0
  | .f1 => 1
  | .f2 => 2
  | .f3 => 3
  | .f4 => 4
  | .f5 => 5
  | .x => 8
  | .y => 9
  | .z => 10
  | .widlo => 12
  | .widhi => 13
/-- The WidSel of a code. -/
def WidSel.dec (c : BitVec 6) : Except DecErr WidSel :=
  match c.toNat with
  | 0 => .ok .f0
  | 1 => .ok .f1
  | 2 => .ok .f2
  | 3 => .ok .f3
  | 4 => .ok .f4
  | 5 => .ok .f5
  | 8 => .ok .x
  | 9 => .ok .y
  | 10 => .ok .z
  | 12 => .ok .widlo
  | 13 => .ok .widhi
  | _ => .error .operand

/-- The code of a HFmt. -/
def HFmt.enc : HFmt → BitVec 4
  | .f16 => 0
  | .bf16 => 1
/-- The HFmt that the field names. -/
def HFmt.dec (c : BitVec 4) : HFmt :=
  match (c.extractLsb' 0 1).toNat with
  | 0 => .f16
  | _ => .bf16

/-- The code of a RandKind. -/
def RandKind.enc : RandKind → BitVec 4
  | .u32 => 0
  | .f32 => 1
/-- The RandKind that the field names. -/
def RandKind.dec (c : BitVec 4) : RandKind :=
  match (c.extractLsb' 0 1).toNat with
  | 0 => .u32
  | _ => .f32

/-- The code of a CvtKind. -/
def CvtKind.enc : CvtKind → BitVec 2
  | .f16f32 => 0
  | .bf16f32 => 1
  | .f32f64 => 2
  | .s32f32 => 3
/-- The CvtKind that the field names. -/
def CvtKind.dec (c : BitVec 4) : CvtKind :=
  match (c.extractLsb' 2 2).toNat with
  | 0 => .f16f32
  | 1 => .bf16f32
  | 2 => .f32f64
  | _ => .s32f32

/-- The code of a Rnd. -/
def Rnd.enc : Rnd → BitVec 2
  | .rn => 0
  | .rz => 1
  | .rp => 2
  | .rm => 3
/-- The Rnd that the field names. -/
def Rnd.dec (c : BitVec 4) : Rnd :=
  match (c.extractLsb' 0 2).toNat with
  | 0 => .rn
  | 1 => .rz
  | 2 => .rp
  | _ => .rm

/-- The code of a CvtExt. -/
def CvtExt.enc : CvtExt → BitVec 4
  | .u32f32rn => 0
  | .u32f32rz => 1
  | .u32f32rp => 2
  | .u32f32rm => 3
  | .s32f64rn => 4
  | .s32f64rz => 5
  | .f32f16 => 6
  | .f32bf16 => 7
  | .f64f32 => 8
  | .f32s32 => 9
  | .f32u32 => 10
  | .f64s32 => 11
  | .f64u32 => 12
/-- The CvtExt of a code. -/
def CvtExt.dec (c : BitVec 4) : Except DecErr CvtExt :=
  match c.toNat with
  | 0 => .ok .u32f32rn
  | 1 => .ok .u32f32rz
  | 2 => .ok .u32f32rp
  | 3 => .ok .u32f32rm
  | 4 => .ok .s32f64rn
  | 5 => .ok .s32f64rz
  | 6 => .ok .f32f16
  | 7 => .ok .f32bf16
  | 8 => .ok .f64f32
  | 9 => .ok .f32s32
  | 10 => .ok .f32u32
  | 11 => .ok .f64s32
  | 12 => .ok .f64u32
  | _ => .error .column

/-- The code of a CvtUni. -/
def CvtUni.enc : CvtUni → BitVec 4
  | .s32f32rz => 0
  | .f32s32 => 1
/-- The CvtUni that the field names. -/
def CvtUni.dec (c : BitVec 4) : CvtUni :=
  match (c.extractLsb' 0 1).toNat with
  | 0 => .s32f32rz
  | _ => .f32s32

/-- The code of a NFmt. -/
def NFmt.enc : NFmt → BitVec 2
  | .tx8 => 0
  | .tx4 => 1
  | .ob8 => 2
  | .ob4 => 3
/-- The NFmt that the field names. -/
def NFmt.dec (c : BitVec 4) : NFmt :=
  match (c.extractLsb' 0 2).toNat with
  | 0 => .tx8
  | 1 => .tx4
  | 2 => .ob8
  | _ => .ob4

/-- The code of a LdSize. -/
def LdSize.enc : LdSize → BitVec 4
  | .u8 => 0
  | .s8 => 1
  | .u16 => 2
  | .s16 => 3
  | .b32 => 4
  | .b64 => 5
/-- The LdSize of a code. -/
def LdSize.dec (c : BitVec 4) : Except DecErr LdSize :=
  match c.toNat with
  | 0 => .ok .u8
  | 1 => .ok .s8
  | 2 => .ok .u16
  | 3 => .ok .s16
  | 4 => .ok .b32
  | 5 => .ok .b64
  | _ => .error .column

/-- The code of a StSize. -/
def StSize.enc : StSize → BitVec 4
  | .b8 => 0
  | .b16 => 1
  | .b32 => 2
  | .b64 => 3
/-- The StSize of a code. -/
def StSize.dec (c : BitVec 4) : Except DecErr StSize :=
  match c.toNat with
  | 0 => .ok .b8
  | 1 => .ok .b16
  | 2 => .ok .b32
  | 3 => .ok .b64
  | _ => .error .column

/-- The code of a AtomArith. -/
def AtomArith.enc : AtomArith → BitVec 4
  | .add => 0
  | .smin => 1
  | .umin => 2
  | .smax => 3
  | .umax => 4
/-- The AtomArith of a code. -/
def AtomArith.dec (c : BitVec 4) : Except DecErr AtomArith :=
  match c.toNat with
  | 0 => .ok .add
  | 1 => .ok .smin
  | 2 => .ok .umin
  | 3 => .ok .smax
  | 4 => .ok .umax
  | _ => .error .column

/-- The code of a AtomBit. -/
def AtomBit.enc : AtomBit → BitVec 4
  | .and => 0
  | .or => 1
  | .xor => 2
  | .exch => 3
  | .cas => 4
/-- The AtomBit of a code. -/
def AtomBit.dec (c : BitVec 4) : Except DecErr AtomBit :=
  match c.toNat with
  | 0 => .ok .and
  | 1 => .ok .or
  | 2 => .ok .xor
  | 3 => .ok .exch
  | 4 => .ok .cas
  | _ => .error .column

/-- The code of a AtomFloat. -/
def AtomFloat.enc : AtomFloat → BitVec 4
  | .fadd => 0
  | .fmin => 1
  | .fmax => 2
/-- The AtomFloat of a code. -/
def AtomFloat.dec (c : BitVec 4) : Except DecErr AtomFloat :=
  match c.toNat with
  | 0 => .ok .fadd
  | 1 => .ok .fmin
  | 2 => .ok .fmax
  | _ => .error .column

/-- The code of a AtomUni. -/
def AtomUni.enc : AtomUni → BitVec 4
  | .add => 0
  | .exch => 1
  | .cas => 2
  | .fadd => 3
/-- The AtomUni of a code. -/
def AtomUni.dec (c : BitVec 4) : Except DecErr AtomUni :=
  match c.toNat with
  | 0 => .ok .add
  | 1 => .ok .exch
  | 2 => .ok .cas
  | 3 => .ok .fadd
  | _ => .error .column

/-- The code of a ShufMode. -/
def ShufMode.enc : ShufMode → BitVec 2
  | .idx => 0
  | .up => 1
  | .down => 2
  | .xor => 3
/-- The ShufMode that the field names. -/
def ShufMode.dec (c : BitVec 4) : ShufMode :=
  match (c.extractLsb' 0 2).toNat with
  | 0 => .idx
  | 1 => .up
  | 2 => .down
  | _ => .xor

/-- The code of a MmaFmt. -/
def MmaFmt.enc : MmaFmt → BitVec 4
  | .tx8 => 0
  | .tx4 => 1
  | .ob8 => 2
  | .ob4 => 3
  | .bf16 => 4
  | .f16 => 5
/-- The MmaFmt of a code. -/
def MmaFmt.dec (c : BitVec 4) : Except DecErr MmaFmt :=
  match c.toNat with
  | 0 => .ok .tx8
  | 1 => .ok .tx4
  | 2 => .ok .ob8
  | 3 => .ok .ob4
  | 4 => .ok .bf16
  | 5 => .ok .f16
  | _ => .error .column

/-- The code of a DrainFmt. -/
def DrainFmt.enc : DrainFmt → BitVec 3
  | .f32 => 0
  | .bf16 => 1
  | .tx8 => 2
  | .tx4 => 3
  | .e4m3 => 4
  | .e5m2 => 5
  | .e2m1 => 6
  | .ob8 => 7
/-- The DrainFmt that the field names. -/
def DrainFmt.dec (c : BitVec 9) : DrainFmt :=
  match (c.extractLsb' 6 3).toNat with
  | 0 => .f32
  | 1 => .bf16
  | 2 => .tx8
  | 3 => .tx4
  | 4 => .e4m3
  | 5 => .e5m2
  | 6 => .e2m1
  | _ => .ob8

/-- The scope code (R61). -/
def Scope.enc : Scope → BitVec 3
  | .wave => 0
  | .team => 1
  | .cluster => 2
  | .device => 3
  | .system => 4
/-- The scope of a code; 101 to 111 are reserved. -/
def Scope.dec (c : BitVec 3) : Except DecErr Scope :=
  match c.toNat with
  | 0 => .ok .wave
  | 1 => .ok .team
  | 2 => .ok .cluster
  | 3 => .ok .device
  | 4 => .ok .system
  | _ => .error .field

/-! ## Fields -/

/-- An S index in a six-bit field. -/
def sE (s : SReg) : BitVec 6 := 0#1 ++ s
/-- A three-bit index in a six-bit field. -/
def p3E (p : BitVec 3) : BitVec 6 := 0#3 ++ p
/-- A predicate in the B field (spec/07_isa_integer.md R149). -/
def p9E (p : BitVec 3) : BitVec 9 := 0#6 ++ p
/-- An S register in the B field (R62). -/
def s9E (s : SReg) : BitVec 9 := 0b0010#4 ++ s
/-- An immediate in the B field. -/
def immE (i : BitVec 6) : BitVec 9 := 0b010#3 ++ i

/-- An S index of a six-bit field; 32 to 63 are outside the class (R67). -/
def sD (f : BitVec 6) : Except DecErr SReg := if f.getLsbD 5 then .error .register else .ok (f.extractLsb' 0 5)
/-- A three-bit index of a six-bit field. -/
def p3D (f : BitVec 6) : Except DecErr (BitVec 3) :=
  if f.extractLsb' 3 3 = 0 then .ok (f.extractLsb' 0 3) else .error .register
/-- A field the form does not use must be zero (R9, R58). -/
def zero {n : Nat} (f : BitVec n) : Except DecErr Unit := if f = 0 then .ok () else .error .field

/-- The axis code (R41). -/
def Axis.enc : Axis → BitVec 2
  | .x => 0
  | .y => 1
  | .z => 2

/-- The B-operand's nine bits (R62). -/
def BOp.enc : BOp → BitVec 9
  | .v r => 0b000#3 ++ r
  | .s r => s9E r
  | .imm i => immE i
  | .lit _ => 0x0FF
  | .nbr ax plus r => 1#1 ++ ax.enc ++ BitVec.ofBool plus ++ r
/-- The uniform B-operand's nine bits. -/
def UOp.enc : UOp → BitVec 9
  | .s r => s9E r
  | .imm i => immE i
  | .lit _ => 0x0FF
/-- The literal word an operand carries. -/
def BOp.lit? : BOp → Option Word
  | .lit w => some w
  | _ => none
/-- The literal word a uniform operand carries. -/
def UOp.lit? : UOp → Option Word
  | .lit w => some w
  | _ => none

/-- The literal of a word that selects LIT32 (R56): there is none in slot 2. -/
def needLit : Option Word → Except DecErr Word
  | some w => .ok w
  | none => .error .literal

/-- Read a per-cell B-operand (R62). -/
def bopD (b : BitVec 9) (lit : Option Word) : Except DecErr BOp :=
  let lo := b.extractLsb' 0 6
  if b.getLsbD 8 then
    match (b.extractLsb' 6 2).toNat with
    | 0 => .ok (.nbr .x (b.getLsbD 5) (b.extractLsb' 0 5))
    | 1 => .ok (.nbr .y (b.getLsbD 5) (b.extractLsb' 0 5))
    | 2 => .ok (.nbr .z (b.getLsbD 5) (b.extractLsb' 0 5))
    | _ => .error .operand
  else
    match (b.extractLsb' 6 2).toNat with
    | 0 => .ok (.v lo)
    | 1 => (sD lo).map .s
    | 2 => .ok (.imm lo)
    | _ => if lo = 63 then (needLit lit).map .lit else .error .operand

/-- Read a uniform B-operand (R43, R62). -/
def uopD (b : BitVec 9) (lit : Option Word) : Except DecErr UOp :=
  let lo := b.extractLsb' 0 6
  if b.getLsbD 8 then .error .operand
  else
    match (b.extractLsb' 6 2).toNat with
    | 0 => .error .operand
    | 1 => (sD lo).map .s
    | 2 => .ok (.imm lo)
    | _ => if lo = 63 then (needLit lit).map .lit else .error .operand

/-- The fields of an FA word (R58) with the following literal. -/
structure FaF where
  d : BitVec 6
  a : BitVec 6
  b : BitVec 9
  lit : Option Word
/-- Cut an FA word. -/
def faF (r : BitVec 21) (lit : Option Word) : FaF :=
  ⟨r.extractLsb' 15 6, r.extractLsb' 9 6, r.extractLsb' 0 9, lit⟩
/-- Build an FA word's low bits. -/
def faRest (d a : BitVec 6) (b : BitVec 9) : BitVec 21 := d ++ a ++ b
/-- D as an S register. -/
def FaF.ds (f : FaF) : Except DecErr SReg := sD f.d
/-- A as an S register. -/
def FaF.as (f : FaF) : Except DecErr SReg := sD f.a
/-- D as a three-bit index. -/
def FaF.dp (f : FaF) : Except DecErr (BitVec 3) := p3D f.d
/-- A as a three-bit index. -/
def FaF.ap (f : FaF) : Except DecErr (BitVec 3) := p3D f.a
/-- A as a four-bit index. -/
def FaF.a4 (f : FaF) : Except DecErr (BitVec 4) :=
  if f.a.extractLsb' 4 2 = 0 then .ok (f.a.extractLsb' 0 4) else .error .register
/-- B as a predicate (spec/07_isa_integer.md R149). -/
def FaF.bp (f : FaF) : Except DecErr (BitVec 3) :=
  if f.b.extractLsb' 3 6 = 0 then .ok (f.b.extractLsb' 0 3) else .error .operand
/-- B as an S register only. -/
def FaF.bs (f : FaF) : Except DecErr SReg :=
  if f.b.extractLsb' 5 4 = 2 then .ok (f.b.extractLsb' 0 5) else .error .operand
/-- B as an immediate only. -/
def FaF.immB (f : FaF) : Except DecErr (BitVec 6) :=
  if f.b.extractLsb' 6 3 = 2 then .ok (f.b.extractLsb' 0 6) else .error .operand
/-- B as a per-cell operand. -/
def FaF.bop (f : FaF) : Except DecErr BOp := bopD f.b f.lit
/-- B as a uniform operand. -/
def FaF.uop (f : FaF) : Except DecErr UOp := uopD f.b f.lit
/-- B as SYSR's selector: 0 is none. -/
def FaF.sel (f : FaF) : Except DecErr (Option UOp) := if f.b = 0 then .ok none else f.uop.map some
/-- MDRAIN's INT bit, with bits 5:2 zero (spec/20_matrix.md R368). -/
def FaF.drainInt (f : FaF) : Except DecErr Bool :=
  if f.b.extractLsb' 2 4 = 0 then .ok (f.b.getLsbD 1) else .error .field
/-- A must be zero. -/
def FaF.zeroA (f : FaF) : Except DecErr Unit := zero f.a
/-- B must be zero. -/
def FaF.zeroB (f : FaF) : Except DecErr Unit := zero f.b
/-- D must be zero. -/
def FaF.zeroD (f : FaF) : Except DecErr Unit := zero f.d
/-- SYSR's selector bits. -/
def selEnc : Option UOp → BitVec 9
  | none => 0
  | some b => b.enc

/-- An FI word's column: FI minor 0 and the top bits of D (R59, R75). -/
def fiCol (d : BitVec 6) : BitVec 4 := 0#2 ++ d.extractLsb' 4 2
/-- An FI word's low bits. -/
def fiRest (d : BitVec 6) (i : BitVec 17) : BitVec 21 := d.extractLsb' 0 4 ++ i
/-- An FI word's D. -/
def fiD (col : BitVec 4) (r : BitVec 21) : BitVec 6 := col.extractLsb' 0 2 ++ r.extractLsb' 17 4
/-- An FI word's immediate. -/
def fiImm (r : BitVec 21) : BitVec 17 := r.extractLsb' 0 17

/-- The fields of an FM word (R60). -/
structure FmF where
  data : BitVec 6
  areg : BitVec 3
  pi : Bool
  ireg : BitVec 3
  hnd : BitVec 4
  ams : BitVec 4
/-- Cut an FM word. -/
def fmF (r : BitVec 21) : FmF :=
  ⟨r.extractLsb' 15 6, r.extractLsb' 12 3, r.getLsbD 11, r.extractLsb' 8 3, r.extractLsb' 4 4, r.extractLsb' 0 4⟩
/-- Build an FM word's low bits. -/
def fmRest (d : BitVec 6) (a : BitVec 3) (pi : Bool) (i : BitVec 3) (h ams : BitVec 4) : BitVec 21 :=
  d ++ a ++ BitVec.ofBool pi ++ i ++ h ++ ams
/-- The scope layout (R61). -/
def FmF.fmop (g : FmF) : Except DecErr FmOp :=
  if g.ams.getLsbD 3 then .error .field
  else do return ⟨g.areg, g.pi, g.ireg, g.hnd, ← Scope.dec (g.ams.extractLsb' 0 3)⟩
/-- The tile layout (R61). -/
def FmF.tile (g : FmF) : TileOp := ⟨g.areg, g.pi, g.ireg, g.hnd, g.ams.getLsbD 3, g.ams.extractLsb' 0 3⟩
/-- No address fields (spec/17_page.md R321). -/
def FmF.zeroAddr (g : FmF) : Except DecErr Unit :=
  if g.areg = 0 ∧ g.pi = false ∧ g.ireg = 0 then .ok () else .error .field
/-- No AMS field. -/
def FmF.zeroAms (g : FmF) : Except DecErr Unit := zero g.ams
/-- Encode the scope layout. -/
def FmOp.rest (o : FmOp) (d : BitVec 6) : BitVec 21 := fmRest d o.a o.pi o.i o.h (0#1 ++ o.scope.enc)
/-- Encode the tile layout. -/
def TileOp.rest (o : TileOp) (d : BitVec 6) : BitVec 21 := fmRest d o.a o.pi o.i o.h (BitVec.ofBool o.col ++ o.d)
/-- RESQ's and PAGEREQ's low bits. -/
def pqRest (d : BitVec 6) (h : BitVec 4) : BitVec 21 := fmRest d 0 false 0 h 0

/-- The fields of an FX word (R65). -/
structure FxF where
  sb : BitVec 6
  sp : BitVec 6
  hnd : BitVec 4
  bf : BitVec 5
/-- Cut an FX word. -/
def fxF (r : BitVec 21) : FxF := ⟨r.extractLsb' 15 6, r.extractLsb' 9 6, r.extractLsb' 5 4, r.extractLsb' 0 5⟩
/-- Build an FX word's low bits. -/
def fxRest (sb sp : BitVec 6) (h : BitVec 4) (bf : BitVec 5) : BitVec 21 := sb ++ sp ++ h ++ bf
/-- SBASE must be zero. -/
def FxF.zeroS (x : FxF) : Except DecErr Unit := zero x.sb
/-- SPARM must be zero. -/
def FxF.zeroP (x : FxF) : Except DecErr Unit := zero x.sp
/-- HND must be zero. -/
def FxF.zeroH (x : FxF) : Except DecErr Unit := zero x.hnd
/-- BF must be zero. -/
def FxF.zeroF (x : FxF) : Except DecErr Unit := zero x.bf
/-- A barrier that must be named (spec/12_barrier.md R243). -/
def FxF.barBE (x : FxF) : Except DecErr BReg := if x.bf.getLsbD 4 then .ok (x.bf.extractLsb' 0 4) else .error .field
/-- A handle in BF 3:0 (spec/14_handle.md R279). -/
def FxF.bf4 (x : FxF) : Except DecErr HReg := if x.bf.getLsbD 4 then .error .field else .ok (x.bf.extractLsb' 0 4)
/-- A handle in SBASE 18:15. -/
def FxF.sb4 (x : FxF) : Except DecErr HReg :=
  if x.sb.extractLsb' 4 2 = 0 then .ok (x.sb.extractLsb' 0 4) else .error .field
/-- A C register in BF 2:0. -/
def FxF.bf3 (x : FxF) : Except DecErr CReg :=
  if x.bf.extractLsb' 3 2 = 0 then .ok (x.bf.extractLsb' 0 3) else .error .field
/-- A flag in BF 0. -/
def FxF.bf1 (x : FxF) : Except DecErr Bool :=
  if x.bf.extractLsb' 1 4 = 0 then .ok (x.bf.getLsbD 0) else .error .field
/-- The barrier layout (R66). -/
def barD (f : BitVec 5) : Except DecErr (Option BReg) :=
  if f.getLsbD 4 then .ok (some (f.extractLsb' 0 4)) else if f = 0 then .ok none else .error .field
/-- Operands, options, handle and barrier. -/
def FxF.fxop (x : FxF) : Except DecErr FxOp := do return ⟨← sD x.sb, ← sD x.sp, x.hnd, ← barD x.bf⟩
/-- Encode the barrier layout. -/
def barE : Option BReg → BitVec 5
  | none => 0
  | some b => 1#1 ++ b
/-- Encode operands, options, handle and barrier. -/
def FxOp.rest (o : FxOp) : BitVec 21 := fxRest (sE o.sbase) (sE o.sparm) o.hnd (barE o.bar)

/-- The fields of an MMA word (spec/20_matrix.md R368). -/
def MmaOp.dec (r : BitVec 21) : Except DecErr MmaOp :=
  if r.extractLsb' 0 4 = 0 then
    .ok ⟨r.extractLsb' 18 3, r.extractLsb' 15 3, r.extractLsb' 12 3, r.extractLsb' 9 3, r.getLsbD 8,
      r.extractLsb' 5 3, r.getLsbD 4⟩
  else .error .field
/-- Encode an MMA word's low bits. -/
def MmaOp.rest (o : MmaOp) : BitVec 21 :=
  o.da ++ o.tt ++ o.db ++ o.ao ++ BitVec.ofBool o.oe ++ o.kc ++ BitVec.ofBool o.ra ++ 0#4

/-! ## Words -/

/-- The literal word an instruction carries (R56). -/
def Instr.lit? : Instr → Option Word
  | .iadd _ _ b => b.lit?
  | .iaddUni _ _ b => b.lit?
  | .isub _ _ b => b.lit?
  | .isubUni _ _ b => b.lit?
  | .irsub _ _ b => b.lit?
  | .irsubUni _ _ b => b.lit?
  | .imul _ _ b => b.lit?
  | .imulUni _ _ b => b.lit?
  | .imulhi _ _ b => b.lit?
  | .imulhiUni _ _ b => b.lit?
  | .imad _ _ b => b.lit?
  | .imadUni _ _ b => b.lit?
  | .imin _ _ b => b.lit?
  | .iminUni _ _ b => b.lit?
  | .imax _ _ b => b.lit?
  | .imaxUni _ _ b => b.lit?
  | .iabs _ b => b.lit?
  | .iabsUni _ b => b.lit?
  | .ineg _ b => b.lit?
  | .inegUni _ b => b.lit?
  | .iaddc _ _ b => b.lit?
  | .iaddcUni _ _ b => b.lit?
  | .isat _ _ b => b.lit?
  | .isatUni _ _ b => b.lit?
  | .and _ _ b => b.lit?
  | .andUni _ _ b => b.lit?
  | .or _ _ b => b.lit?
  | .orUni _ _ b => b.lit?
  | .xor _ _ b => b.lit?
  | .xorUni _ _ b => b.lit?
  | .andn _ _ b => b.lit?
  | .andnUni _ _ b => b.lit?
  | .not _ b => b.lit?
  | .notUni _ b => b.lit?
  | .shl _ _ b => b.lit?
  | .shlUni _ _ b => b.lit?
  | .shr _ _ b => b.lit?
  | .shrUni _ _ b => b.lit?
  | .sar _ _ b => b.lit?
  | .sarUni _ _ b => b.lit?
  | .rot _ _ b => b.lit?
  | .rotUni _ _ b => b.lit?
  | .clz _ b => b.lit?
  | .clzUni _ b => b.lit?
  | .popc _ b => b.lit?
  | .popcUni _ b => b.lit?
  | .brev _ b => b.lit?
  | .brevUni _ b => b.lit?
  | .bfe _ _ b => b.lit?
  | .bfeUni _ _ b => b.lit?
  | .bfi _ _ b => b.lit?
  | .bfiUni _ _ b => b.lit?
  | .sel _ _ b => b.lit?
  | .selUni _ _ b => b.lit?
  | .icmp _ _ _ b => b.lit?
  | .icmpUni _ _ _ b => b.lit?
  | .icmpUnsigned _ _ _ b => b.lit?
  | .icmpUnsignedUni _ _ _ b => b.lit?
  | .pand _ _ _ => none
  | .pandUni _ _ _ => none
  | .por _ _ _ => none
  | .porUni _ _ _ => none
  | .pxor _ _ _ => none
  | .pxorUni _ _ _ => none
  | .pnot _ _ => none
  | .pnotUni _ _ => none
  | .vote _ _ _ => none
  | .ballot _ _ _ => none
  | .mov _ b => b.lit?
  | .movUni _ b => b.lit?
  | .movl _ b => b.lit?
  | .movlUni _ b => b.lit?
  | .widf _ _ => none
  | .widfUni _ _ => none
  | .aadd _ _ b => b.lit?
  | .aset _ b => b.lit?
  | .iset _ _ => none
  | .movi _ _ => none
  | .moviUni _ _ => none
  | .imulhiUnsigned _ _ b => b.lit?
  | .imulhiUnsignedUni _ _ b => b.lit?
  | .iminUnsigned _ _ b => b.lit?
  | .iminUnsignedUni _ _ b => b.lit?
  | .imaxUnsigned _ _ b => b.lit?
  | .imaxUnsignedUni _ _ b => b.lit?
  | .isatUnsigned _ _ b => b.lit?
  | .isatUnsignedUni _ _ b => b.lit?
  | .bfeUnsigned _ _ b => b.lit?
  | .bfeUnsignedUni _ _ b => b.lit?
  | .fadd _ _ b => b.lit?
  | .faddUni _ _ b => b.lit?
  | .fsub _ _ b => b.lit?
  | .fsubUni _ _ b => b.lit?
  | .fmul _ _ b => b.lit?
  | .fmulUni _ _ b => b.lit?
  | .ffma _ _ b => b.lit?
  | .ffmaUni _ _ b => b.lit?
  | .fmin _ _ b => b.lit?
  | .fminUni _ _ b => b.lit?
  | .fmax _ _ b => b.lit?
  | .fmaxUni _ _ b => b.lit?
  | .fabs _ b => b.lit?
  | .fabsUni _ b => b.lit?
  | .fneg _ b => b.lit?
  | .fnegUni _ b => b.lit?
  | .frsub _ _ b => b.lit?
  | .frsubUni _ _ b => b.lit?
  | .fcmp _ _ _ b => b.lit?
  | .fcmpUni _ _ _ b => b.lit?
  | .frcp _ b => b.lit?
  | .frcpUni _ b => b.lit?
  | .frsq _ b => b.lit?
  | .frsqUni _ b => b.lit?
  | .fsqrt _ b => b.lit?
  | .fsqrtUni _ b => b.lit?
  | .fexp2 _ b => b.lit?
  | .fexp2Uni _ b => b.lit?
  | .flog2 _ b => b.lit?
  | .flog2Uni _ b => b.lit?
  | .fsin _ b => b.lit?
  | .fsinUni _ b => b.lit?
  | .fcos _ b => b.lit?
  | .fcosUni _ b => b.lit?
  | .dadd _ _ b => b.lit?
  | .dmul _ _ b => b.lit?
  | .dfma _ _ b => b.lit?
  | .hadd2 _ _ _ b => b.lit?
  | .hadd2Uni _ _ _ b => b.lit?
  | .hmul2 _ _ _ b => b.lit?
  | .hmul2Uni _ _ _ b => b.lit?
  | .hfma2 _ _ _ b => b.lit?
  | .hfma2Uni _ _ _ b => b.lit?
  | .rand _ _ => none
  | .cvt _ _ _ b => b.lit?
  | .cvtExt _ _ b => b.lit?
  | .cvtUni _ _ b => b.lit?
  | .npack _ _ _ => none
  | .nunpack _ _ _ => none
  | .ld _ _ _ => none
  | .st _ _ _ => none
  | .ldUni _ _ _ => none
  | .stUni _ _ => none
  | .ldt _ _ => none
  | .stt _ _ => none
  | .accrd _ _ b => b.lit?
  | .accwr _ _ b => b.lit?
  | .lshuf _ _ _ b => b.lit?
  | .bcast _ _ b => b.lit?
  | .bcastUni _ _ b => b.lit?
  | .xchg _ _ b => b.lit?
  | .atom _ _ _ => none
  | .atomBitwise _ _ _ => none
  | .atomFloat _ _ _ => none
  | .atomUni _ _ _ => none
  | .bra _ _ => none
  | .call _ _ => none
  | .split _ => none
  | .jmp b => b.lit?
  | .ret => none
  | .merge => none
  | .yield => none
  | .exit => none
  | .nop => none
  | .binit _ _ => none
  | .barr _ _ => none
  | .bwait _ => none
  | .bsync _ _ => none
  | .bqry _ _ => none
  | .hfork _ _ => none
  | .hjoin _ _ _ => none
  | .hpass _ _ => none
  | .hrecv _ _ => none
  | .hwait _ => none
  | .hwaitRet _ => none
  | .fence _ _ => none
  | .fenceAll _ => none
  | .step => none
  | .acq => none
  | .rel => none
  | .elect _ => none
  | .cpy _ => none
  | .tcpy _ => none
  | .gath _ => none
  | .scat _ => none
  | .cbinit _ _ => none
  | .cpyq _ _ => none
  | .cpyqRes _ => none
  | .cpyqAbn _ => none
  | .launch _ _ => none
  | .qroom _ => none
  | .rst _ => none
  | .rld _ => none
  | .rred _ => none
  | .ratom _ => none
  | .rcpy _ => none
  | .rwait _ _ _ => none
  | .swplan _ _ => none
  | .swgo _ => none
  | .swstat _ => none
  | .swresume _ => none
  | .swabort _ => none
  | .cbtake _ _ => none
  | .cbfree _ => none
  | .resq _ _ => none
  | .pagereq _ _ => none
  | .mzero _ => none
  | .mrdy => none
  | .mwait _ => none
  | .mdrain _ _ _ _ _ => none
  | .mma _ _ => none
  | .sysr _ _ b => (b.bind UOp.lit?)
  | .syswTrappc b => b.lit?
  | .syswTrapres b => b.lit?
  | .trap b => b.lit?
  | .tret => none
  | .causec _ b => b.lit?
  | .bkpt _ => none
  | .pendingFaultDelivery _ => none
  | .notice _ _ => none
  | .halo _ _ => none
  | .place _ _ _ => none
  | .evict _ => none
  | .reload _ => none
  | .quantumEnd _ => none
  | .commit _ => none
  | .tokenPass _ => none
  | .detlock _ => none
  | .perform _ _ => none
  | .drain _ _ => none
  | .accept _ _ => none
  | .segment _ => none
  | .complete _ => none
  | .fault _ => none
  | .deliver _ => none
  | .ack _ => none
  | .openGate _ _ => none
  | .fenceOpen _ _ => none
  | .rootlaunch _ _ _ _ => none
  | .bind _ _ _ _ _ _ => none
  | .unbind _ _ _ => none
  | .discard _ => none
  | .select _ => none
  | .translated _ => none
  | .kernelDone _ => none
  | .counterPoll _ => none
  | .memwrite _ _ _ _ => none
  | .filled _ _ _ _ _ _ => none
  | .noback _ _ => none
  | .shootdown _ _ => none
  | .reclaim _ _ => none
  | .shootdownTimeout _ => none
  | .move _ _ _ => none
  | .moved _ _ => none
  | .waitNoticeTimer _ => none
  | .parkedComplete _ => none
  | .reserve _ => none
  | .tokenTick => none
  | .allowanceSet _ _ _ => none
  | .matrixStart _ => none
  | .retire _ => none
  | .create _ _ _ => none
  | .ctxConfigure _ _ _ _ _ => none
  | .ctxread _ _ => none
  | .imgread _ _ => none
  | .destroy _ _ => none
  | .contextDrained _ => none
  | .turn _ => none
  | .sliceend _ => none
  | .grace _ => none
  | .halted _ _ => none
  | .qtimer _ => none
  | .restored _ _ => none
  | .quench _ _ => none
  | .resetdone _ => none
  | .blkmove _ _ _ => none
  | .removed _ => none
  | .blkmoveTimeout _ => none
  | .scrubbed _ => none
  | .correctedError _ => none
  | .uncorrectableError _ _ _ => none
  | .hndset _ _ _ => none
  | .fltread _ _ => none
  | .evtread => none
  | .runbind _ _ _ _ => none
  | .idle _ _ => none
  | .ctrlAck _ _ => none
  | .nak _ _ => none
  | .restripe _ _ => none
  | .ctrlCredit _ _ => none
  | .lol _ _ => none
  | .req _ _ => none
  | .data _ _ => none
  | .rsp _ _ => none
  | .pass _ _ => none
  | .done _ _ => none
  | .wait _ _ => none
  | .genn _ _ => none
  | .ackTimer _ => none
  | .replayTimeout _ => none
  | .lossOfLight _ _ => none
  | .berhigh _ _ => none
  | .wlback _ _ => none
  | .wldead _ _ => none
  | .retrain _ _ => none
  | .trained _ _ => none
  | .trainfail _ => none
  | .unreachable _ => none
  | .resync _ => none
  | .rcpyPacket _ => none
  | .written _ => none
  | .swageSegmentStart _ => none
  | .swageSegmentDone _ _ => none
  | .linkWidthDrop _ => none
  | .linkWidthReturn _ => none
  | .crossbarToken _ => none
  | .clockHalve _ => none
  | .clockRestore _ => none
  | .thermalTrip _ => none
  | .powerOn => none
  | .reset => none
  | .romDone => none
  | .stackTrained _ => none
  | .hbmtrain _ => none
  | .status => none
  | .attest _ => none
  | .attestReport => none
  | .fwload _ => none
  | .fwcommit => none
  | .registerWrite _ _ => none
  | .illop _ => none
  | .ucieEvent _ => none
  | .thermalRelease _ => none
  | .debuggerAttach _ => none
  | .debuggerResume _ => none

/-- The major opcode, column and low bits of a word; none for a step that has no word. -/
def Instr.fields : Instr → Option (BitVec 6 × BitVec 4 × BitVec 21)
  | .iadd d a b => some (0x00, 0#4, faRest d a b.enc)
  | .iaddUni d a b => some (0x01, 0#4, faRest (sE d) (sE a) b.enc)
  | .isub d a b => some (0x00, 1#4, faRest d a b.enc)
  | .isubUni d a b => some (0x01, 1#4, faRest (sE d) (sE a) b.enc)
  | .irsub d a b => some (0x00, 2#4, faRest d a b.enc)
  | .irsubUni d a b => some (0x01, 2#4, faRest (sE d) (sE a) b.enc)
  | .imul d a b => some (0x00, 3#4, faRest d a b.enc)
  | .imulUni d a b => some (0x01, 3#4, faRest (sE d) (sE a) b.enc)
  | .imulhi d a b => some (0x00, 4#4, faRest d a b.enc)
  | .imulhiUni d a b => some (0x01, 4#4, faRest (sE d) (sE a) b.enc)
  | .imad d a b => some (0x00, 5#4, faRest d a b.enc)
  | .imadUni d a b => some (0x01, 5#4, faRest (sE d) (sE a) b.enc)
  | .imin d a b => some (0x00, 6#4, faRest d a b.enc)
  | .iminUni d a b => some (0x01, 6#4, faRest (sE d) (sE a) b.enc)
  | .imax d a b => some (0x00, 7#4, faRest d a b.enc)
  | .imaxUni d a b => some (0x01, 7#4, faRest (sE d) (sE a) b.enc)
  | .iabs d b => some (0x00, 8#4, faRest d 0 b.enc)
  | .iabsUni d b => some (0x01, 8#4, faRest (sE d) 0 b.enc)
  | .ineg d b => some (0x00, 9#4, faRest d 0 b.enc)
  | .inegUni d b => some (0x01, 9#4, faRest (sE d) 0 b.enc)
  | .iaddc d a b => some (0x00, 10#4, faRest d a b.enc)
  | .iaddcUni d a b => some (0x01, 10#4, faRest (sE d) (sE a) b.enc)
  | .isat d a b => some (0x00, 11#4, faRest d a b.enc)
  | .isatUni d a b => some (0x01, 11#4, faRest (sE d) (sE a) b.enc)
  | .and d a b => some (0x02, 0#4, faRest d a b.enc)
  | .andUni d a b => some (0x03, 0#4, faRest (sE d) (sE a) b.enc)
  | .or d a b => some (0x02, 1#4, faRest d a b.enc)
  | .orUni d a b => some (0x03, 1#4, faRest (sE d) (sE a) b.enc)
  | .xor d a b => some (0x02, 2#4, faRest d a b.enc)
  | .xorUni d a b => some (0x03, 2#4, faRest (sE d) (sE a) b.enc)
  | .andn d a b => some (0x02, 3#4, faRest d a b.enc)
  | .andnUni d a b => some (0x03, 3#4, faRest (sE d) (sE a) b.enc)
  | .not d b => some (0x02, 4#4, faRest d 0 b.enc)
  | .notUni d b => some (0x03, 4#4, faRest (sE d) 0 b.enc)
  | .shl d a b => some (0x02, 5#4, faRest d a b.enc)
  | .shlUni d a b => some (0x03, 5#4, faRest (sE d) (sE a) b.enc)
  | .shr d a b => some (0x02, 6#4, faRest d a b.enc)
  | .shrUni d a b => some (0x03, 6#4, faRest (sE d) (sE a) b.enc)
  | .sar d a b => some (0x02, 7#4, faRest d a b.enc)
  | .sarUni d a b => some (0x03, 7#4, faRest (sE d) (sE a) b.enc)
  | .rot d a b => some (0x02, 8#4, faRest d a b.enc)
  | .rotUni d a b => some (0x03, 8#4, faRest (sE d) (sE a) b.enc)
  | .clz d b => some (0x02, 9#4, faRest d 0 b.enc)
  | .clzUni d b => some (0x03, 9#4, faRest (sE d) 0 b.enc)
  | .popc d b => some (0x02, 10#4, faRest d 0 b.enc)
  | .popcUni d b => some (0x03, 10#4, faRest (sE d) 0 b.enc)
  | .brev d b => some (0x02, 11#4, faRest d 0 b.enc)
  | .brevUni d b => some (0x03, 11#4, faRest (sE d) 0 b.enc)
  | .bfe d a b => some (0x02, 12#4, faRest d a b.enc)
  | .bfeUni d a b => some (0x03, 12#4, faRest (sE d) (sE a) b.enc)
  | .bfi d a b => some (0x02, 13#4, faRest d a b.enc)
  | .bfiUni d a b => some (0x03, 13#4, faRest (sE d) (sE a) b.enc)
  | .sel d a b => some (0x02, 14#4, faRest d a b.enc)
  | .selUni d a b => some (0x03, 14#4, faRest (sE d) (sE a) b.enc)
  | .icmp c d a b => some (0x04, c.enc, faRest (p3E d) a b.enc)
  | .icmpUni c d a b => some (0x05, c.enc, faRest (p3E d) (sE a) b.enc)
  | .icmpUnsigned c d a b => some (0x06, c.enc, faRest (p3E d) a b.enc)
  | .icmpUnsignedUni c d a b => some (0x07, c.enc, faRest (p3E d) (sE a) b.enc)
  | .pand d a b => some (0x08, 0#4, faRest (p3E d) (p3E a) (p9E b))
  | .pandUni d a b => some (0x09, 0#4, faRest (p3E d) (p3E a) (p9E b))
  | .por d a b => some (0x08, 1#4, faRest (p3E d) (p3E a) (p9E b))
  | .porUni d a b => some (0x09, 1#4, faRest (p3E d) (p3E a) (p9E b))
  | .pxor d a b => some (0x08, 2#4, faRest (p3E d) (p3E a) (p9E b))
  | .pxorUni d a b => some (0x09, 2#4, faRest (p3E d) (p3E a) (p9E b))
  | .pnot d b => some (0x08, 3#4, faRest (p3E d) 0 (p9E b))
  | .pnotUni d b => some (0x09, 3#4, faRest (p3E d) 0 (p9E b))
  | .vote m d b => some (0x08, m.enc, faRest (p3E d) 0 (p9E b))
  | .ballot d k b => some (0x08, 7#4, faRest (sE d) (k.setWidth 6) (p9E b))
  | .mov d b => some (0x0A, 0#4, faRest d 0 b.enc)
  | .movUni d b => some (0x0B, 0#4, faRest (sE d) 0 b.enc)
  | .movl d b => some (0x0A, 1#4, faRest d 0 b.enc)
  | .movlUni d b => some (0x0B, 1#4, faRest (sE d) 0 b.enc)
  | .widf d k => some (0x0A, 2#4, faRest d 0 (immE k.enc))
  | .widfUni d k => some (0x0B, 2#4, faRest (sE d) 0 (immE k.enc))
  | .aadd d a b => some (0x0B, 3#4, faRest (p3E d) (p3E a) b.enc)
  | .aset d b => some (0x0B, 4#4, faRest (p3E d) 0 b.enc)
  | .iset d n => some (0x0B, 5#4, faRest (p3E d) 0 (s9E n))
  | .movi d i => some (0x0C, fiCol d, fiRest d i)
  | .moviUni d i => some (0x0D, fiCol (sE d), fiRest (sE d) i)
  | .imulhiUnsigned d a b => some (0x0E, 0#4, faRest d a b.enc)
  | .imulhiUnsignedUni d a b => some (0x0F, 0#4, faRest (sE d) (sE a) b.enc)
  | .iminUnsigned d a b => some (0x0E, 1#4, faRest d a b.enc)
  | .iminUnsignedUni d a b => some (0x0F, 1#4, faRest (sE d) (sE a) b.enc)
  | .imaxUnsigned d a b => some (0x0E, 2#4, faRest d a b.enc)
  | .imaxUnsignedUni d a b => some (0x0F, 2#4, faRest (sE d) (sE a) b.enc)
  | .isatUnsigned d a b => some (0x0E, 3#4, faRest d a b.enc)
  | .isatUnsignedUni d a b => some (0x0F, 3#4, faRest (sE d) (sE a) b.enc)
  | .bfeUnsigned d a b => some (0x0E, 4#4, faRest d a b.enc)
  | .bfeUnsignedUni d a b => some (0x0F, 4#4, faRest (sE d) (sE a) b.enc)
  | .fadd d a b => some (0x10, 0#4, faRest d a b.enc)
  | .faddUni d a b => some (0x11, 0#4, faRest (sE d) (sE a) b.enc)
  | .fsub d a b => some (0x10, 1#4, faRest d a b.enc)
  | .fsubUni d a b => some (0x11, 1#4, faRest (sE d) (sE a) b.enc)
  | .fmul d a b => some (0x10, 2#4, faRest d a b.enc)
  | .fmulUni d a b => some (0x11, 2#4, faRest (sE d) (sE a) b.enc)
  | .ffma d a b => some (0x10, 3#4, faRest d a b.enc)
  | .ffmaUni d a b => some (0x11, 3#4, faRest (sE d) (sE a) b.enc)
  | .fmin d a b => some (0x10, 4#4, faRest d a b.enc)
  | .fminUni d a b => some (0x11, 4#4, faRest (sE d) (sE a) b.enc)
  | .fmax d a b => some (0x10, 5#4, faRest d a b.enc)
  | .fmaxUni d a b => some (0x11, 5#4, faRest (sE d) (sE a) b.enc)
  | .fabs d b => some (0x10, 6#4, faRest d 0 b.enc)
  | .fabsUni d b => some (0x11, 6#4, faRest (sE d) 0 b.enc)
  | .fneg d b => some (0x10, 7#4, faRest d 0 b.enc)
  | .fnegUni d b => some (0x11, 7#4, faRest (sE d) 0 b.enc)
  | .frsub d a b => some (0x10, 8#4, faRest d a b.enc)
  | .frsubUni d a b => some (0x11, 8#4, faRest (sE d) (sE a) b.enc)
  | .fcmp c d a b => some (0x12, c.enc, faRest (p3E d) a b.enc)
  | .fcmpUni c d a b => some (0x13, c.enc, faRest (p3E d) (sE a) b.enc)
  | .frcp d b => some (0x14, 0#4, faRest d 0 b.enc)
  | .frcpUni d b => some (0x15, 0#4, faRest (sE d) 0 b.enc)
  | .frsq d b => some (0x14, 1#4, faRest d 0 b.enc)
  | .frsqUni d b => some (0x15, 1#4, faRest (sE d) 0 b.enc)
  | .fsqrt d b => some (0x14, 2#4, faRest d 0 b.enc)
  | .fsqrtUni d b => some (0x15, 2#4, faRest (sE d) 0 b.enc)
  | .fexp2 d b => some (0x14, 3#4, faRest d 0 b.enc)
  | .fexp2Uni d b => some (0x15, 3#4, faRest (sE d) 0 b.enc)
  | .flog2 d b => some (0x14, 4#4, faRest d 0 b.enc)
  | .flog2Uni d b => some (0x15, 4#4, faRest (sE d) 0 b.enc)
  | .fsin d b => some (0x14, 5#4, faRest d 0 b.enc)
  | .fsinUni d b => some (0x15, 5#4, faRest (sE d) 0 b.enc)
  | .fcos d b => some (0x14, 6#4, faRest d 0 b.enc)
  | .fcosUni d b => some (0x15, 6#4, faRest (sE d) 0 b.enc)
  | .dadd d a b => some (0x16, 0#4, faRest d a b.enc)
  | .dmul d a b => some (0x16, 1#4, faRest d a b.enc)
  | .dfma d a b => some (0x16, 2#4, faRest d a b.enc)
  | .hadd2 m d a b => some (0x18, (0#4 + m.enc), faRest d a b.enc)
  | .hadd2Uni m d a b => some (0x19, (0#4 + m.enc), faRest (sE d) (sE a) b.enc)
  | .hmul2 m d a b => some (0x18, (2#4 + m.enc), faRest d a b.enc)
  | .hmul2Uni m d a b => some (0x19, (2#4 + m.enc), faRest (sE d) (sE a) b.enc)
  | .hfma2 m d a b => some (0x18, (4#4 + m.enc), faRest d a b.enc)
  | .hfma2Uni m d a b => some (0x19, (4#4 + m.enc), faRest (sE d) (sE a) b.enc)
  | .rand m d => some (0x1A, m.enc, faRest d 0 0)
  | .cvt c m d b => some (0x1C, (c.enc ++ m.enc), faRest d 0 b.enc)
  | .cvtExt c d b => some (0x1D, c.enc, faRest d 0 b.enc)
  | .cvtUni c d b => some (0x1F, c.enc, faRest (sE d) 0 b.enc)
  | .npack m d a => some (0x1E, (0#2 ++ m.enc), faRest d a 0)
  | .nunpack m d a => some (0x1E, (2#2 ++ m.enc), faRest d a 0)
  | .ld m d a => some (0x20, m.enc, a.rest d)
  | .st m d a => some (0x21, m.enc, a.rest d)
  | .ldUni m d a => some (0x22, m.enc, a.rest (sE d))
  | .stUni d a => some (0x22, 8#4, a.rest (sE d))
  | .ldt d a => some (0x23, 0#4, a.rest d)
  | .stt d a => some (0x23, 1#4, a.rest d)
  | .accrd d t b => some (0x24, 0#4, faRest d (p3E t) b.enc)
  | .accwr t a b => some (0x24, 1#4, faRest (p3E t) a b.enc)
  | .lshuf m d a b => some (0x28, (0#2 ++ m.enc), faRest d a b.enc)
  | .bcast d a b => some (0x28, 4#4, faRest d a b.enc)
  | .bcastUni d a b => some (0x29, 0#4, faRest (sE d) a b.enc)
  | .xchg d a b => some (0x28, 5#4, faRest d a b.enc)
  | .atom m d a => some (0x2C, m.enc, a.rest d)
  | .atomBitwise m d a => some (0x2D, m.enc, a.rest d)
  | .atomFloat m d a => some (0x2E, m.enc, a.rest d)
  | .atomUni m d a => some (0x2F, m.enc, a.rest (sE d))
  | .bra c o => some (0x30, c, o)
  | .call k o => some (0x31, (1#1 ++ k), o)
  | .split o => some (0x32, 15#4, o)
  | .jmp b => some (0x33, 0#4, faRest 0 0 b.enc)
  | .ret => some (0x33, 1#4, 0#21)
  | .merge => some (0x33, 2#4, 0#21)
  | .yield => some (0x33, 3#4, 0#21)
  | .exit => some (0x33, 4#4, 0#21)
  | .nop => some (0x33, 5#4, 0#21)
  | .binit n b => some (0x34, 0#4, fxRest (sE n) 0 0 (1#1 ++ b))
  | .barr h b => some (0x34, 1#4, fxRest 0 0 h (1#1 ++ b))
  | .bwait b => some (0x34, 2#4, fxRest 0 0 0 (1#1 ++ b))
  | .bsync h b => some (0x34, 3#4, fxRest 0 0 h (1#1 ++ b))
  | .bqry n b => some (0x34, 4#4, fxRest (sE n) 0 0 (1#1 ++ b))
  | .hfork d h => some (0x35, 0#4, fxRest 0 0 h (0#1 ++ d))
  | .hjoin d h e => some (0x35, 1#4, fxRest (0#2 ++ e) 0 h (0#1 ++ d))
  | .hpass h n => some (0x35, 2#4, fxRest (sE n) 0 h 0)
  | .hrecv d n => some (0x35, 3#4, fxRest (sE n) 0 0 (0#1 ++ d))
  | .hwait h => some (0x35, 4#4, fxRest 0 0 h 0)
  | .hwaitRet h => some (0x35, 4#4, fxRest 0 0 h 1)
  | .fence c h => some (0x35, 5#4, fxRest 0 0 h (0#2 ++ c.enc))
  | .fenceAll c => some (0x35, 5#4, fxRest 0 0 0 (1#2 ++ c.enc))
  | .step => some (0x36, 0#4, 0#21)
  | .acq => some (0x36, 1#4, 0#21)
  | .rel => some (0x36, 2#4, 0#21)
  | .elect d => some (0x36, 3#4, faRest (p3E d) 0 0)
  | .cpy o => some (0x38, 0#4, o.rest)
  | .tcpy o => some (0x38, 1#4, o.rest)
  | .gath o => some (0x38, 2#4, o.rest)
  | .scat o => some (0x38, 3#4, o.rest)
  | .cbinit c n => some (0x38, 4#4, fxRest (sE n) 0 0 (0#2 ++ c))
  | .cpyq n h => some (0x38, 5#4, fxRest (sE n) 0 h 0)
  | .cpyqRes h => some (0x38, 5#4, fxRest 0 0 h 1)
  | .cpyqAbn h => some (0x38, 5#4, fxRest 0 0 h 2)
  | .launch t n => some (0x38, 6#4, fxRest (sE n) 0 0 (0#4 ++ BitVec.ofBool t))
  | .qroom n => some (0x38, 7#4, fxRest (sE n) 0 0 0)
  | .rst o => some (0x39, 0#4, o.rest)
  | .rld o => some (0x39, 1#4, o.rest)
  | .rred o => some (0x39, 2#4, o.rest)
  | .ratom o => some (0x39, 3#4, o.rest)
  | .rcpy o => some (0x39, 4#4, o.rest)
  | .rwait t n h => some (0x39, 5#4, fxRest (sE n) 0 h (0#4 ++ BitVec.ofBool t))
  | .swplan n p => some (0x39, 6#4, fxRest (sE n) (sE p) 0 0)
  | .swgo o => some (0x39, 7#4, o.rest)
  | .swstat n => some (0x39, 8#4, fxRest (sE n) 0 0 0)
  | .swresume o => some (0x39, 9#4, o.rest)
  | .swabort h => some (0x39, 10#4, fxRest 0 0 h 0)
  | .cbtake d c => some (0x3A, 0#4, faRest (p3E d) (p3E c) 0)
  | .cbfree c => some (0x3A, 1#4, faRest 0 (p3E c) 0)
  | .resq d h => some (0x3B, 0#4, pqRest d h)
  | .pagereq d h => some (0x3B, 1#4, pqRest d h)
  | .mzero t => some (0x3C, 0#4, faRest (p3E t) 0 0)
  | .mrdy => some (0x3C, 1#4, 0#21)
  | .mwait t => some (0x3C, 2#4, faRest (p3E t) 0 0)
  | .mdrain m t n i z => some (0x3C, 3#4, faRest (p3E t) (sE n) (m.enc ++ 0#4 ++ BitVec.ofBool i ++ BitVec.ofBool z))
  | .mma m o => some (0x3D, m.enc, o.rest)
  | .sysr d r b => some (0x3E, 0#4, faRest (sE d) r (selEnc b))
  | .syswTrappc b => some (0x3E, 1#4, faRest 7 0 b.enc)
  | .syswTrapres b => some (0x3E, 1#4, faRest 8 0 b.enc)
  | .trap b => some (0x3E, 2#4, faRest 0 0 b.enc)
  | .tret => some (0x3E, 3#4, 0#21)
  | .causec d b => some (0x3E, 4#4, faRest (sE d) 0 b.enc)
  | .bkpt i => some (0x3E, 5#4, faRest 0 0 (immE i))
  | .pendingFaultDelivery _ => none
  | .notice _ _ => none
  | .halo _ _ => none
  | .place _ _ _ => none
  | .evict _ => none
  | .reload _ => none
  | .quantumEnd _ => none
  | .commit _ => none
  | .tokenPass _ => none
  | .detlock _ => none
  | .perform _ _ => none
  | .drain _ _ => none
  | .accept _ _ => none
  | .segment _ => none
  | .complete _ => none
  | .fault _ => none
  | .deliver _ => none
  | .ack _ => none
  | .openGate _ _ => none
  | .fenceOpen _ _ => none
  | .rootlaunch _ _ _ _ => none
  | .bind _ _ _ _ _ _ => none
  | .unbind _ _ _ => none
  | .discard _ => none
  | .select _ => none
  | .translated _ => none
  | .kernelDone _ => none
  | .counterPoll _ => none
  | .memwrite _ _ _ _ => none
  | .filled _ _ _ _ _ _ => none
  | .noback _ _ => none
  | .shootdown _ _ => none
  | .reclaim _ _ => none
  | .shootdownTimeout _ => none
  | .move _ _ _ => none
  | .moved _ _ => none
  | .waitNoticeTimer _ => none
  | .parkedComplete _ => none
  | .reserve _ => none
  | .tokenTick => none
  | .allowanceSet _ _ _ => none
  | .matrixStart _ => none
  | .retire _ => none
  | .create _ _ _ => none
  | .ctxConfigure _ _ _ _ _ => none
  | .ctxread _ _ => none
  | .imgread _ _ => none
  | .destroy _ _ => none
  | .contextDrained _ => none
  | .turn _ => none
  | .sliceend _ => none
  | .grace _ => none
  | .halted _ _ => none
  | .qtimer _ => none
  | .restored _ _ => none
  | .quench _ _ => none
  | .resetdone _ => none
  | .blkmove _ _ _ => none
  | .removed _ => none
  | .blkmoveTimeout _ => none
  | .scrubbed _ => none
  | .correctedError _ => none
  | .uncorrectableError _ _ _ => none
  | .hndset _ _ _ => none
  | .fltread _ _ => none
  | .evtread => none
  | .runbind _ _ _ _ => none
  | .idle _ _ => none
  | .ctrlAck _ _ => none
  | .nak _ _ => none
  | .restripe _ _ => none
  | .ctrlCredit _ _ => none
  | .lol _ _ => none
  | .req _ _ => none
  | .data _ _ => none
  | .rsp _ _ => none
  | .pass _ _ => none
  | .done _ _ => none
  | .wait _ _ => none
  | .genn _ _ => none
  | .ackTimer _ => none
  | .replayTimeout _ => none
  | .lossOfLight _ _ => none
  | .berhigh _ _ => none
  | .wlback _ _ => none
  | .wldead _ _ => none
  | .retrain _ _ => none
  | .trained _ _ => none
  | .trainfail _ => none
  | .unreachable _ => none
  | .resync _ => none
  | .rcpyPacket _ => none
  | .written _ => none
  | .swageSegmentStart _ => none
  | .swageSegmentDone _ _ => none
  | .linkWidthDrop _ => none
  | .linkWidthReturn _ => none
  | .crossbarToken _ => none
  | .clockHalve _ => none
  | .clockRestore _ => none
  | .thermalTrip _ => none
  | .powerOn => none
  | .reset => none
  | .romDone => none
  | .stackTrained _ => none
  | .hbmtrain _ => none
  | .status => none
  | .attest _ => none
  | .attestReport => none
  | .fwload _ => none
  | .fwcommit => none
  | .registerWrite _ _ => none
  | .illop _ => none
  | .ucieEvent _ => none
  | .thermalRelease _ => none
  | .debuggerAttach _ => none
  | .debuggerResume _ => none

/-- The instruction word (R58 to R65): chain bit, major, column, low bits. -/
def wordOf (ch : Bool) (f : BitVec 6 × BitVec 4 × BitVec 21) : Word := BitVec.ofBool ch ++ f.1 ++ f.2.1 ++ f.2.2

/-- The words of an instruction: its word with the chain bit, and its literal where it has one. A step without a word
has none. -/
def encode (ch : Bool) (i : Instr) : List Word :=
  match i.fields with
  | some f => wordOf ch f :: i.lit?.toList
  | none => []

/-- Decode a word of major 0x00 (spec/04_opcode_map.md R76). -/
def dec00 (col : BitVec 4) (r : BitVec 21) (lit : Option Word) : Except DecErr Instr :=
  let f := faF r lit
  match col.toNat with
  | 0 => do return .iadd f.d f.a (← f.bop)
  | 1 => do return .isub f.d f.a (← f.bop)
  | 2 => do return .irsub f.d f.a (← f.bop)
  | 3 => do return .imul f.d f.a (← f.bop)
  | 4 => do return .imulhi f.d f.a (← f.bop)
  | 5 => do return .imad f.d f.a (← f.bop)
  | 6 => do return .imin f.d f.a (← f.bop)
  | 7 => do return .imax f.d f.a (← f.bop)
  | 8 => do f.zeroA; return .iabs f.d (← f.bop)
  | 9 => do f.zeroA; return .ineg f.d (← f.bop)
  | 10 => do return .iaddc f.d f.a (← f.bop)
  | 11 => do return .isat f.d f.a (← f.bop)
  | _ => .error .column

/-- Decode a word of major 0x01 (spec/04_opcode_map.md R76). -/
def dec01 (col : BitVec 4) (r : BitVec 21) (lit : Option Word) : Except DecErr Instr :=
  let f := faF r lit
  match col.toNat with
  | 0 => do return .iaddUni (← f.ds) (← f.as) (← f.uop)
  | 1 => do return .isubUni (← f.ds) (← f.as) (← f.uop)
  | 2 => do return .irsubUni (← f.ds) (← f.as) (← f.uop)
  | 3 => do return .imulUni (← f.ds) (← f.as) (← f.uop)
  | 4 => do return .imulhiUni (← f.ds) (← f.as) (← f.uop)
  | 5 => do return .imadUni (← f.ds) (← f.as) (← f.uop)
  | 6 => do return .iminUni (← f.ds) (← f.as) (← f.uop)
  | 7 => do return .imaxUni (← f.ds) (← f.as) (← f.uop)
  | 8 => do f.zeroA; return .iabsUni (← f.ds) (← f.uop)
  | 9 => do f.zeroA; return .inegUni (← f.ds) (← f.uop)
  | 10 => do return .iaddcUni (← f.ds) (← f.as) (← f.uop)
  | 11 => do return .isatUni (← f.ds) (← f.as) (← f.uop)
  | _ => .error .column

/-- Decode a word of major 0x02 (spec/04_opcode_map.md R76). -/
def dec02 (col : BitVec 4) (r : BitVec 21) (lit : Option Word) : Except DecErr Instr :=
  let f := faF r lit
  match col.toNat with
  | 0 => do return .and f.d f.a (← f.bop)
  | 1 => do return .or f.d f.a (← f.bop)
  | 2 => do return .xor f.d f.a (← f.bop)
  | 3 => do return .andn f.d f.a (← f.bop)
  | 4 => do f.zeroA; return .not f.d (← f.bop)
  | 5 => do return .shl f.d f.a (← f.bop)
  | 6 => do return .shr f.d f.a (← f.bop)
  | 7 => do return .sar f.d f.a (← f.bop)
  | 8 => do return .rot f.d f.a (← f.bop)
  | 9 => do f.zeroA; return .clz f.d (← f.bop)
  | 10 => do f.zeroA; return .popc f.d (← f.bop)
  | 11 => do f.zeroA; return .brev f.d (← f.bop)
  | 12 => do return .bfe f.d f.a (← f.bop)
  | 13 => do return .bfi f.d f.a (← f.bop)
  | 14 => do return .sel f.d f.a (← f.bop)
  | _ => .error .column

/-- Decode a word of major 0x03 (spec/04_opcode_map.md R76). -/
def dec03 (col : BitVec 4) (r : BitVec 21) (lit : Option Word) : Except DecErr Instr :=
  let f := faF r lit
  match col.toNat with
  | 0 => do return .andUni (← f.ds) (← f.as) (← f.uop)
  | 1 => do return .orUni (← f.ds) (← f.as) (← f.uop)
  | 2 => do return .xorUni (← f.ds) (← f.as) (← f.uop)
  | 3 => do return .andnUni (← f.ds) (← f.as) (← f.uop)
  | 4 => do f.zeroA; return .notUni (← f.ds) (← f.uop)
  | 5 => do return .shlUni (← f.ds) (← f.as) (← f.uop)
  | 6 => do return .shrUni (← f.ds) (← f.as) (← f.uop)
  | 7 => do return .sarUni (← f.ds) (← f.as) (← f.uop)
  | 8 => do return .rotUni (← f.ds) (← f.as) (← f.uop)
  | 9 => do f.zeroA; return .clzUni (← f.ds) (← f.uop)
  | 10 => do f.zeroA; return .popcUni (← f.ds) (← f.uop)
  | 11 => do f.zeroA; return .brevUni (← f.ds) (← f.uop)
  | 12 => do return .bfeUni (← f.ds) (← f.as) (← f.uop)
  | 13 => do return .bfiUni (← f.ds) (← f.as) (← f.uop)
  | 14 => do return .selUni (← f.ds) (← f.as) (← f.uop)
  | _ => .error .column

/-- Decode a word of major 0x04 (spec/04_opcode_map.md R76). -/
def dec04 (col : BitVec 4) (r : BitVec 21) (lit : Option Word) : Except DecErr Instr :=
  let f := faF r lit
  match col.toNat with
  | 0 | 1 | 2 | 3 | 4 | 5 => do return .icmp (← ICond.dec col) (← f.dp) f.a (← f.bop)
  | _ => .error .column

/-- Decode a word of major 0x05 (spec/04_opcode_map.md R76). -/
def dec05 (col : BitVec 4) (r : BitVec 21) (lit : Option Word) : Except DecErr Instr :=
  let f := faF r lit
  match col.toNat with
  | 0 | 1 | 2 | 3 | 4 | 5 => do return .icmpUni (← ICond.dec col) (← f.dp) (← f.as) (← f.uop)
  | _ => .error .column

/-- Decode a word of major 0x06 (spec/04_opcode_map.md R76). -/
def dec06 (col : BitVec 4) (r : BitVec 21) (lit : Option Word) : Except DecErr Instr :=
  let f := faF r lit
  match col.toNat with
  | 0 | 1 | 2 | 3 => do return .icmpUnsigned (← UCond.dec col) (← f.dp) f.a (← f.bop)
  | _ => .error .column

/-- Decode a word of major 0x07 (spec/04_opcode_map.md R76). -/
def dec07 (col : BitVec 4) (r : BitVec 21) (lit : Option Word) : Except DecErr Instr :=
  let f := faF r lit
  match col.toNat with
  | 0 | 1 | 2 | 3 => do return .icmpUnsignedUni (← UCond.dec col) (← f.dp) (← f.as) (← f.uop)
  | _ => .error .column

/-- Decode a word of major 0x08 (spec/04_opcode_map.md R76). -/
def dec08 (col : BitVec 4) (r : BitVec 21) (lit : Option Word) : Except DecErr Instr :=
  let f := faF r lit
  match col.toNat with
  | 0 => do return .pand (← f.dp) (← f.ap) (← f.bp)
  | 1 => do return .por (← f.dp) (← f.ap) (← f.bp)
  | 2 => do return .pxor (← f.dp) (← f.ap) (← f.bp)
  | 3 => do f.zeroA; return .pnot (← f.dp) (← f.bp)
  | 4 | 5 | 6 => do f.zeroA; return .vote (← VoteMode.dec col) (← f.dp) (← f.bp)
  | 7 => do return .ballot (← f.ds) (← f.a4) (← f.bp)
  | _ => .error .column

/-- Decode a word of major 0x09 (spec/04_opcode_map.md R76). -/
def dec09 (col : BitVec 4) (r : BitVec 21) (lit : Option Word) : Except DecErr Instr :=
  let f := faF r lit
  match col.toNat with
  | 0 => do return .pandUni (← f.dp) (← f.ap) (← f.bp)
  | 1 => do return .porUni (← f.dp) (← f.ap) (← f.bp)
  | 2 => do return .pxorUni (← f.dp) (← f.ap) (← f.bp)
  | 3 => do f.zeroA; return .pnotUni (← f.dp) (← f.bp)
  | _ => .error .column

/-- Decode a word of major 0x0A (spec/04_opcode_map.md R76). -/
def dec0A (col : BitVec 4) (r : BitVec 21) (lit : Option Word) : Except DecErr Instr :=
  let f := faF r lit
  match col.toNat with
  | 0 => do f.zeroA; return .mov f.d (← f.bop)
  | 1 => do f.zeroA; return .movl f.d (← f.bop)
  | 2 => do f.zeroA; return .widf f.d (← WidSel.dec (← f.immB))
  | _ => .error .column

/-- Decode a word of major 0x0B (spec/04_opcode_map.md R76). -/
def dec0B (col : BitVec 4) (r : BitVec 21) (lit : Option Word) : Except DecErr Instr :=
  let f := faF r lit
  match col.toNat with
  | 0 => do f.zeroA; return .movUni (← f.ds) (← f.uop)
  | 1 => do f.zeroA; return .movlUni (← f.ds) (← f.uop)
  | 2 => do f.zeroA; return .widfUni (← f.ds) (← WidSel.dec (← f.immB))
  | 3 => do return .aadd (← f.dp) (← f.ap) (← f.uop)
  | 4 => do f.zeroA; return .aset (← f.dp) (← f.uop)
  | 5 => do f.zeroA; return .iset (← f.dp) (← f.bs)
  | _ => .error .column

/-- Decode a word of major 0x0C (spec/04_opcode_map.md R76). -/
def dec0C (col : BitVec 4) (r : BitVec 21) (_lit : Option Word) : Except DecErr Instr :=
  match col.toNat with
  | 0 | 1 | 2 | 3 => do return .movi (fiD col r) (fiImm r)
  | _ => .error .column

/-- Decode a word of major 0x0D (spec/04_opcode_map.md R76). -/
def dec0D (col : BitVec 4) (r : BitVec 21) (_lit : Option Word) : Except DecErr Instr :=
  match col.toNat with
  | 0 | 1 | 2 | 3 => do return .moviUni (← sD (fiD col r)) (fiImm r)
  | _ => .error .column

/-- Decode a word of major 0x0E (spec/04_opcode_map.md R76). -/
def dec0E (col : BitVec 4) (r : BitVec 21) (lit : Option Word) : Except DecErr Instr :=
  let f := faF r lit
  match col.toNat with
  | 0 => do return .imulhiUnsigned f.d f.a (← f.bop)
  | 1 => do return .iminUnsigned f.d f.a (← f.bop)
  | 2 => do return .imaxUnsigned f.d f.a (← f.bop)
  | 3 => do return .isatUnsigned f.d f.a (← f.bop)
  | 4 => do return .bfeUnsigned f.d f.a (← f.bop)
  | _ => .error .column

/-- Decode a word of major 0x0F (spec/04_opcode_map.md R76). -/
def dec0F (col : BitVec 4) (r : BitVec 21) (lit : Option Word) : Except DecErr Instr :=
  let f := faF r lit
  match col.toNat with
  | 0 => do return .imulhiUnsignedUni (← f.ds) (← f.as) (← f.uop)
  | 1 => do return .iminUnsignedUni (← f.ds) (← f.as) (← f.uop)
  | 2 => do return .imaxUnsignedUni (← f.ds) (← f.as) (← f.uop)
  | 3 => do return .isatUnsignedUni (← f.ds) (← f.as) (← f.uop)
  | 4 => do return .bfeUnsignedUni (← f.ds) (← f.as) (← f.uop)
  | _ => .error .column

/-- Decode a word of major 0x10 (spec/04_opcode_map.md R76). -/
def dec10 (col : BitVec 4) (r : BitVec 21) (lit : Option Word) : Except DecErr Instr :=
  let f := faF r lit
  match col.toNat with
  | 0 => do return .fadd f.d f.a (← f.bop)
  | 1 => do return .fsub f.d f.a (← f.bop)
  | 2 => do return .fmul f.d f.a (← f.bop)
  | 3 => do return .ffma f.d f.a (← f.bop)
  | 4 => do return .fmin f.d f.a (← f.bop)
  | 5 => do return .fmax f.d f.a (← f.bop)
  | 6 => do f.zeroA; return .fabs f.d (← f.bop)
  | 7 => do f.zeroA; return .fneg f.d (← f.bop)
  | 8 => do return .frsub f.d f.a (← f.bop)
  | _ => .error .column

/-- Decode a word of major 0x11 (spec/04_opcode_map.md R76). -/
def dec11 (col : BitVec 4) (r : BitVec 21) (lit : Option Word) : Except DecErr Instr :=
  let f := faF r lit
  match col.toNat with
  | 0 => do return .faddUni (← f.ds) (← f.as) (← f.uop)
  | 1 => do return .fsubUni (← f.ds) (← f.as) (← f.uop)
  | 2 => do return .fmulUni (← f.ds) (← f.as) (← f.uop)
  | 3 => do return .ffmaUni (← f.ds) (← f.as) (← f.uop)
  | 4 => do return .fminUni (← f.ds) (← f.as) (← f.uop)
  | 5 => do return .fmaxUni (← f.ds) (← f.as) (← f.uop)
  | 6 => do f.zeroA; return .fabsUni (← f.ds) (← f.uop)
  | 7 => do f.zeroA; return .fnegUni (← f.ds) (← f.uop)
  | 8 => do return .frsubUni (← f.ds) (← f.as) (← f.uop)
  | _ => .error .column

/-- Decode a word of major 0x12 (spec/04_opcode_map.md R76). -/
def dec12 (col : BitVec 4) (r : BitVec 21) (lit : Option Word) : Except DecErr Instr :=
  let f := faF r lit
  match col.toNat with
  | 0 | 1 | 2 | 3 | 4 | 5 | 6 | 7 => do return .fcmp (← FCond.dec col) (← f.dp) f.a (← f.bop)
  | _ => .error .column

/-- Decode a word of major 0x13 (spec/04_opcode_map.md R76). -/
def dec13 (col : BitVec 4) (r : BitVec 21) (lit : Option Word) : Except DecErr Instr :=
  let f := faF r lit
  match col.toNat with
  | 0 | 1 | 2 | 3 | 4 | 5 | 6 | 7 => do return .fcmpUni (← FCond.dec col) (← f.dp) (← f.as) (← f.uop)
  | _ => .error .column

/-- Decode a word of major 0x14 (spec/04_opcode_map.md R76). -/
def dec14 (col : BitVec 4) (r : BitVec 21) (lit : Option Word) : Except DecErr Instr :=
  let f := faF r lit
  match col.toNat with
  | 0 => do f.zeroA; return .frcp f.d (← f.bop)
  | 1 => do f.zeroA; return .frsq f.d (← f.bop)
  | 2 => do f.zeroA; return .fsqrt f.d (← f.bop)
  | 3 => do f.zeroA; return .fexp2 f.d (← f.bop)
  | 4 => do f.zeroA; return .flog2 f.d (← f.bop)
  | 5 => do f.zeroA; return .fsin f.d (← f.bop)
  | 6 => do f.zeroA; return .fcos f.d (← f.bop)
  | _ => .error .column

/-- Decode a word of major 0x15 (spec/04_opcode_map.md R76). -/
def dec15 (col : BitVec 4) (r : BitVec 21) (lit : Option Word) : Except DecErr Instr :=
  let f := faF r lit
  match col.toNat with
  | 0 => do f.zeroA; return .frcpUni (← f.ds) (← f.uop)
  | 1 => do f.zeroA; return .frsqUni (← f.ds) (← f.uop)
  | 2 => do f.zeroA; return .fsqrtUni (← f.ds) (← f.uop)
  | 3 => do f.zeroA; return .fexp2Uni (← f.ds) (← f.uop)
  | 4 => do f.zeroA; return .flog2Uni (← f.ds) (← f.uop)
  | 5 => do f.zeroA; return .fsinUni (← f.ds) (← f.uop)
  | 6 => do f.zeroA; return .fcosUni (← f.ds) (← f.uop)
  | _ => .error .column

/-- Decode a word of major 0x16 (spec/04_opcode_map.md R76). -/
def dec16 (col : BitVec 4) (r : BitVec 21) (lit : Option Word) : Except DecErr Instr :=
  let f := faF r lit
  match col.toNat with
  | 0 => do return .dadd f.d f.a (← f.bop)
  | 1 => do return .dmul f.d f.a (← f.bop)
  | 2 => do return .dfma f.d f.a (← f.bop)
  | _ => .error .column

/-- Decode a word of major 0x18 (spec/04_opcode_map.md R76). -/
def dec18 (col : BitVec 4) (r : BitVec 21) (lit : Option Word) : Except DecErr Instr :=
  let f := faF r lit
  match col.toNat with
  | 0 | 1 => do return .hadd2 (HFmt.dec col) f.d f.a (← f.bop)
  | 2 | 3 => do return .hmul2 (HFmt.dec col) f.d f.a (← f.bop)
  | 4 | 5 => do return .hfma2 (HFmt.dec col) f.d f.a (← f.bop)
  | _ => .error .column

/-- Decode a word of major 0x19 (spec/04_opcode_map.md R76). -/
def dec19 (col : BitVec 4) (r : BitVec 21) (lit : Option Word) : Except DecErr Instr :=
  let f := faF r lit
  match col.toNat with
  | 0 | 1 => do return .hadd2Uni (HFmt.dec col) (← f.ds) (← f.as) (← f.uop)
  | 2 | 3 => do return .hmul2Uni (HFmt.dec col) (← f.ds) (← f.as) (← f.uop)
  | 4 | 5 => do return .hfma2Uni (HFmt.dec col) (← f.ds) (← f.as) (← f.uop)
  | _ => .error .column

/-- Decode a word of major 0x1A (spec/04_opcode_map.md R76). -/
def dec1A (col : BitVec 4) (r : BitVec 21) (lit : Option Word) : Except DecErr Instr :=
  let f := faF r lit
  match col.toNat with
  | 0 | 1 => do f.zeroA; f.zeroB; return .rand (RandKind.dec col) f.d
  | _ => .error .column

/-- Decode a word of major 0x1C (spec/04_opcode_map.md R76). -/
def dec1C (col : BitVec 4) (r : BitVec 21) (lit : Option Word) : Except DecErr Instr :=
  let f := faF r lit
  do f.zeroA; return .cvt (CvtKind.dec col) (Rnd.dec col) f.d (← f.bop)

/-- Decode a word of major 0x1D (spec/04_opcode_map.md R76). -/
def dec1D (col : BitVec 4) (r : BitVec 21) (lit : Option Word) : Except DecErr Instr :=
  let f := faF r lit
  match col.toNat with
  | 0 | 1 | 2 | 3 | 4 | 5 | 6 | 7 | 8 | 9 | 10 | 11 | 12 => do f.zeroA; return .cvtExt (← CvtExt.dec col) f.d (← f.bop)
  | _ => .error .column

/-- Decode a word of major 0x1E (spec/04_opcode_map.md R76). -/
def dec1E (col : BitVec 4) (r : BitVec 21) (lit : Option Word) : Except DecErr Instr :=
  let f := faF r lit
  match col.toNat with
  | 0 | 1 | 2 | 3 => do f.zeroB; return .npack (NFmt.dec col) f.d f.a
  | 8 | 9 | 10 | 11 => do f.zeroB; return .nunpack (NFmt.dec col) f.d f.a
  | _ => .error .column

/-- Decode a word of major 0x1F (spec/04_opcode_map.md R76). -/
def dec1F (col : BitVec 4) (r : BitVec 21) (lit : Option Word) : Except DecErr Instr :=
  let f := faF r lit
  match col.toNat with
  | 0 | 1 => do f.zeroA; return .cvtUni (CvtUni.dec col) (← f.ds) (← f.uop)
  | _ => .error .column

/-- Decode a word of major 0x20 (spec/04_opcode_map.md R76). -/
def dec20 (col : BitVec 4) (r : BitVec 21) (_lit : Option Word) : Except DecErr Instr :=
  let g := fmF r
  match col.toNat with
  | 0 | 1 | 2 | 3 | 4 | 5 => do return .ld (← LdSize.dec col) g.data (← g.fmop)
  | _ => .error .column

/-- Decode a word of major 0x21 (spec/04_opcode_map.md R76). -/
def dec21 (col : BitVec 4) (r : BitVec 21) (_lit : Option Word) : Except DecErr Instr :=
  let g := fmF r
  match col.toNat with
  | 0 | 1 | 2 | 3 => do return .st (← StSize.dec col) g.data (← g.fmop)
  | _ => .error .column

/-- Decode a word of major 0x22 (spec/04_opcode_map.md R76). -/
def dec22 (col : BitVec 4) (r : BitVec 21) (_lit : Option Word) : Except DecErr Instr :=
  let g := fmF r
  match col.toNat with
  | 0 | 1 | 2 | 3 | 4 => do return .ldUni (← LdSize.dec col) (← sD g.data) (← g.fmop)
  | 8 => do return .stUni  (← sD g.data) (← g.fmop)
  | _ => .error .column

/-- Decode a word of major 0x23 (spec/04_opcode_map.md R76). -/
def dec23 (col : BitVec 4) (r : BitVec 21) (_lit : Option Word) : Except DecErr Instr :=
  let g := fmF r
  match col.toNat with
  | 0 => do return .ldt g.data g.tile
  | 1 => do return .stt g.data g.tile
  | _ => .error .column

/-- Decode a word of major 0x24 (spec/04_opcode_map.md R76). -/
def dec24 (col : BitVec 4) (r : BitVec 21) (lit : Option Word) : Except DecErr Instr :=
  let f := faF r lit
  match col.toNat with
  | 0 => do return .accrd f.d (← f.ap) (← f.bop)
  | 1 => do return .accwr (← f.dp) f.a (← f.bop)
  | _ => .error .column

/-- Decode a word of major 0x28 (spec/04_opcode_map.md R76). -/
def dec28 (col : BitVec 4) (r : BitVec 21) (lit : Option Word) : Except DecErr Instr :=
  let f := faF r lit
  match col.toNat with
  | 0 | 1 | 2 | 3 => do return .lshuf (ShufMode.dec col) f.d f.a (← f.bop)
  | 4 => do return .bcast f.d f.a (← f.uop)
  | 5 => do return .xchg f.d f.a (← f.uop)
  | _ => .error .column

/-- Decode a word of major 0x29 (spec/04_opcode_map.md R76). -/
def dec29 (col : BitVec 4) (r : BitVec 21) (lit : Option Word) : Except DecErr Instr :=
  let f := faF r lit
  match col.toNat with
  | 0 => do return .bcastUni (← f.ds) f.a (← f.uop)
  | _ => .error .column

/-- Decode a word of major 0x2C (spec/04_opcode_map.md R76). -/
def dec2C (col : BitVec 4) (r : BitVec 21) (_lit : Option Word) : Except DecErr Instr :=
  let g := fmF r
  match col.toNat with
  | 0 | 1 | 2 | 3 | 4 => do return .atom (← AtomArith.dec col) g.data (← g.fmop)
  | _ => .error .column

/-- Decode a word of major 0x2D (spec/04_opcode_map.md R76). -/
def dec2D (col : BitVec 4) (r : BitVec 21) (_lit : Option Word) : Except DecErr Instr :=
  let g := fmF r
  match col.toNat with
  | 0 | 1 | 2 | 3 | 4 => do return .atomBitwise (← AtomBit.dec col) g.data (← g.fmop)
  | _ => .error .column

/-- Decode a word of major 0x2E (spec/04_opcode_map.md R76). -/
def dec2E (col : BitVec 4) (r : BitVec 21) (_lit : Option Word) : Except DecErr Instr :=
  let g := fmF r
  match col.toNat with
  | 0 | 1 | 2 => do return .atomFloat (← AtomFloat.dec col) g.data (← g.fmop)
  | _ => .error .column

/-- Decode a word of major 0x2F (spec/04_opcode_map.md R76). -/
def dec2F (col : BitVec 4) (r : BitVec 21) (_lit : Option Word) : Except DecErr Instr :=
  let g := fmF r
  match col.toNat with
  | 0 | 1 | 2 | 3 => do return .atomUni (← AtomUni.dec col) (← sD g.data) (← g.fmop)
  | _ => .error .column

/-- Decode a word of major 0x30 (spec/04_opcode_map.md R76). -/
def dec30 (col : BitVec 4) (r : BitVec 21) (_lit : Option Word) : Except DecErr Instr :=
  do return .bra col r

/-- Decode a word of major 0x31 (spec/04_opcode_map.md R76). -/
def dec31 (col : BitVec 4) (r : BitVec 21) (_lit : Option Word) : Except DecErr Instr :=
  match col.toNat with
  | 8 | 9 | 10 | 11 | 12 | 13 | 14 | 15 => do return .call (col.extractLsb' 0 3) r
  | _ => .error .column

/-- Decode a word of major 0x32 (spec/04_opcode_map.md R76). -/
def dec32 (col : BitVec 4) (r : BitVec 21) (_lit : Option Word) : Except DecErr Instr :=
  match col.toNat with
  | 15 => do return .split r
  | _ => .error .column

/-- Decode a word of major 0x33 (spec/04_opcode_map.md R76). -/
def dec33 (col : BitVec 4) (r : BitVec 21) (lit : Option Word) : Except DecErr Instr :=
  let f := faF r lit
  match col.toNat with
  | 0 => do f.zeroD; f.zeroA; return .jmp (← f.uop)
  | 1 => do zero r; return .ret
  | 2 => do zero r; return .merge
  | 3 => do zero r; return .yield
  | 4 => do zero r; return .exit
  | 5 => do zero r; return .nop
  | _ => .error .column

/-- Decode a word of major 0x34 (spec/04_opcode_map.md R76). -/
def dec34 (col : BitVec 4) (r : BitVec 21) (_lit : Option Word) : Except DecErr Instr :=
  let x := fxF r
  match col.toNat with
  | 0 => do x.zeroP; x.zeroH; return .binit (← sD x.sb) (← x.barBE)
  | 1 => do x.zeroS; x.zeroP; return .barr x.hnd (← x.barBE)
  | 2 => do x.zeroS; x.zeroP; x.zeroH; return .bwait (← x.barBE)
  | 3 => do x.zeroS; x.zeroP; return .bsync x.hnd (← x.barBE)
  | 4 => do x.zeroP; x.zeroH; return .bqry (← sD x.sb) (← x.barBE)
  | _ => .error .column

/-- Decode a word of major 0x35 (spec/04_opcode_map.md R76). -/
def dec35 (col : BitVec 4) (r : BitVec 21) (_lit : Option Word) : Except DecErr Instr :=
  let x := fxF r
  match col.toNat with
  | 0 => do x.zeroS; x.zeroP; return .hfork (← x.bf4) x.hnd
  | 1 => do x.zeroP; return .hjoin (← x.bf4) x.hnd (← x.sb4)
  | 2 => do x.zeroP; x.zeroF; return .hpass x.hnd (← sD x.sb)
  | 3 => do x.zeroP; x.zeroH; return .hrecv (← x.bf4) (← sD x.sb)
  | 4 => do x.zeroS; x.zeroP; if x.bf = 0 then return .hwait x.hnd else if x.bf = 1 then return .hwaitRet x.hnd else throw .field
  | 5 => do x.zeroS; x.zeroP; if x.bf.extractLsb' 3 2 = 0 then return .fence (← Scope.dec (x.bf.extractLsb' 0 3)) x.hnd else if x.bf.extractLsb' 3 2 = 1 then (do x.zeroH; return .fenceAll (← Scope.dec (x.bf.extractLsb' 0 3))) else throw .field
  | _ => .error .column

/-- Decode a word of major 0x36 (spec/04_opcode_map.md R76). -/
def dec36 (col : BitVec 4) (r : BitVec 21) (lit : Option Word) : Except DecErr Instr :=
  let f := faF r lit
  match col.toNat with
  | 0 => do zero r; return .step
  | 1 => do zero r; return .acq
  | 2 => do zero r; return .rel
  | 3 => do f.zeroA; f.zeroB; return .elect (← f.dp)
  | _ => .error .column

/-- Decode a word of major 0x38 (spec/04_opcode_map.md R76). -/
def dec38 (col : BitVec 4) (r : BitVec 21) (_lit : Option Word) : Except DecErr Instr :=
  let x := fxF r
  match col.toNat with
  | 0 => do return .cpy (← x.fxop)
  | 1 => do return .tcpy (← x.fxop)
  | 2 => do return .gath (← x.fxop)
  | 3 => do return .scat (← x.fxop)
  | 4 => do x.zeroP; x.zeroH; return .cbinit (← x.bf3) (← sD x.sb)
  | 5 => do x.zeroP; if x.bf = 0 then return .cpyq (← sD x.sb) x.hnd else (do x.zeroS; if x.bf = 1 then return .cpyqRes x.hnd else if x.bf = 2 then return .cpyqAbn x.hnd else throw .field)
  | 6 => do x.zeroP; x.zeroH; return .launch (← x.bf1) (← sD x.sb)
  | 7 => do x.zeroP; x.zeroH; x.zeroF; return .qroom (← sD x.sb)
  | _ => .error .column

/-- Decode a word of major 0x39 (spec/04_opcode_map.md R76). -/
def dec39 (col : BitVec 4) (r : BitVec 21) (_lit : Option Word) : Except DecErr Instr :=
  let x := fxF r
  match col.toNat with
  | 0 => do return .rst (← x.fxop)
  | 1 => do return .rld (← x.fxop)
  | 2 => do return .rred (← x.fxop)
  | 3 => do return .ratom (← x.fxop)
  | 4 => do return .rcpy (← x.fxop)
  | 5 => do x.zeroP; return .rwait (← x.bf1) (← sD x.sb) x.hnd
  | 6 => do x.zeroH; x.zeroF; return .swplan (← sD x.sb) (← sD x.sp)
  | 7 => do return .swgo (← x.fxop)
  | 8 => do x.zeroP; x.zeroH; x.zeroF; return .swstat (← sD x.sb)
  | 9 => do return .swresume (← x.fxop)
  | 10 => do x.zeroS; x.zeroP; x.zeroF; return .swabort x.hnd
  | _ => .error .column

/-- Decode a word of major 0x3A (spec/04_opcode_map.md R76). -/
def dec3A (col : BitVec 4) (r : BitVec 21) (lit : Option Word) : Except DecErr Instr :=
  let f := faF r lit
  match col.toNat with
  | 0 => do f.zeroB; return .cbtake (← f.dp) (← f.ap)
  | 1 => do f.zeroD; f.zeroB; return .cbfree (← f.ap)
  | _ => .error .column

/-- Decode a word of major 0x3B (spec/04_opcode_map.md R76). -/
def dec3B (col : BitVec 4) (r : BitVec 21) (_lit : Option Word) : Except DecErr Instr :=
  let g := fmF r
  match col.toNat with
  | 0 => do g.zeroAddr; g.zeroAms; return .resq g.data g.hnd
  | 1 => do g.zeroAddr; g.zeroAms; return .pagereq g.data g.hnd
  | _ => .error .column

/-- Decode a word of major 0x3C (spec/04_opcode_map.md R76). -/
def dec3C (col : BitVec 4) (r : BitVec 21) (lit : Option Word) : Except DecErr Instr :=
  let f := faF r lit
  match col.toNat with
  | 0 => do f.zeroA; f.zeroB; return .mzero (← f.dp)
  | 1 => do zero r; return .mrdy
  | 2 => do f.zeroA; f.zeroB; return .mwait (← f.dp)
  | 3 => do return .mdrain (DrainFmt.dec f.b) (← f.dp) (← f.as) (← f.drainInt) (f.b.getLsbD 0)
  | _ => .error .column

/-- Decode a word of major 0x3D (spec/04_opcode_map.md R76). -/
def dec3D (col : BitVec 4) (r : BitVec 21) (_lit : Option Word) : Except DecErr Instr :=
  match col.toNat with
  | 0 | 1 | 2 | 3 | 4 | 5 => do return .mma (← MmaFmt.dec col) (← MmaOp.dec r)
  | _ => .error .column

/-- Decode a word of major 0x3E (spec/04_opcode_map.md R76). -/
def dec3E (col : BitVec 4) (r : BitVec 21) (lit : Option Word) : Except DecErr Instr :=
  let f := faF r lit
  match col.toNat with
  | 0 => do return .sysr (← f.ds) f.a (← f.sel)
  | 1 => do f.zeroA; if f.d = 7 then return .syswTrappc (← f.uop) else if f.d = 8 then return .syswTrapres (← f.uop) else throw .register
  | 2 => do f.zeroD; f.zeroA; return .trap (← f.uop)
  | 3 => do zero r; return .tret
  | 4 => do f.zeroA; return .causec (← f.ds) (← f.uop)
  | 5 => do f.zeroD; f.zeroA; return .bkpt (← f.immB)
  | _ => .error .column

/-- The instruction a word encodes, before the limits of WellFormed. -/
def decodeRaw (w : Word) (lit : Option Word) : Except DecErr Instr :=
  let col := w.extractLsb' 21 4
  let r := w.extractLsb' 0 21
  match (w.extractLsb' 25 6).toNat with
  | 0 => dec00 col r lit
  | 1 => dec01 col r lit
  | 2 => dec02 col r lit
  | 3 => dec03 col r lit
  | 4 => dec04 col r lit
  | 5 => dec05 col r lit
  | 6 => dec06 col r lit
  | 7 => dec07 col r lit
  | 8 => dec08 col r lit
  | 9 => dec09 col r lit
  | 10 => dec0A col r lit
  | 11 => dec0B col r lit
  | 12 => dec0C col r lit
  | 13 => dec0D col r lit
  | 14 => dec0E col r lit
  | 15 => dec0F col r lit
  | 16 => dec10 col r lit
  | 17 => dec11 col r lit
  | 18 => dec12 col r lit
  | 19 => dec13 col r lit
  | 20 => dec14 col r lit
  | 21 => dec15 col r lit
  | 22 => dec16 col r lit
  | 24 => dec18 col r lit
  | 25 => dec19 col r lit
  | 26 => dec1A col r lit
  | 28 => dec1C col r lit
  | 29 => dec1D col r lit
  | 30 => dec1E col r lit
  | 31 => dec1F col r lit
  | 32 => dec20 col r lit
  | 33 => dec21 col r lit
  | 34 => dec22 col r lit
  | 35 => dec23 col r lit
  | 36 => dec24 col r lit
  | 40 => dec28 col r lit
  | 41 => dec29 col r lit
  | 44 => dec2C col r lit
  | 45 => dec2D col r lit
  | 46 => dec2E col r lit
  | 47 => dec2F col r lit
  | 48 => dec30 col r lit
  | 49 => dec31 col r lit
  | 50 => dec32 col r lit
  | 51 => dec33 col r lit
  | 52 => dec34 col r lit
  | 53 => dec35 col r lit
  | 54 => dec36 col r lit
  | 56 => dec38 col r lit
  | 57 => dec39 col r lit
  | 58 => dec3A col r lit
  | 59 => dec3B col r lit
  | 60 => dec3C col r lit
  | 61 => dec3D col r lit
  | 62 => dec3E col r lit
  | _ => .error .major

/-- Decode an instruction word with the word of the next slot of its packet, where there is one (R50, R56): the chain
bit and the instruction. -/
def decodeWord (w : Word) (nxt : Option Word) : Except DecErr (Bool × Instr) := do
  let i ← decodeRaw w nxt
  if i.wf then .ok (w.getLsbD 31, i) else .error .limit

/-- The little-endian word at the head of a byte list (spec/00_scope.md R1). -/
def leWord : List Byte → Word
  | b0 :: b1 :: b2 :: b3 :: _ => b3 ++ b2 ++ b1 ++ b0
  | [b0, b1, b2] => 0#8 ++ b2 ++ b1 ++ b0
  | [b0, b1] => 0#16 ++ b1 ++ b0
  | [b0] => 0#24 ++ b0
  | [] => 0

/-- Decode the instruction at the head of a byte list: a whole word, then the literal's word. -/
def decodeBytes (l : List Byte) : Except DecErr (Bool × Instr) := decodeWord (leWord l) (some (leWord (l.drop 4)))

/-- The four bytes of a word, lowest address first. -/
def wordBytes (w : Word) : List Byte :=
  [w.extractLsb' 0 8, w.extractLsb' 8 8, w.extractLsb' 16 8, w.extractLsb' 24 8]

/-- The instruction my decoder reads from the bits of an opcode table row: the word of the row, and zeros above it. -/
def decodeTableWord (nbits w : Nat) : Option Instr :=
  let w := w % 2 ^ nbits
  match decodeBytes (wordBytes (BitVec.ofNat 32 w) ++ wordBytes (BitVec.ofNat 32 (w / 2 ^ 32))) with
  | .ok (_, i) => some i
  | .error _ => none

end Sys2Proof
end

