-- ==== Sys2Proof/Config.lean ====
section
/-! DEFINITION. What the specification leaves open or takes from other standards: free values, which have no body, so
that nothing in Lean can evaluate them or prove what they are. -/
namespace Sys2Proof

/-- An unpredictable word (spec/00_scope.md R6), fresh for each value of the state's counter
(notes/assumptions/5.md). -/
opaque Config.freeWord : Nat → Word

/-- An unpredictable byte (R6). -/
opaque Config.freeByte : Nat → Byte

/-- What an approximated function (0 FRCP, 1 FRSQ, 3 FEXP2, 4 FLOG2, 5 FSIN, 6 FCOS) answers for an operand, before its
bound is checked (spec/08_isa_float.md R163, R167; notes/assumptions/6.md). -/
opaque Config.approx : Nat → Word → Word

/-- Arithmetic-clock cycles that pass from one reading of a context's time to the next (spec/10_isa_control.md R213;
notes/assumptions/7.md). -/
opaque Config.cycles : Nat → Nat

/-- SHAKE256 of FIPS 202 (spec/01_device.md R35; notes/assumptions/8.md). -/
opaque Config.shake256 : List Byte → List Byte

/-- SLH-DSA-SHAKE-256s verification of FIPS 205: public key, message, signature (R35). -/
opaque Config.slhVerify : List Byte → List Byte → List Byte → Bool

/-- SLH-DSA-SHAKE-256s signature of FIPS 205 under the device's identity key (spec/30_bringup.md R490). -/
opaque Config.slhSign : List Byte → List Byte

/-- The context key that Hearth draws at CREATE (spec/23_context.md R397; notes/assumptions/90.md). -/
opaque Config.contextKey : Nat → List Byte

/-- The usable physical clusters of each die at a boot, by the fuses and the firmware's retirement list (spec/01_device.md R11), the
partitions and the device-managed slices that Hearth fixes (spec/23_context.md R389, spec/17_page.md R317;
notes/assumptions/102.md). -/
opaque Config.bootClusters : Nat → List (List Nat)
/-- The partitions of a boot. -/
opaque Config.bootShape : Nat → List (BitVec 4)
/-- The device-managed slices of a boot. -/
opaque Config.bootManaged : Nat → BitVec 4

/-- The bytes of the halo store's reservation on a die (spec/06_cell.md R128; notes/assumptions/16.md). -/
opaque Config.haloBytes : Nat

end Sys2Proof
end

