-- ==== Sys2Proof/Machine/State.lean ====
section
/-! DEFINITION. The state of one AX-9 device: every piece of state the specification gives it, as plain data.
What a hardware structure holds under a key is a sparse map (NMap) or a table (Tbl). -/
namespace Sys2Proof.Machine

/-- What a register list names: V and P registers of every cell, the wave's S, K, A, I, D and H registers, the team's
C registers and the pair's T tiles (spec/03_formats.md R53, R67). -/
inductive RegRef where
  | v (n : Nat) | p (n : Nat) | s (n : Nat) | k (n : Nat) | a (n : Nat) | i (n : Nat) | d (n : Nat) | h (n : Nat)
  | c (n : Nat) | t (n : Nat)
deriving DecidableEq, Repr

/-! ## The wave -/

/-- The state of a wave (spec/11_group.md R220). HALTED is not a value here: a wave is HALTED while its team is, and
this field is then the state it returns to. -/
inductive WaveSt where | evicted | ready | waiting | stalled | held | draining | done
deriving DecidableEq, Repr

/-- A mask stack entry (spec/10_isa_control.md R207). -/
inductive MaskEntry where
  | split (rpc : Word) (saved : Mask)
  | path (pc : Word) (mask : Mask)
deriving DecidableEq, Repr

/-- A call stack entry (R205). -/
structure CallEntry where
  ret : Word
  ms : Nat
deriving DecidableEq, Repr

/-- An I register (spec/07_isa_integer.md R156). -/
structure IncReg where
  len : Word := 0
  base : Word := 0
  stride : Word := 0
deriving DecidableEq, Repr

/-- A D register: a tile descriptor (spec/09_isa_memory.md R187). -/
structure TileReg where
  fmt : BitVec 3 := 0
  rows : BitVec 16 := 0
  pitch : Word := 0
  base : Word := 0
deriving DecidableEq, Repr

/-- The states of a handle register (spec/14_handle.md R270). -/
inductive HandleSt where | retired | gated | opened
deriving DecidableEq, Repr

/-- An H register (R269): the sequencer slot it names and its state. TV and TAG belong to the sequencer named. -/
structure HandleReg where
  seq : Nat := 0
  st : HandleSt := .retired
deriving DecidableEq, Repr

/-- A C register: a circular buffer (spec/18_copy.md R344). -/
structure CircReg where
  nres : Nat := 0
  ntak : Nat := 0
  nfil : Nat := 0
  frep : Nat := 0
  takp : Nat := 0
  filp : Nat := 0
  slots : Nat := 0
  slotb : Nat := 0
  base : Nat := 0
deriving DecidableEq, Repr

/-- One cell's part of a scratchpad access: its F0 value, its byte address, the value it stores or operates with, and
the new value of a compare and swap. -/
structure Touch where
  f : Nat
  addr : Nat
  val : BitVec 64
  new : Word
deriving DecidableEq, Repr

/-- What an atomic does at its word (R194). -/
inductive AtomOp where
  | add | smin | umin | smax | umax | and | or | xor | exch | cas | fadd | fmin | fmax
deriving DecidableEq, Repr

/-- The kinds of scratchpad access. -/
inductive AccKind where
  | load (m : LdSize) | store | atom (op : AtomOp)
deriving DecidableEq, Repr

/-- A scratchpad access of one word: size in bytes, team scope or wave scope, uniform or per cell, the register that a
load or an atomic writes, and every touched element. -/
structure Access where
  kind : AccKind
  sz : Nat
  team : Bool
  uni : Bool
  d : Nat
  cells : List Touch
deriving DecidableEq, Repr

/-- What stands in a sequencer (spec/13_ordering.md R250). `op` is a slice or an operation of an engine, `remote` a
remote operation, both by the operation's number. A fork gate lists, for each input sequencer, the entries it waits
for. A fence over every handle has the same number in every sequencer; `free` marks CBFREE's, with its C register. A
LAUNCH, an ACQ, a REL, and a SWABORT or a SWRESUME in place of a sequencer stand only in the commit stage (spec/11_group.md R231,
spec/28_swage.md R478). -/
inductive EntryKind where
  | access (a : Access)
  | arrival (b : Nat)
  | op (o : Nat)
  | remote (o : Nat)
  | pass (recv : Nat) (key : BitVec 16)
  | gateFork (after : List Nat)
  | gateRecv (key : BitVec 16)
  | fence (sc : Scope) (every : Bool) (ready : Bool) (free : Option Nat)
  | launch (q : Nat) (try_ : Bool) (d : Nat) (pkt : List Byte)
  | acq
  | rel
  | abort (q : Nat)
  | resume (hnd q plan : Nat) (bar : Option Nat) (rflg : Bool) (fteam : BitVec 64)
deriving DecidableEq, Repr

/-- Where an entry stands (R251). BUFFERED and STAGED entries have left their sequencer for the perform buffer or the
commit stage. -/
inductive EntrySt where | queued | handedOff | paused
deriving DecidableEq, Repr

/-- An entry: its number in the wave's issue order, what it is and where it stands. -/
structure Entry where
  id : Nat
  k : EntryKind
  st : EntrySt := .queued
deriving DecidableEq, Repr

/-- The remote status accumulator of a sequencer (spec/26_fabric_ops.md R445). -/
structure RemAcc where
  n : BitVec 16 := 0
  x : BitVec 8 := 0
  code : Nat := 0
  bytes : Nat := 0
deriving DecidableEq, Repr

/-- A handle sequencer (R249, R271): named by a register or detached, with its fabric tag. -/
structure Seq where
  named : Bool := true
  entries : List Entry := []
  tag : Option Nat := none
  gen : BitVec 8 := 0
  acc : RemAcc := {}
deriving DecidableEq, Repr

/-- An effect that has performed for its own wave alone: a buffered store, or a staged entry (R251, R266). -/
structure Staged where
  wave : Nat
  seq : Nat
  id : Nat
  k : EntryKind
deriving DecidableEq, Repr

/-- A fault found after ACCEPT that waits for its wave's chain boundary (spec/24_traps.md R494). -/
structure PendFault where
  cause : Nat
  arg : Word
deriving DecidableEq, Repr

/-- What a wave that waits in a word keeps: the word's place in its chain, data fixed when the wait began, the launch
packet once LAUNCH has read it (spec/16_kernel.md R309), and, where the chain's other words have issued, the S and D registers as
they stood before the chain (spec/03_formats.md R53, R495). -/
structure Hold where
  idx : Nat
  data : List Nat
  pkt : List Byte := []
  src : Option (NMap Word × NMap TileReg) := none
deriving DecidableEq, Repr

/-- An offer that a wave makes as it waits in XCHG (spec/09_isa_memory.md R199): the partner's logical index, the V
register it gives, and, once the partner has come, the values it receives by cell. -/
structure Offer where
  partner : Nat
  a : Nat
  got : Option (NMap Word) := none
deriving DecidableEq, Repr

/-- What a wave's waits are tested against in deterministic mode, from the start of its quantum (spec/11_group.md R231): the number that
its next entry had, its entries that were not PERFORMED, the number that the next matrix operation had and those of its team that had
not retired, the neighbour waves that were behind, the waves that offered it an exchange, and the phase of each barrier as the wave
sees it. -/
structure View where
  next : Nat
  out : List Nat
  serial : Nat
  ops : List Nat
  behind : List Nat
  offers : List Nat
  phases : NMap (BitVec 16)
deriving DecidableEq, Repr

/-- A wave with its image (spec/03_formats.md, spec/06_cell.md, spec/10_isa_control.md, spec/11_group.md,
spec/13_ordering.md, spec/14_handle.md, spec/24_traps.md). Per-cell registers are keyed by F0 value: V register n of
cell f at 64 f + n, P register n at 8 f + n, bank b of register n at 64 f + 2 n + b. `mrdy` is the most recent MRDY with whether it has opened, and `wrote` the window bytes
(team, offset, the bits that differ) changed since it opened (spec/20_matrix.md R370, spec/09_isa_memory.md R202). `passed` lists the passes that it
has sent to other devices and that are not delivered: entry, sequencer, device (spec/14_handle.md R276). `granted` is a set that an ACQ
still waiting has been given (spec/11_group.md R232), and `savedOffer` the exchange that a fault has interrupted
(spec/09_isa_memory.md R199, spec/24_traps.md R412). `heldBack` says that a wave in the handler was HELD as the fault reached it and is
to be HELD again (spec/06_cell.md R117, R133). -/
structure Wave where
  kern : Nat
  team : Nat
  idx : Nat
  f1 : Nat := 0
  st : WaveSt := .ready
  pc : Word := 0
  redo : BitVec 3 := 0
  hold : Option Hold := none
  live : Mask := 0
  active : Mask := 0
  ms : List MaskEntry := []
  cs : List CallEntry := []
  v : NMap Word := []
  p : NMap Bool := []
  s : NMap Word := []
  k : NMap Bool := []
  a : NMap Word := []
  i : NMap IncReg := []
  d : NMap TileReg := []
  h : NMap HandleReg := []
  bank : NMap Word := []
  step : Word := 0
  exits : Tbl Word := []
  whole : Bool := false
  draw : NMap (BitVec 48) := []
  conv : NMap (BitVec 43) := []
  wcause : BitVec 64 := 0
  trappc : Word := 0
  resume : BitVec 3 := 0
  skid : BitVec 3 := 0
  traparg : Word := 0
  hmode : Bool := false
  shadow : NMap Word := []
  shadowK : Bool := false
  savedActive : Mask := 0
  entryMS : Nat := 0
  entryCS : Nat := 0
  pending : List PendFault := []
  ext : Bool := false
  seqs : Tbl Seq := []
  buf : List Staged := []
  nextId : Nat := 0
  pend : List (RegRef × Nat) := []
  mrdy : Option (Nat × Bool) := none
  wrote : List (Nat × Nat × Nat) := []
  qcount : Nat := 0
  time : BitVec 64 := 0
  age : Nat := 0
  skidLeft : Nat := 0
  qended : Bool := false
  heldBack : Bool := false
  offer : Option Offer := none
  savedOffer : Option Offer := none
  granted : Bool := false
  passed : List (Nat × Nat × Nat) := []
  view : Option View := none
deriving DecidableEq, Repr

/-! ## The team -/

/-- A named barrier (spec/12_barrier.md R236). -/
structure Barrier where
  st : Bool := false
  mm : BitVec 16 := 0
  e : BitVec 8 := 0
  am : BitVec 16 := 0
  xa : Nat := 0
  ph : BitVec 16 := 0
  w : NMap (BitVec 16) := []
  ar : BitVec 16 := 0
deriving DecidableEq, Repr

/-- The states of a team (spec/11_group.md R222), HALTED apart. -/
inductive TeamSt where | pending | resident | evicted | ended
deriving DecidableEq, Repr

/-- A pass applied at its receiver's team and not yet matched, with the device it comes from (spec/14_handle.md R272, R275). -/
structure PassRec where
  src : Nat
  recv : Nat
  key : BitVec 16
  tag : Option Nat
  gen : BitVec 8
deriving DecidableEq, Repr

/-- The kinds of matrix operation (spec/20_matrix.md R368). `a` and `b` are the operand tiles: the window's team, the
origin and the descriptor; with `ra` A comes from the issuing wave's registers. -/
inductive MatKind where
  | zero
  | mma (m : MmaFmt) (kc : Nat) (ra : Bool) (aTeam aOrg : Nat) (aD : TileReg) (bTeam bOrg : Nat) (bD : TileReg)
  | drain (m : DrainFmt) (int zero : Bool) (edst epitch sdst rbcb scv : Word)
deriving DecidableEq, Repr

/-- A matrix operation (R360). `rdy` is the ready fence of its wave; `dirtyA` and `dirtyB` mark rows of the operands,
or rows and columns of the scale vectors, written after that fence opened (spec/09_isa_memory.md R202); `touched` lists
the elements of its tile that an ACCWR wrote before it started (R193). Once it has started, `rows` are the cells that supply rows of A
from registers (spec/20_matrix.md R366), `drains` the drains of what it left in its tile (team, format, destination offset, row pitch,
side offset), and `gone` says that its tile has been cleared since. -/
structure MatOp where
  id : Nat
  team : Nat
  wave : Nat
  tile : Nat
  k : MatKind
  rdy : Option Nat
  opened : Bool := false
  started : Bool := false
  ovf : Bool := false
  dirtyA : BitVec 128 := 0
  dirtyB : BitVec 128 := 0
  touched : List (Nat × Nat) := []
  rows : BitVec 128 := 0
  drains : List (Nat × DrainFmt × Nat × Nat × Nat) := []
  gone : Bool := false
deriving DecidableEq, Repr

/-- Window bytes that other waves than the one that writes them read as unpredictable values in deterministic mode: ranges (offset,
length) of a `.wave` store, or of the destinations of a drain that no MWAIT has covered yet (spec/09_isa_memory.md R184,
spec/20_matrix.md R379), with the drain's tile. `id` is the entry number from which on the writer's arrivals count, `arrived` the barriers with the phases that
it has arrived in since, and `clear` the waves that have passed one of those. -/
structure Veil where
  own : Nat
  rs : List (Nat × Nat)
  op : Option Nat := none
  tile : Nat := 0
  id : Nat
  arrived : List (Nat × BitVec 16) := []
  clear : List Nat := []
deriving DecidableEq, Repr

/-- A team (R221, R222; `arrived` holds the external arrivals that wait for the round boundary, each with its source and its barrier,
`freshB` and `freshC` the barriers and circular buffers that a wave has set in this round as the other waves still see them,
spec/12_barrier.md R242, spec/18_copy.md R346, `filled` the circular-buffer slots, by register and
slot, whose copies are complete and that are not FULL yet, `stale` the window ranges of slots that a RELEASE has freed and that nothing
has written since, spec/18_copy.md R345, R347): its window, barriers, circular buffers, extended pool, pass table, commit stage and the
matrix operations frozen out of its pair's queue. The three halts are those of a fault, of the debugger and of
pre-emption. -/
structure Team where
  kern : Nat
  idx : Nat
  vf : Nat := 0
  core : Nat := 0
  st : TeamSt := .pending
  haltF : Bool := false
  haltD : Bool := false
  haltP : Bool := false
  win : NMap Byte := []
  bars : Tbl Barrier := []
  cbufs : NMap CircReg := []
  free : Nat := 0
  reqs : List Nat := []
  passes : List PassRec := []
  stage : List Staged := []
  round : Nat := 0
  turn : Nat := 0
  arrived : List (Nat × Nat) := []
  freshB : List (Nat × Nat × Barrier) := []
  freshC : List (Nat × Nat × CircReg) := []
  veils : List Veil := []
  copies : NMap Nat := []
  filled : List (Nat × Nat) := []
  stale : List (Nat × Nat) := []
  frozen : List MatOp := []
deriving DecidableEq, Repr

/-! ## Kernels, queues and contexts -/

/-- An extent entry (spec/16_kernel.md R299). -/
structure Extent where
  va : Nat
  npages : Nat
  rd : Bool
  wr : Bool
  sparse : Bool
deriving DecidableEq, Repr

/-- A launch packet, field by field (R296). -/
structure Header where
  codebase : Nat := 0
  codelen : Nat := 1
  entry : Word := 0
  widths : List Nat := [0, 0, 0, 0, 0, 0]
  handles : BitVec 16 := 0
  modew : Word := 0
  publish : Word := 0
  axes : List Word := [0, 0, 0]
  window : Nat := 256
  seed : BitVec 64 := 0
  regimg : Nat := 0
  spadimg : Nat := 0
  spadlen : Nat := 0
  tiles : List TileReg := []
  cbufs : List CircReg := []
  waits : List (Nat × Nat) := []
  signal : Nat := 0
  report : Nat := 0
  exts : List Extent := []
deriving DecidableEq, Repr

/-- The states of a kernel (R302). -/
inductive KernelSt where | queued | translating | dispatching | running | done | failed
deriving DecidableEq, Repr

/-- A run of the extent table (spec/17_page.md R314), with the extent it belongs to: `len` is its pages less one, `off` the
index of its first page in the extent, `pfn` bits 51:16 of that page's physical address. -/
structure Run where
  ext : Nat
  gen : BitVec 16
  len : BitVec 24
  off : BitVec 24
  pfn : BitVec 36
  sparse : Bool
  wr : Bool
  rd : Bool
deriving DecidableEq, Repr

/-- A remote wave in the halo store and step table (spec/06_cell.md R128, R493). It has an entry once its first notice
has been performed. -/
structure HaloWave where
  dispatched : Bool := false
  step : Word := 0
  whole : Bool := false
  exits : Tbl Word := []
  bank : NMap Word := []
deriving DecidableEq, Repr

/-- A kernel (R302): its packet, its numbers, its extent table, its pins, the token of its floating-point atomics
(team index and cycle, spec/11_group.md R233) the LAUNCHes it has committed to each queue (spec/15_queue.md R294), and whether
its counters were met when they were last read (R304). `sel` stamps its SELECT (spec/15_queue.md R290), `dies` is the die that
dispatch chose for each of its die groups on this device, `prio` the priority of its queue at its SELECT, and `halo` the halo store and step table of each die by logical wave
index (spec/06_cell.md R128). -/
structure Kernel where
  vf : Nat
  q : Nat
  hdr : Header := {}
  st : KernelSt := .queued
  reason : Nat := 0
  kid : Word := 0
  parent : Word := 0
  runs : List Run := []
  pins : List Nat := []
  token : Nat := 0
  cycle : Nat := 0
  own : NMap Nat := []
  met : Bool := false
  sel : Nat := 0
  prio : Nat := 0
  dies : List Nat := []
  halo : Tbl (Tbl HaloWave) := []
deriving DecidableEq, Repr

/-- The states of a queue (R285). -/
inductive QueueSt where | unbound | opened | stopped | closing
deriving DecidableEq, Repr

/-- A hardware queue (R284). `ents` holds the kernel number of each occupied entry, head first. -/
structure Queue where
  tail : Word := 0
  head : Word := 0
  base : Nat := 0
  st : QueueSt := .unbound
  logcap : Nat := 0
  vf : Nat := 0
  prio : Nat := 0
  ents : List Nat := []
deriving DecidableEq, Repr

/-- The states of a page (spec/17_page.md R316). PINNED is RESIDENT with a pin; MIGRATING keeps the pins too. -/
inductive PageSt where | absent | fetching | resident | migrating
deriving DecidableEq, Repr

/-- A page of a context's address space (R316, R324); `noback` says that it is ABSENT because its service
ended in NOBACK, `lastNo` that its last service did, `dest` is the frame a migration moves it to. -/
structure Page where
  st : PageSt := .absent
  pins : Nat := 0
  noback : Bool := false
  lastNo : Bool := false
  dest : Nat := 0
deriving DecidableEq, Repr

/-- A page service record (R318). -/
structure SvcRec where
  va : Nat
  kid : Word
  src : Nat
  kind : Nat
  acc : Nat
  stage : Nat
  ext : Nat
  gen : BitVec 16
deriving DecidableEq, Repr

/-- The escalation record (spec/24_traps.md R413). -/
structure EscRec where
  kid : Word := 0
  pc : Word := 0
  wid : BitVec 64 := 0
  cause : BitVec 64 := 0
  arg : Word := 0
  hm : Bool := false
deriving DecidableEq, Repr

/-- The states of a context (spec/23_context.md R393). -/
inductive CtxSt where | free | parked | restoring | running | yielding | halting | quenching | failed | draining
deriving DecidableEq, Repr

/-- What a context holds on chip and its save area takes: the images of its teams on a core, their windows with their buffers, its tiles
of a pair, its part of a die's halo store and step table (spec/23_context.md R396). -/
inductive OnChip where | images (core : Nat) | windows (core : Nat) | tiles (pair : Nat) | halo (die : Nat)
deriving DecidableEq, Repr

/-- The context of one virtual function (R391) with everything that is its own: handler, KID counter, extent
generation, fabric generation, translation, pages, tokens, escalation record and fault queue. `stage1` is the guest's table by
virtual page number and `stage2` that of Hearth or of the memory-management processor by intermediate page number
(spec/17_page.md R312). `key` is the context key, `area` the frames of the save area, `save` the 4 KiB units of the image that lie
there, each with its tag, and `saved` what they hold (spec/23_context.md R396, R397). `shootdown` lists the pages that a servicer is about to act on, each with the extent generation that its
shoot-down began (R327). `clock` is the arithmetic-clock cycles since the context started (spec/10_isa_control.md R213). -/
structure Ctx where
  st : CtxSt := .free
  part : BitVec 4 := 0
  reason : Nat := 0
  slice : Nat := 1000
  grace : Nat := 200
  qtime : Nat := 2000
  debt : Nat := 0
  credit : Nat := 0
  savegen : Word := 0
  turns : Word := 0
  erraddr : BitVec 64 := 0
  errcause : Nat := 0
  turnLen : Nat := 0
  reduced : Bool := false
  key : List Byte := []
  area : List Nat := []
  save : List (Nat × BitVec 64) := []
  saved : List OnChip := []
  handler : Word := 0xFFFFFFFF
  nextKid : Word := 1
  extgen : BitVec 16 := 0
  shootdown : List (Nat × BitVec 16) := []
  gen : BitVec 8 := 0
  clock : Nat := 0
  stage1 : Tbl TableEnt := []
  stage2 : Tbl TableEnt := []
  pages : Tbl Page := []
  allowance : Nat := 2343
  balance : Int := 4686
  tdebt : Int := 0
  prioTok : Int := 0
  lent : List (Nat × Nat × Int) := []
  esc : EscRec := {}
  faultq : List SvcRec := []
deriving DecidableEq, Repr

/-! ## Engine operations -/

/-- A memory or window place (spec/18_copy.md R332). -/
structure Place where
  win : Bool
  addr : Nat
deriving DecidableEq, Repr

/-- One wave's slice of a copy (R335), or of a tensor copy with its descriptor words (R340). -/
structure Slice where
  wave : Nat
  f1 : Nat
  src : Place
  dst : Place
  len : Nat
  tmem : Nat := 0
  desc : List Byte := []
  tile : TileReg := {}
  mode : List Nat := []
deriving DecidableEq, Repr

/-- One element of a gather or scatter (R343), or one page reference (spec/17_page.md R322). -/
structure Elem where
  f : Nat
  ext : Nat
  page : Nat
  off : Nat
deriving DecidableEq, Repr

/-- A remote operation (spec/26_fabric_ops.md R437): its column, operands and flag. `data` is what the port has read of the packet in hand
(R443), `done` gives the status of each completed packet. -/
structure RemOp where
  col : Nat
  target : Nat
  ra : Nat
  src : Place
  len : Nat
  flg : Nat
  opts : Nat
  flag : BitVec 64
  round : Word
  aop : Nat
  ret : Bool
  a : Word
  b : Word
  dreg : Nat
  data : List Byte := []
  sent : Nat := 0
  dropped : Bool := false
  done : NMap (Option Nat) := []
  reply : List Byte := []
deriving DecidableEq, Repr

/-- A Swage operation (spec/28_swage.md R465, R470): its plan, whether it resumes one, the flag of its arrivals, the segments
in flight with the extent generation they started under, the bytes of each that stand at a target of this device, the devices whose
arrivals are not acknowledged, and the status of each packet. -/
structure SwRun where
  plan : Nat
  resume : Bool
  rflg : Bool
  fteam : BitVec 64
  inflight : List (Nat × BitVec 16) := []
  landed : NMap Nat := []
  arrivals : List Nat := []
  stat : NMap (Option Nat) := []
deriving DecidableEq, Repr

/-- What an engine operation does. -/
inductive OpKind where
  | copy (tensor dir cbe : Bool) (cix : Nat) (slices : List Slice)
  | gath (k : Nat) (o sz : Nat) (flag : Option Nat) (els : List Elem)
  | scat (k : Nat) (o sz : Nat) (els : List Elem)
  | pagereq (els : List Elem)
  | resq (d : Nat) (els : List Elem)
  | remote (r : RemOp)
  | swage (r : SwRun)
deriving DecidableEq, Repr

/-- The states of an operation (spec/18_copy.md R338). -/
inductive OpSt where | gathering | queued | running | paused | stopping
deriving DecidableEq, Repr

/-- A marker: the wave, the sequencer slot, the entry number and the handle. -/
structure Mark where
  wave : Nat
  seq : Nat
  id : Nat
  hnd : Nat
deriving DecidableEq, Repr

/-- An engine operation. `acc` is its place in the order of acceptance, `seg` the segments performed, and `cause`, `fslice`
and `foff` say where it paused. A segment that has started under the extent generation `gen` still has to write `words`, each the
bytes of one aligned 4-byte word by window offset or, without `wwin`, by physical address (spec/13_ordering.md R255, R264). -/
structure Op where
  kern : Nat
  team : Nat
  vf : Nat
  k : OpKind
  st : OpSt := .gathering
  marks : List Mark := []
  bar : Option Nat := none
  nth : Nat := 0
  seg : Nat := 0
  slot : Option Nat := none
  cause : Nat := 0
  acc : Nat := 0
  fslice : Nat := 0
  foff : Nat := 0
  gen : BitVec 16 := 0
  words : List (List (Nat × Byte)) := []
  wwin : Bool := false
deriving DecidableEq, Repr

/-- A segment of a plan: its addresses and its length. -/
structure Move where
  src : Nat
  dst : Nat
  len : Nat
deriving DecidableEq, Repr

/-- A segment of a plan with its source device and its target device. -/
structure PlanSeg where
  m : Move
  src : Nat
  dst : Nat
deriving DecidableEq, Repr

/-- A Swage plan (spec/28_swage.md R462-R464), under its virtual function and address: the live header, the devices of the
target record, the wave that generates it with the size of its area, and the bytes of its entries. `segs` are the segments as the units
read them at the ACCEPT; `dirty` lists the source addresses that others have written since, and `spoiled` those of the target bytes and
of the plan area that hold unpredictable values for it (R467). -/
structure Plan where
  vf : Nat
  st : Nat := 0
  cause : Nat := 0xFF
  self : Nat := 0
  nsrc : Nat := 0
  nseg : Nat := 0
  firstown : Nat := 0
  nown : Nat := 0
  cursor : Nat := 0
  faultseg : Nat := 0xFFFFFFFF
  donemask : BitVec 64 := 0
  ownbytes : Nat := 0
  ngrp : Nat := 0
  size : Nat := 0
  kern : Nat := 0
  wave : Option Nat := none
  tdevs : List Nat := []
  bytes : List Byte := []
  segs : List PlanSeg := []
  dirty : List Nat := []
  spoiled : List Nat := []
deriving DecidableEq, Repr

/-! ## The fabric -/

/-- The states of a link (spec/25_link.md R422). -/
inductive LinkSt where | dark | training | up | narrow | failed
deriving DecidableEq, Repr

/-- Reachability of a peer (R430). -/
inductive Reach where | direct | detour | noroute | unreachable | resync
deriving DecidableEq, Repr

/-- A packet: its head flit and the data bytes of the flits that followed (R417). A packet that the device sends itself
also carries its kernel, its operation with the packet's place in it, and the marker of a pass; at its target `landed` lists the words of
its data, by number in the address space, that have reached their modules (spec/26_fabric_ops.md R447). -/
structure Packet where
  head : Flit
  data : List Byte
  landed : List Nat := []
  kern : Option Nat := none
  op : Option (Nat × Nat) := none
  mark : Option Mark := none
deriving DecidableEq, Repr

/-- A packet to a peer that is not yet DONE (R426): held or sent, and its pair sequence number once it is sent. -/
structure OutPkt where
  pkt : Packet
  sent : Bool := false
  pseq : Nat := 0
deriving DecidableEq, Repr

/-- A link and the pair state of one peer (R420-R434). `allow` is the allowance left at the peer by virtual function,
`given` the status given for each packet performed here, `bind` the local virtual function of each of the peer's,
`gens` the oldest generation of each that is still accepted, `gendisc` the packets of each discarded for an old generation and
not reported yet, `striped` whether the active mask has changed and no flit has been sent since, `waits` the packets the peer
has asked to wait for, and `owed` the allowance to be returned once the link carries flits. `sizes` lists the packets sent, with
their flits, from the oldest that is not DONE on (R426). `sending` is the mask under which flits leave now, `txIndex` and `rxIndex` the
flits sent and received under the present masks (R420), `rxDark` the wavelengths whose light this receiver has lost (R423), `excluded`
those that may still return and `retrain` those of them that retrain, with the attempts that have failed in `tries` (R424), and `lol` the
losses of light whose event is not written yet, each with the LSEQ of the first flit sent behind it (R436). Of a relay, `far` has a bit for
each device whose link to it carries flits (R425). `reserved` is the room kept here for replies, by virtual function, in flits (R431).
`part` holds the flits of packets that are not whole, each with the link it came on (R429). `full` is the wavelengths of the link's fibres; fibre j of the link is TX fibre `txFib` j and RX fibre `rxFib` j, and bit j of `txLost` and `rxLost` says that
it has failed (R28, R415). `replay` holds the flits without an acknowledgement in LSEQ order; the first 4096 of them have been
sent. -/
structure Peer where
  link : LinkSt := .training
  full : BitVec 64 := 0
  tx : BitVec 64 := 0
  rx : BitVec 64 := 0
  sending : BitVec 64 := 0
  txIndex : Nat := 0
  rxIndex : Nat := 0
  rxDark : BitVec 64 := 0
  excluded : BitVec 64 := 0
  retrain : BitVec 64 := 0
  dead : BitVec 64 := 0
  tries : NMap Nat := []
  txLseq : BitVec 16 := 0
  rxLseq : BitVec 16 := 0
  replay : List Flit := []
  resends : Nat := 0
  nakSent : Bool := false
  attempts : Nat := 0
  txFib : List Nat := []
  rxFib : List Nat := []
  txLost : BitVec 4 := 0
  rxLost : BitVec 4 := 0
  reach : Reach := .direct
  far : BitVec 16 := 0xFFFF
  lol : List (BitVec 16) := []
  epoch : BitVec 4 := 0
  nextPseq : Nat := 0
  expPseq : Nat := 0
  out : List OutPkt := []
  sizes : List (Nat × Nat) := []
  part : List (Nat × Flit) := []
  held : List Packet := []
  given : Tbl Nat := []
  allow : NMap Nat := []
  reserved : NMap Nat := []
  bind : Tbl Nat := []
  gens : Tbl (BitVec 8) := []
  discards : Nat := 0
  gendisc : NMap Nat := []
  crcFails : Nat := 0
  striped : Bool := false
  waits : List Nat := []
  owed : NMap Nat := []
deriving DecidableEq, Repr

/-- A fabric channel at the target (spec/13_ordering.md R249): source device, virtual function, tag and generation, or
the halo class. `skip` is set behind a packet of an RCPY that ended FAULT: the address its next packet has, and the operation
of a packet of this device (spec/26_fabric_ops.md R446). -/
structure Channel where
  src : Nat
  halo : Bool
  vf : Nat
  tag : Nat
  gen : BitVec 8
  pkts : List Packet
  skip : Option (Nat × Option Nat) := none
deriving DecidableEq, Repr

/-- A remote access parked at this target (spec/17_page.md R330): the page it met, and whether that page forbade the access
rather than being without a frame. -/
structure Parked where
  chan : Nat
  pkt : Packet
  vf : Nat
  page : Nat
  forbid : Bool := false
deriving DecidableEq, Repr

/-- A contribution to a reduction round. -/
structure Contrib where
  src : Nat
  pkt : Packet
deriving DecidableEq, Repr

/-- A reduction round (spec/26_fabric_ops.md R450). -/
structure RedRound where
  vf : Nat
  ra : Nat
  round : Nat
  exp : Nat
  parts : List Contrib
deriving DecidableEq, Repr

/-! ## The device's own units -/

/-- A matrix pair as one context has it, under 160 x virtual function + pair (spec/20_matrix.md R359, R361,
spec/23_context.md R396, R401). Element (row, column) of tile t is keyed
(128 t + row) 128 + column. `settled` holds retired operations that no MWAIT has covered yet. -/
structure Pair where
  tiles : NMap Word := []
  queue : List MatOp := []
  settled : List MatOp := []
deriving DecidableEq, Repr

/-- The bring-up stages (spec/30_bringup.md R484). -/
inductive Stage where | reset | verify | remap | reduced | full | minimal
deriving DecidableEq, Repr

/-- Hearth: bring-up, firmware and identity (R484-R490). Images are byte strings. Bit d of `managed` is the configuration
of die d's slice: device-managed, else hypervised (spec/17_page.md R317). `shape` holds the partitions that Hearth is to write,
`parts` those in service, `trained` and `broken` the memory stacks that trained and that failed, and `bootLoaded` that the next
RESET boots the loaded image. `usable` counts the usable clusters of each die, and `remap` is the remap table: for each die the physical
clusters of its logical ones (spec/01_device.md R10, R11); it is empty until REMAP has written it. `failing` says that the start has failed
and that the restart is still to begin (R486). -/
structure Hearth where
  stage : Stage := .reset
  fails : Nat := 0
  reason : Nat := 0
  trained : List Nat := []
  broken : List Nat := []
  stored : List Byte := []
  loaded : Option (List Byte) := none
  bootLoaded : Bool := false
  running : List Byte := []
  fuseMin : Nat := 0
  keyHash : List Byte := []
  idpk : List Byte := []
  shape : List (BitVec 4) := [0b1111]
  parts : List (BitVec 4) := [0b1111]
  managed : BitVec 4 := 0
  usable : List Nat := [22, 22, 22, 22]
  remap : List (List Nat) := []
  failing : Bool := false
  attest : Option (List Byte) := none
deriving DecidableEq, Repr

/-- The clock of a die in MHz and whether a thermal trip holds the die in reset (R492). -/
structure Die where
  mhz : Nat := 4000
  held : Bool := false
deriving DecidableEq, Repr

/-- The states of a memory block (spec/23_context.md R400). -/
inductive BlockSt where | owned | removing | scrubbing | adding
deriving DecidableEq, Repr

/-- A 2 GiB memory block: the partition that owns it and the one that is to receive it, each by its slices, and the extent
generations that its shoot-down began in the contexts of its owner. -/
structure Block where
  st : BlockSt := .owned
  owner : BitVec 4 := 0
  tgt : BitVec 4 := 0
  gens : List (Nat × BitVec 16) := []
deriving DecidableEq, Repr

/-- A shared structure unit: its error counter (R406). Its ownership bitmap is Sys2Proof.Machine.unitOwners. -/
structure UnitRec where
  errors : Nat := 0
deriving DecidableEq, Repr

/-- A 128-byte line of a memory-side cache slice (spec/01_device.md R16): its number in memory, the virtual function that
allocated it, and whether memory still lacks what it holds. -/
structure Line where
  n : Nat
  vf : Nat
  dirty : Bool
deriving DecidableEq, Repr

/-- A packet of a die mesh (R25): the cluster that sent it, the destination vector of its head flit, and its flits. -/
structure MeshPkt where
  src : Nat
  dests : BitVec 20
  flits : Nat
deriving DecidableEq, Repr

/-- A mesh link of a die (R24): width 4 full, 2 half, 1 quarter; the width it is to have, the beats left of a handshake, the
flits sent of the packet at the head of its queue, and that queue. -/
structure MeshLink where
  width : Nat := 4
  want : Nat := 4
  beat : Nat := 0
  sent : Nat := 0
  queue : List MeshPkt := []
deriving DecidableEq, Repr

/-- A 128-byte packet of the crossbar (R21, R22): the virtual function it serves, the cluster, the line, and whether it writes. -/
structure XbarPkt where
  vf : Nat
  cluster : Nat
  line : Nat
  wr : Bool
deriving DecidableEq, Repr

/-- A crossbar channel (R21-R23): who holds the token, the packets queued with their senders, and those received, oldest first. -/
structure XbarChan where
  token : Nat := 0
  queued : List (Nat × XbarPkt) := []
  got : List (Nat × XbarPkt) := []
deriving DecidableEq, Repr

/-- An event record (spec/25_link.md R435). -/
structure EvRec where
  time : Nat
  code : Nat
  peer : Nat
  dir : Nat
  active : Nat
  vf : Nat
  mask : BitVec 64
  count : Nat
  lost : Nat
deriving DecidableEq, Repr

/-- The statuses of management commands; `blkadd` marks the notice of a memory block to a guest (spec/23_context.md R400). -/
inductive Status where
  | ok | notown | qbusy | qbadarg | qunbound | qfull | badpkt | badaddr | notpend | ctxbadarg | blkbusy | minimal
  | fwsig | refused | blkadd
deriving DecidableEq, Repr

/-- A reply to a management command: the mailbox, the status and the bytes returned. -/
structure Reply where
  box : Nat
  status : Status
  data : List Byte
deriving DecidableEq, Repr

/-- A management write that waits for page services (spec/03_formats.md R73); `todo` is the pages it has not looked at yet. -/
structure PendWrite where
  box : Nat
  vf : Nat
  va : Nat
  bytes : List Byte
  todo : List Nat := []
deriving DecidableEq, Repr

/-- A BIND that waits for page services (spec/15_queue.md R285, spec/17_page.md R316); `todo` is the pages it has not looked at
yet. -/
structure PendBind where
  box : Nat
  vf : Nat
  q : Nat
  base : Nat
  logcap : Nat
  prio : Nat
  todo : List Nat := []
deriving DecidableEq, Repr

/-! ## The state -/

/-- How far the step has come with the chain it issues: one word on its own, the checks of every word, or the effects
of every word. -/
inductive Phase where | direct | probe | commit
deriving DecidableEq, Repr

/-- What the checks of a word say: it may issue, it raises a fault, it waits (with what it fixed when the wait began),
it waits for a register (R14), it stalls (R123), or it waits before issue with an offer to a partner (R199). -/
inductive Gate where
  | ok
  | trap (cause : Nat) (arg : Word)
  | wait (data : List Nat)
  | pend
  | stall
  | offer (partner a : Nat)
deriving DecidableEq, Repr

/-- The chain being issued: its PC, the PC of the word in hand, the word's slot and its place among the instruction
words, the PC after the chain, and in the commit phase the wave as it stood before the chain (spec/03_formats.md R53). -/
structure ChainCtx where
  phase : Phase := .direct
  pc : Word := 0
  wordPc : Word := 0
  slot : Nat := 0
  ix : Nat := 0
  next : Word := 0
  verdict : Gate := .ok
  src : Option Wave := none
deriving DecidableEq, Repr

/-- A step of the machine that no event of the opcode table names: word `k` of those an operation has started to write reaches its
module, or the next word of an RCPY's packet is read; word `k` of the packet that a channel has next reaches its module; a team's next round begins, with the waits for HRECV gates that no other party can open left out of account or not, a team
ends, the FROZEN operations of a pair are QUEUED, a mesh link carries a flit, a wave begins to generate its plan, a memory block is
given to its new owner, a training attempt of a link fails that is not its third, a retraining of a wavelength does, the link
between a relay and a device begins or ceases to carry flits, or Hearth does what the present stage of the start has it do. -/
inductive OwnStep where
  | land (op k : Nat)
  | word (chan k : Nat)
  | round (t : Nat)
  | freeRound (t : Nat)
  | endTeam (t : Nat)
  | thaw (pair : Nat)
  | mesh (link : Nat)
  | plan (w : Nat)
  | added (block : Nat)
  | attempt (peer : Nat)
  | retry (peer wl : Nat)
  | far (relay dev : Nat) (up : Bool)
  | boot
deriving DecidableEq, Repr

/-- A turn of the agenda: a wave may issue, an event of the opcode table happens, or another of the machine's own steps is taken. -/
inductive Turn where
  | issue (w : Nat)
  | event (i : Instr)
  | own (x : OwnStep)
deriving DecidableEq, Repr

/-- Why a run stops. -/
inductive Fault where
  /-- Raised by the meaning of an instruction word when no wave is the issuing wave: the word has no wave to act on.
  Safe: no step of the machine issues a word without one. -/
  | noWave
deriving DecidableEq, Repr

/-- Why an instruction is turned away. -/
inductive Refusal where
  /-- Raised by Dispatch for an instruction that has no meaning yet. Safe: nothing is claimed of it. -/
  | notModelled (mnemonic : String)
deriving DecidableEq, Repr

/-- The device. `agenda`, `cur`, `chain`, `tick` and `serial` are the model's own fields: which enabled step comes
next, the wave and the chain being issued, the count of free values drawn, and the next unused object number. `txs` are the flits that the
device has put on its links, and `light` their beats: link, wavelength and bytes (spec/25_link.md R420). -/
structure State where
  dev : Nat
  devs : Nat
  hearth : Hearth
  dies : List Die
  ctxs : Tbl Ctx
  queues : Tbl Queue
  served : NMap Nat
  lastVf : NMap Nat
  kernels : Tbl Kernel
  teams : Tbl Team
  waves : Tbl Wave
  pairs : Tbl Pair
  ops : Tbl Op
  plans : Tbl Plan
  mem : NMap Byte
  peers : Tbl Peer
  channels : Tbl Channel
  rounds : Tbl RedRound
  parked : List Parked
  txs : List (Nat × Flit)
  light : List (Nat × Nat × List Byte)
  svc : List (Nat × SvcRec)
  evring : List EvRec
  evLost : Nat
  replies : List Reply
  pendWrites : List PendWrite
  pendBinds : List PendBind
  blocks : Tbl Block
  units : Tbl UnitRec
  slices : Tbl (List Line)
  mesh : Tbl MeshLink
  meshGot : Tbl (List MeshPkt)
  xbar : Tbl XbarChan
  dbgatt : Bool
  us : Nat
  cur : Option Nat
  chain : ChainCtx
  agenda : List Turn
  tick : Nat
  serial : Nat
deriving DecidableEq, Repr

/-- The fibres and the link of peer d on one of `devs` devices wired together (spec/01_device.md R27, spec/25_link.md R415,
R422): four fibres in the configuration of 8 devices, else two; the fibres of a device that a run of 9 to 15 does not have
are DARK. -/
def bootPeer (devs dev d : Nat) : Peer :=
  let k := if d < dev then d else d - 1
  let n := if devs ≤ 8 then 4 else 2
  let fib := (List.range n).map (fun j => n * k + j)
  { link := if d < devs then .training else .dark, full := BitVec.ofNat 64 (2 ^ (16 * n) - 1), txFib := fib, rxFib := fib }

/-- The links of a device as it boots. -/
def bootPeers (devs dev : Nat) : Tbl Peer :=
  ((List.range (if devs ≤ 8 then 8 else 16)).filter (fun d => d != dev)).map (fun d => (d, bootPeer devs dev d))

/-- The device right after power-on (spec/30_bringup.md R484): stage RESET, no context, kernel, team or wave; every
queue UNBOUND with its priority's pointer at 127 (spec/15_queue.md R284, R289); memory with nothing listed. The fields
without a reset value in the specification are those of notes/assumptions/4.md. -/
def State.reset : State where
  dev := 0
  devs := 8
  hearth := {}
  dies := [{}, {}, {}, {}]
  ctxs := []
  queues := []
  served := []
  lastVf := []
  kernels := []
  teams := []
  waves := []
  pairs := []
  ops := []
  plans := []
  mem := []
  peers := bootPeers 8 0
  channels := []
  rounds := []
  parked := []
  txs := []
  light := []
  svc := []
  evring := []
  evLost := 0
  replies := []
  pendWrites := []
  pendBinds := []
  blocks := []
  units := []
  slices := []
  mesh := []
  meshGot := []
  xbar := []
  dbgatt := false
  us := 0
  cur := none
  chain := {}
  agenda := []
  tick := 0
  serial := 0

/-- What an HBM byte that nothing has written reads as (notes/assumptions/3.md). -/
def memDefault : Byte := 0

/-- HBM is in its canonical form: addresses strictly rising, no entry equal to what an unlisted address reads as. -/
abbrev Memory.wf (m : NMap Byte) : Bool := NMap.wf memDefault m

end Sys2Proof.Machine
end

