-- ==== Sys2Proof/Machine/Ops.lean ====
section
/-! DEFINITION. The named operations over the state: registers, masks, memory and its translation, the lattice, barriers,
and taking and leaving an exception. -/
namespace Sys2Proof.Machine

/-! ## The launch packet's derived values (spec/16_kernel.md R296-R298, spec/06_cell.md R112) -/

/-- W, the wave's width. -/
def Header.lanes (h : Header) : Nat := 8 * 2 ^ (uv h.modew % 4)
/-- T, the temporal depth. -/
def Header.depth (h : Header) : Nat := 2 ^ (uv h.modew / 4 % 4)
/-- Deterministic mode. -/
def Header.det (h : Header) : Bool := h.modew.getLsbD 4
/-- Teams on leader cores only. -/
def Header.leader (h : Header) : Bool := h.modew.getLsbD 5
/-- Q, the words of a quantum. -/
def Header.quantum (h : Header) : Nat := uv h.modew / 64 % 65536 + 1
/-- The width of field Fi. -/
def Header.width (h : Header) (i : Nat) : Nat := h.widths.getD i 0
/-- The position of field Fi in a WID. -/
def Header.low (h : Header) (i : Nat) : Nat := (h.widths.take i).sum
/-- The value of field Fi in a WID. -/
def Header.field (h : Header) (wid i : Nat) : Nat := wid / 2 ^ h.low i % 2 ^ h.width i
/-- The WID lies on a device of the run with a number: the F5 value is the device (spec/16_kernel.md R307). -/
def Header.onDev (h : Header) (dev wid : Nat) : Bool := h.width 5 == 0 || h.field wid 5 == dev
/-- Cells of a wave. -/
def Header.cells (h : Header) : Nat := 2 ^ h.width 0
/-- Waves of a team. -/
def Header.waves (h : Header) : Nat := 2 ^ h.width 1
/-- Register Vv is published (R118). -/
def Header.isPub (h : Header) (v : Nat) : Bool := decide (v < 32) && h.publish.getLsbD v
/-- The published registers, ascending. -/
def Header.pubs (h : Header) : List Nat := (List.range 32).filter h.isPub

/-- The fields of an axis, low to high (R298). -/
def Header.axisFields (h : Header) (ax : Nat) : List Nat :=
  let a := uv (h.axes.getD ax 0)
  (List.range (a % 8)).map (fun i => a / 2 ^ (3 * i + 3) % 8)

/-- The end mode of an axis: 0 wrap, 1 zero, 2 clamp. -/
def Header.axisEnd (h : Header) (ax : Nat) (plus : Bool) : Nat :=
  uv (h.axes.getD ax 0) / 2 ^ (if plus then 23 else 21) % 4

/-- A coordinate from the fields of an axis (R114). -/
def Header.coordOf (h : Header) (wid : Nat) : List Nat → Nat
  | [] => 0
  | f :: fs => h.field wid f + 2 ^ h.width f * h.coordOf wid fs

/-- Replace a field of a WID. -/
def Header.setField (h : Header) (wid i x : Nat) : Nat :=
  wid - h.field wid i * 2 ^ h.low i + x % 2 ^ h.width i * 2 ^ h.low i

/-- Write a coordinate into the fields of an axis. -/
def Header.setCoord (h : Header) (wid c : Nat) : List Nat → Nat
  | [] => wid
  | f :: fs => h.setCoord (h.setField wid f c) (c / 2 ^ h.width f) fs

/-- The cell's coordinate on an axis. -/
def Header.coord (h : Header) (wid ax : Nat) : Nat := h.coordOf wid (h.axisFields ax)

/-- The length of an axis. -/
def Header.axisLen (h : Header) (ax : Nat) : Nat := 2 ^ ((h.axisFields ax).map h.width).sum

/-- What stands at distance one on an axis (R115). -/
inductive Neighbour where
  | cell (wid : Nat) | zero | clamp
deriving DecidableEq, Repr

/-- The neighbour of the cell with a WID. -/
def Header.neighbour (h : Header) (wid ax : Nat) (plus : Bool) : Neighbour :=
  let c := h.coord wid ax
  let l := h.axisLen ax
  let fs := h.axisFields ax
  if plus && decide (c + 1 < l) then .cell (h.setCoord wid (c + 1) fs)
  else if !plus && decide (0 < c) then .cell (h.setCoord wid (c - 1) fs)
  else match h.axisEnd ax plus with
    | 0 => .cell (h.setCoord wid (if plus then 0 else l - 1) fs)
    | 1 => .zero
    | _ => .clamp

/-! ## Access to the state's tables -/

def State.wave (s : State) (w : Nat) : Option Wave := Tbl.find s.waves w
def State.team (s : State) (t : Nat) : Option Team := Tbl.find s.teams t
def State.kern (s : State) (k : Nat) : Option Kernel := Tbl.find s.kernels k
def State.ctx (s : State) (vf : Nat) : Option Ctx := Tbl.find s.ctxs vf
def State.op (s : State) (o : Nat) : Option Op := Tbl.find s.ops o
def State.modWave (s : State) (w : Nat) (g : Wave → Wave) : State := { s with waves := Tbl.modify g s.waves w }
def State.modTeam (s : State) (t : Nat) (g : Team → Team) : State := { s with teams := Tbl.modify g s.teams t }
def State.modKern (s : State) (k : Nat) (g : Kernel → Kernel) : State := { s with kernels := Tbl.modify g s.kernels k }
def State.modCtx (s : State) (v : Nat) (g : Ctx → Ctx) : State := { s with ctxs := Tbl.modify g s.ctxs v }
def State.modOp (s : State) (o : Nat) (g : Op → Op) : State := { s with ops := Tbl.modify g s.ops o }
def State.modQueue (s : State) (q : Nat) (g : Queue → Queue) : State :=
  { s with queues := Tbl.put s.queues q (g ((Tbl.find s.queues q).getD {})) }
def State.queue (s : State) (q : Nat) : Queue := (Tbl.find s.queues q).getD {}

/-- The wave that issues, with its number. -/
def State.curWave (s : State) : Option (Nat × Wave) :=
  match s.cur with
  | none => none
  | some w => (s.wave w).map (fun wv => (w, wv))

/-- The launch packet of a kernel. -/
def State.hdr (s : State) (k : Nat) : Header := ((s.kern k).map (·.hdr)).getD {}
/-- The virtual function of a kernel. -/
def State.kernVf (s : State) (k : Nat) : Nat := ((s.kern k).map (·.vf)).getD 0
/-- A fresh object number. -/
def State.take (s : State) : Nat × State := (s.serial, { s with serial := s.serial + 1 })
/-- A free word, and the state that has drawn it (notes/assumptions/5.md). -/
def State.freeWord (s : State) : Word × State := (Config.freeWord s.tick, { s with tick := s.tick + 1 })

/-- The wave of a kernel with a logical index. -/
def State.waveAt (s : State) (k idx : Nat) : Option (Nat × Wave) :=
  Tbl.first? (fun _ (wv : Wave) => wv.kern == k && wv.idx == idx) s.waves

/-- The waves of a team, ascending. -/
def State.teamWaves (s : State) (t : Nat) : List (Nat × Wave) := s.waves.filter (fun p => p.2.team == t)

/-! ## Registers (spec/03_formats.md R67) -/

/-- The cells of a mask, ascending. -/
def cellsOf (m : Mask) : List Nat := (List.range 512).filter m.getLsbD
/-- The mask of the cells below n. -/
def lowMask (n : Nat) : Mask := BitVec.ofNat 512 (2 ^ n - 1)
/-- The mask of a list of cells. -/
def maskOf (fs : List Nat) : Mask := BitVec.ofNat 512 (fs.foldl (fun a f => a ||| 2 ^ f) 0)

def Wave.getV (w : Wave) (f n : Nat) : Word := NMap.get 0 w.v (64 * f + n)
def Wave.setV (w : Wave) (f n : Nat) (x : Word) : Wave := { w with v := NMap.set 0 w.v (64 * f + n) x }
def Wave.getV64 (w : Wave) (f n : Nat) : BitVec 64 := w.getV f (n + 1) ++ w.getV f n
def Wave.setV64 (w : Wave) (f n : Nat) (x : BitVec 64) : Wave :=
  (w.setV f n (x.extractLsb' 0 32)).setV f (n + 1) (x.extractLsb' 32 32)
def Wave.getS (w : Wave) (n : Nat) : Word := NMap.get 0 w.s n
def Wave.setS (w : Wave) (n : Nat) (x : Word) : Wave := { w with s := NMap.set 0 w.s n x }
def Wave.getS64 (w : Wave) (n : Nat) : BitVec 64 := w.getS (n + 1) ++ w.getS n
def Wave.setS64 (w : Wave) (n : Nat) (x : BitVec 64) : Wave :=
  (w.setS n (x.extractLsb' 0 32)).setS (n + 1) (x.extractLsb' 32 32)
/-- P7 reads true. -/
def Wave.getP (w : Wave) (f n : Nat) : Bool := if n = 7 then true else NMap.get false w.p (8 * f + n)
/-- Writes to P7 are discarded. -/
def Wave.setP (w : Wave) (f n : Nat) (b : Bool) : Wave :=
  if n = 7 then w else { w with p := NMap.set false w.p (8 * f + n) b }
/-- K7 reads true. -/
def Wave.getK (w : Wave) (n : Nat) : Bool := if n = 7 then true else NMap.get false w.k n
/-- Writes to K7 are discarded. -/
def Wave.setK (w : Wave) (n : Nat) (b : Bool) : Wave := if n = 7 then w else { w with k := NMap.set false w.k n b }
def Wave.getA (w : Wave) (n : Nat) : Word := NMap.get 0 w.a n
def Wave.setA (w : Wave) (n : Nat) (x : Word) : Wave := { w with a := NMap.set 0 w.a n x }
def Wave.getI (w : Wave) (n : Nat) : IncReg := NMap.get {} w.i n
def Wave.setI (w : Wave) (n : Nat) (x : IncReg) : Wave := { w with i := NMap.set {} w.i n x }
def Wave.getD (w : Wave) (n : Nat) : TileReg := NMap.get {} w.d n
def Wave.setD (w : Wave) (n : Nat) (x : TileReg) : Wave := { w with d := NMap.set {} w.d n x }
def Wave.getH (w : Wave) (n : Nat) : HandleReg := NMap.get {} w.h n
def Wave.setH (w : Wave) (n : Nat) (x : HandleReg) : Wave := { w with h := NMap.set {} w.h n x }
def Wave.getBank (w : Wave) (f n b : Nat) : Word := NMap.get 0 w.bank (64 * f + 2 * n + b)
def Wave.setBank (w : Wave) (f n b : Nat) (x : Word) : Wave := { w with bank := NMap.set 0 w.bank (64 * f + 2 * n + b) x }

/-- Write register Vn of every listed cell. -/
def Wave.setVs (w : Wave) (n : Nat) (g : Nat → Word) : List Nat → Wave
  | [] => w
  | f :: fs => (w.setV f n (g f)).setVs n g fs
/-- Write the pair Vn, Vn+1 of every listed cell. -/
def Wave.setV64s (w : Wave) (n : Nat) (g : Nat → BitVec 64) : List Nat → Wave
  | [] => w
  | f :: fs => (w.setV64 f n (g f)).setV64s n g fs
/-- Write predicate Pn of every listed cell. -/
def Wave.setPs (w : Wave) (n : Nat) (g : Nat → Bool) : List Nat → Wave
  | [] => w
  | f :: fs => (w.setP f n (g f)).setPs n g fs
/-- Write S registers from n up. -/
def Wave.setSs (w : Wave) (n : Nat) : List Word → Wave
  | [] => w
  | x :: xs => (w.setS n x).setSs (n + 1) xs

/-- Mark a cause in WCAUSE (R407). -/
def Wave.mark (w : Wave) (c : Nat) : Wave := { w with wcause := w.wcause ||| BitVec.ofNat 64 (2 ^ c) }

/-- The WID of a cell (R112). -/
def Wave.wid (w : Wave) (h : Header) (f : Nat) : Nat := w.idx * h.cells + f

/-! ## Bytes -/

/-- The bytes of a number, least significant first. -/
def bytesOf (n x : Nat) : List Byte := (List.range n).map (fun i => BitVec.ofNat 8 (x / 256 ^ i))
/-- The number of a byte string, least significant first. -/
def natOf : List Byte → Nat
  | [] => 0
  | b :: bs => uv b + 256 * natOf bs
/-- The number in n bytes from an offset. -/
def natAt (bs : List Byte) (o n : Nat) : Nat := natOf ((bs.drop o).take n)
/-- Read n bytes of a sparse map. -/
def readBytes (d : Byte) (m : NMap Byte) (a n : Nat) : List Byte := (List.range n).map (fun i => NMap.get d m (a + i))
/-- Write bytes of a sparse map. -/
def writeBytes (d : Byte) (m : NMap Byte) (a : Nat) : List Byte → NMap Byte
  | [] => m
  | b :: bs => writeBytes d (NMap.set d m a b) (a + 1) bs

/-- Bytes of a team's window: an unwritten byte reads 0 (spec/09_isa_memory.md R179). -/
def Team.read (t : Team) (a n : Nat) : List Byte := readBytes 0 t.win a n
def Team.write (t : Team) (a : Nat) (bs : List Byte) : Team := { t with win := writeBytes 0 t.win a bs }

/-- Bytes of HBM by physical address. -/
def State.hbm (s : State) (a n : Nat) : List Byte := readBytes memDefault s.mem a n
def State.setHbm (s : State) (a : Nat) (bs : List Byte) : State := { s with mem := writeBytes memDefault s.mem a bs }

/-- Put one element in its place among elements of rising keys. -/
def insertBy {α : Type} (key : α → Nat) (x : α) : List α → List α
  | [] => [x]
  | y :: ys => if key y ≤ key x then y :: insertBy key x ys else x :: y :: ys
/-- The elements of a list in the order of their keys, equal keys in their own order. -/
def sortBy {α : Type} (key : α → Nat) (xs : List α) : List α := xs.foldl (fun l x => insertBy key x l) []

/-! ## Translation (spec/17_page.md R312, R315, R316) -/

/-- What an access finds at a page: its physical address, a page that migrates, or a stage that fails. -/
inductive Walk where
  | ok (pa : Nat) | migrating | fails (stage : Nat)
deriving DecidableEq, Repr

/-- The table entry that maps a page: its own, or that of the large page it stands in. -/
def entryOf (t : Tbl TableEnt) (n : Nat) : Option TableEnt :=
  match Tbl.find t n with
  | some e => some e
  | none => (Tbl.find t (n - n % 32)).filter (·.large)

/-- The page that an entry maps page n to: a large page maps its 32 pages one by one. -/
def entPage (e : TableEnt) (n : Nat) : Nat := if e.large then uv e.tgt - uv e.tgt % 32 + n % 32 else uv e.tgt

/-- The entry permits an access: 1 reads, 2 writes, 3 does both. -/
def entAllows (e : TableEnt) (acc : Nat) : Bool := (acc % 2 == 0 || e.rd) && (acc / 2 % 2 == 0 || e.wr)

/-- The code of a single access: 1 reads, 2 writes. -/
def accOf (wr : Bool) : Nat := if wr then 2 else 1

/-- The intermediate page that a virtual page has. -/
def Ctx.ipn (c : Ctx) (n : Nat) : Option Nat := (entryOf c.stage1 n).map (fun e => entPage e n)

/-- The frame that both stages give a virtual page, whatever the access and the page's state. -/
def Ctx.frame (c : Ctx) (n : Nat) : Option Nat := (c.ipn n).bind (fun i => (entryOf c.stage2 i).map (fun g => entPage g i))

/-- What the two stages' tables alone give an access of a page: its frame, or the stage that has no entry or forbids it. -/
def Ctx.stages (c : Ctx) (n acc : Nat) : Except Nat Nat :=
  match entryOf c.stage1 n with
  | none => .error 1
  | some e =>
    if entAllows e acc then
      match entryOf c.stage2 (entPage e n) with
      | none => .error 2
      | some g => if entAllows g acc then .ok (entPage g (entPage e n)) else .error 2
    else .error 1

/-- The two stages for one address: a page that migrates holds an access back before anything can forbid it (R316). -/
def Ctx.walk (c : Ctx) (va : Nat) (wr : Bool) : Walk :=
  match ((Tbl.find c.pages (va / 65536)).getD {}).st, c.stages (va / 65536) (accOf wr) with
  | .migrating, _ => .migrating
  | _, .error st => .fails st
  | .resident, .ok f => .ok (f * 65536 + va % 65536)
  | _, .ok _ => .fails 2

/-- The address a mapped page stands at, whatever the access and the migration: what the schedulers, the fetch of code
and the hardware's own reads and writes of pinned ranges use. -/
def Ctx.phys (c : Ctx) (va : Nat) : Option Nat := (c.frame (va / 65536)).map (fun f => f * 65536 + va % 65536)

/-- Read bytes at virtual addresses; none where a byte has no frame. -/
def State.vread (s : State) (vf va : Nat) : Nat → Option (List Byte)
  | 0 => some []
  | n + 1 =>
    match (s.ctx vf).bind (fun c => c.phys va) with
    | none => none
    | some pa => (s.vread vf (va + 1) n).map (fun bs => NMap.get memDefault s.mem pa :: bs)

/-- Write bytes at virtual addresses; a byte without a frame is left out. -/
def State.vwrite (s : State) (vf va : Nat) : List Byte → State
  | [] => s
  | b :: bs =>
    match (s.ctx vf).bind (fun c => c.phys va) with
    | none => s.vwrite vf (va + 1) bs
    | some pa => State.vwrite (s.setHbm pa [b]) vf (va + 1) bs

/-- Two ranges share a byte. -/
def overlaps (a n b m : Nat) : Bool := decide (a < b + m) && decide (b < a + n)

/-- The kernel executes. -/
def KernelSt.runs : KernelSt → Bool
  | .dispatching => true
  | .running => true
  | _ => false

/-- A write to the range would reach a running code segment or a bound ring (R49, R286). -/
def State.guarded (s : State) (vf va n : Nat) : Bool :=
  s.kernels.any (fun k => k.2.vf == vf && k.2.st.runs && overlaps va n k.2.hdr.codebase (12 * k.2.hdr.codelen)) ||
  s.queues.any (fun q => q.2.st != .unbound && q.2.vf == vf && overlaps va n q.2.base (2048 * 2 ^ q.2.logcap))

/-! ## What a running plan makes of the writes of others (spec/28_swage.md R464, R467) -/

/-- Free bytes. -/
def freeBytes (tick : Nat) (n : Nat) : List Byte := (List.range n).map (fun i => Config.freeByte (tick + i))

/-- The address of a plan's area. -/
def planAddr (key : Nat) : Nat := key % 2 ^ 57

/-- The segments of a plan as its area holds them: they are read once, at the ACCEPT. -/
def readSegs (s : State) (vf pa nseg : Nat) : List PlanSeg :=
  (List.range nseg).map (fun j =>
    let b := (s.vread vf (pa + 0x1040 + 32 * j) 32).getD []
    ⟨⟨natAt b 0 8 % 2 ^ 57, natAt b 8 8 % 2 ^ 57, natAt b 16 4⟩, natAt b 20 1, natAt b 21 1⟩)

/-- An own segment of a plan: its addresses, its length and its target device. -/
def Plan.ownSeg (p : Plan) (k : Nat) : Move × Nat :=
  let g := p.segs.getD (p.firstown + k) ⟨⟨0, 0, 0⟩, 0, 0⟩
  (g.m, g.dst)

/-- The physical addresses of a virtual range. -/
def State.pasOf (s : State) (vf va n : Nat) : List Nat :=
  (List.range n).filterMap (fun i => (s.ctx vf).bind (fun c => c.phys (va + i)))

/-- What a write to physical addresses reaches of a plan on this device: the target bytes that it writes or that a source byte it
writes goes to, and the bytes of the plan's area; and the source bytes. -/
def Plan.hits (s : State) (key : Nat) (p : Plan) (pas : List Nat) : List Nat × List Nat :=
  let here (va : Nat) := (((s.ctx p.vf).bind (fun c => c.phys va)).map pas.contains).getD false
  let srcs (g : PlanSeg) := (List.range g.m.len).filter (fun i => g.src == s.dev && here (g.m.src + i))
  (p.segs.flatMap (fun g => if g.dst = s.dev then
      ((List.range g.m.len).filter (fun i => here (g.m.dst + i)) ++ srcs g).map (g.m.dst + ·) else []) ++
    ((List.range (0x1040 + 32 * p.nseg)).map (planAddr key + ·)).filter here,
   p.segs.flatMap (fun g => (srcs g).map (g.m.src + ·)))

/-- Bytes become free values one by one, but for those of a running code segment or a bound ring (spec/03_formats.md R49,
spec/15_queue.md R286). -/
def State.freeVas (s : State) (vf : Nat) (vas : List Nat) : State :=
  vas.foldl (fun s va =>
    if s.guarded vf va 1 then s else { s.vwrite vf va (freeBytes s.tick 1) with tick := s.tick + 1 }) s

/-- A write to physical addresses by others than a plan's own units, between its ACCEPT and DONE or STOPPED: the target bytes and the
bytes of its area that it reaches, and the target bytes that a source byte it reaches goes to, hold free values, and what the units
write there later does too; the plan itself goes on from the segments read at the ACCEPT (R467, spec/00_scope.md R5,
notes/assumptions/52.md). `own` is the plan whose units write. -/
def State.tamper (s : State) (own : Option Nat) (pas : List Nat) : State :=
  (s.plans.filter (fun p => (p.2.st == 2 || p.2.st == 3) && some p.1 != own)).foldl (fun s p =>
    let (ts, ss) := p.2.hits s p.1 pas
    if ts.isEmpty && ss.isEmpty then s
    else
      let s := s.freeVas p.2.vf ts
      { s with plans := Tbl.modify (fun p => { p with dirty := p.dirty ++ ss, spoiled := p.spoiled ++ ts }) s.plans p.1 }) s

/-- A write of others than Swage at virtual addresses. -/
def State.userWrite (s : State) (vf va : Nat) (bs : List Byte) : State := (s.vwrite vf va bs).tamper none (s.pasOf vf va bs.length)

/-- A write of the hardware's own, which leaves a running code segment and a bound ring alone as every other writer does
(spec/03_formats.md R49, spec/15_queue.md R286). -/
def State.hwWrite (s : State) (vf va : Nat) (bs : List Byte) : State :=
  if s.guarded vf va bs.length then s else s.userWrite vf va bs

/-- The units of a plan write bytes: those that others have spoiled stay free values (R467). -/
def State.unitWrite (s : State) (key : Nat) (va : Nat) (bs : List Byte) : State :=
  match Tbl.find s.plans key with
  | none => s
  | some p =>
    let out := if p.spoiled.isEmpty then bs
      else bs.zipIdx.map (fun b => if p.spoiled.contains (va + b.2) then Config.freeByte (s.tick + b.2) else b.1)
    State.tamper { s.vwrite p.vf va out with tick := if p.spoiled.isEmpty then s.tick else s.tick + bs.length } (some key)
      (s.pasOf p.vf va bs.length)

/-! ## Where a run stands (spec/06_cell.md R125, R128, R133, spec/11_group.md R218) -/

/-- The band of a team, and its die group, by logical team index. -/
def Header.band (h : Header) (t : Nat) : Nat := t / 2 ^ h.width 2
def Header.dieGroup (h : Header) (t : Nat) : Nat := h.band t / 2 ^ h.width 3

/-- The die of a cell of a run on this device, by its WID. -/
def Kernel.dieAt (k : Kernel) (wid : Nat) : Nat :=
  let h := k.hdr
  k.dies.getD (h.dieGroup (wid / (h.cells * h.waves)) % 2 ^ h.width 4) 0

/-- What the halo store and step table of a die hold of a remote wave. -/
def Kernel.haloOf (k : Kernel) (die idx : Nat) : Option HaloWave := (Tbl.find k.halo die).bind (fun t => Tbl.find t idx)

/-- The core of a wave. -/
def State.coreOf (s : State) (w : Wave) : Nat := ((s.team w.team).map (·.core)).getD 0
/-- The die of a wave. -/
def State.dieOf (s : State) (w : Wave) : Nat := s.coreOf w / 80

/-- Step counts compare by the signed difference (R125). -/
def stepAtLeast (a b : Word) : Bool := decide (0 ≤ sv (a - b))

/-- The waves of a context's teams that are evicted from a core and have not ended. -/
def evictedOn (s : State) (vf core : Nat) : List (Nat × Wave) :=
  s.waves.filter (fun p => p.2.st != .done && (match s.team p.2.team with
    | some t => t.vf == vf && t.st == .evicted && t.core == core
    | none => false))

/-- A wave stays HELD while an evicted team of its core has a wave below its step; the team is reloaded before the wave passes it,
also once the core has room for it (R133, R135). -/
def mustHold (s : State) (w : Wave) : Bool :=
  let core := s.coreOf w
  let vf := s.kernVf w.kern
  (evictedOn s vf core).any (fun p => stepAtLeast (w.step - 1) p.2.step)

/-- RELEASE of every HELD wave that nothing holds any more, and of those that the handler is to return to HELD. -/
def releaseHeld (s : State) : State :=
  { s with waves := Tbl.mapVals (fun _ w =>
      if (w.st == .held || w.heldBack) && !mustHold s w then
        { w with st := if w.st == .held then .ready else w.st, heldBack := false }
      else w) s.waves }

/-! ## Barriers (spec/12_barrier.md R236, R237) -/

def Team.bar (t : Team) (b : Nat) : Barrier := (Tbl.find t.bars b).getD {}
def Team.setBar (t : Team) (b : Nat) (x : Barrier) : Team := { t with bars := Tbl.put t.bars b x }

/-- PHASEDONE as often as the condition holds; `fuel` bounds the phases that credit can complete. -/
def Barrier.settle : Nat → Barrier → Barrier
  | 0, b => b
  | n + 1, b =>
    if b.st && b.am == b.mm && decide (uv b.e ≤ b.xa) && !(b.mm == 0 && b.e == 0) then
      Barrier.settle n { b with xa := b.xa - uv b.e, am := 0, ph := b.ph + 1 }
    else b

/-- Test the condition of R237. -/
def Barrier.eval (b : Barrier) : Barrier := Barrier.settle (b.xa + 2) b

/-! ## Ending a kernel (spec/16_kernel.md R303, spec/24_traps.md R413, spec/23_context.md R399) -/

/-- Write a kernel's report word. -/
def State.report (s : State) (k reason outcome : Nat) : State :=
  match s.kern k with
  | none => s
  | some kn =>
    if kn.hdr.report = 0 then s
    else s.hwWrite kn.vf kn.hdr.report (bytesOf 8 (uv kn.kid * 2 ^ 32 + reason * 16 + outcome))

/-- Take one pin off a page (R316). -/
def Ctx.unpin (c : Ctx) (p : Nat) : Ctx := { c with pages := Tbl.modify (fun g => { g with pins := g.pins - 1 }) c.pages p }

/-- Put one pin on a page. -/
def Ctx.pin (c : Ctx) (p : Nat) : Ctx :=
  { c with pages := Tbl.put c.pages p { (Tbl.find c.pages p).getD {} with pins := ((Tbl.find c.pages p).getD {}).pins + 1 } }

/-- Take every pin of a kernel off. -/
def State.unpinAll (s : State) (k : Nat) : State :=
  match s.kern k with
  | none => s
  | some kn =>
    (s.modCtx kn.vf (fun c => kn.pins.foldl Ctx.unpin c)).modKern k (fun x => { x with pins := [] })

/-! ## Swage plans that a halt or the end of a kernel reaches (spec/28_swage.md R462, R464, R468, R471) -/

/-- The 64 bytes of a plan's header. -/
def Plan.header (p : Plan) : List Byte :=
  bytesOf 1 p.st ++ bytesOf 1 p.cause ++ bytesOf 1 p.self ++ bytesOf 1 p.nsrc ++ bytesOf 4 p.nseg ++ bytesOf 4 p.firstown ++
  bytesOf 4 p.nown ++ bytesOf 4 p.cursor ++ bytesOf 4 p.faultseg ++ bytesOf 8 (uv p.donemask) ++ bytesOf 8 p.ownbytes ++
  bytesOf 4 p.ngrp ++ bytesOf 20 0

/-- The units write a plan's header to memory. -/
def State.saveHeader (s : State) (key : Nat) (p : Plan) : State :=
  if s.guarded p.vf (planAddr key) 64 then s else s.unitWrite key (planAddr key) p.header

/-- The generation of a plan is abandoned: ST is EMPTY and the rest of the area is free. -/
def State.dropPlan (s : State) (key : Nat) (p : Plan) : State :=
  let s := s.hwWrite p.vf (planAddr key) (0 :: freeBytes s.tick (p.size - 1))
  { s with plans := Tbl.del s.plans key, tick := s.tick + p.size }

/-- The plans that waves generate are abandoned, for the waves that satisfy a test. -/
def State.dropPlans (s : State) (f : Nat → Bool) : State :=
  (s.plans.filter (fun p => p.2.st == 6 && (p.2.wave.map f).getD false)).foldl (fun s p => s.dropPlan p.1 p.2) s

/-- The plans of a kernel that ends: one that runs or is paused is left STOPPED in memory. -/
def State.stopPlans (s : State) (k : Nat) : State :=
  let s := (s.plans.filter (fun p => p.2.st == 6 && p.2.kern == k)).foldl (fun s p => s.dropPlan p.1 p.2) s
  (s.plans.filter (fun p => (p.2.st == 2 || p.2.st == 3) && p.2.kern == k)).foldl (fun s p =>
    let q := { p.2 with st := 4 }
    State.saveHeader { s with plans := Tbl.put s.plans p.1 q } p.1 q) s

/-- Remove what a kernel holds: its teams and waves with their images and windows, its operations, its matrix
operations, the packets of its operations that were not sent, and its contributions to the rounds that stand here. Waves that only its evicted teams held back are released. -/
def State.dropKernel (s : State) (k : Nat) : State :=
  let s := s.stopPlans k
  let ts := (s.teams.filter (fun p => p.2.kern == k)).map (·.1)
  releaseHeld { s with
    waves := s.waves.filter (fun p => p.2.kern != k)
    teams := s.teams.filter (fun p => p.2.kern != k)
    ops := s.ops.filter (fun p => p.2.kern != k)
    pairs := Tbl.mapVals (fun _ p => { p with
      queue := p.queue.filter (fun o => !ts.contains o.team)
      settled := p.settled.filter (fun o => !ts.contains o.team) }) s.pairs
    peers := Tbl.mapVals (fun _ p => { p with out := p.out.filter (fun o => o.sent || o.pkt.kern != some k) }) s.peers
    channels := Tbl.mapVals (fun _ c => { c with pkts := c.pkts.filter (fun p => p.kern != some k) }) s.channels
    parked := s.parked.filter (fun p => p.pkt.kern != some k)
    rounds := (Tbl.mapVals (fun _ x => { x with parts := x.parts.filter (fun c => c.pkt.kern != some k) }) s.rounds).filter
      (fun r => !r.2.parts.isEmpty)
    cur := none }

/-- The tiles of a pair are zeroed once no team of the context is left on either of its cores and its queue holds no
operation (spec/20_matrix.md R361, spec/23_context.md R401). -/
def State.pairsIdle (s : State) : State :=
  { s with pairs := Tbl.mapVals (fun key p =>
      if p.queue.isEmpty && s.teams.all (fun t =>
          t.2.vf != key / 160 || t.2.core / 2 != key % 160 || !(t.2.st == .resident || t.2.st == .evicted)) then
        { p with tiles := [] }
      else p) s.pairs }

/-- The queues of a context stop dispatching (spec/15_queue.md R285). -/
def State.stopQueues (s : State) (vf : Nat) : State :=
  { s with queues := Tbl.mapVals (fun _ q => if q.vf == vf && q.st == .opened then { q with st := .stopped } else q) s.queues }

/-- The queues of a context dispatch again. -/
def State.startQueues (s : State) (vf : Nat) : State :=
  { s with queues := Tbl.mapVals (fun _ q => if q.vf == vf && q.st == .stopped then { q with st := .opened } else q) s.queues }

/-- BOUNDARY: a YIELDING context of which no kernel is TRANSLATING, DISPATCHING or RUNNING is PARKED
(spec/23_context.md R393). -/
def State.boundary (s : State) (vf : Nat) : State :=
  let yields := ((s.ctx vf).map (fun c => c.st == .yielding)).getD false
  if yields && s.kernels.all (fun k => k.2.vf != vf ||
      !(k.2.st == .translating || k.2.st == .dispatching || k.2.st == .running)) then
    (s.modCtx vf (fun c => { c with st := .parked })).stopQueues vf
  else s

/-- A kernel ends FAILED with a reason: it signals nothing and writes its report. -/
def State.failKernel (s : State) (k reason : Nat) : State :=
  let s := State.unpinAll (((s.report k reason 2).dropKernel k).pairsIdle.modKern k
    (fun x => { x with st := .failed, reason := reason, runs := [], halo := [] })) k
  s.boundary (s.kernVf k)

/-! ## Matrix operations of a halted team (spec/20_matrix.md R360, R378) -/

/-- The pair of a team's core, as its context has it. -/
def Team.pair (t : Team) : Nat := 160 * t.vf + t.core / 2

/-- HALT: the team's operations that have not started leave the queue and are FROZEN. -/
def State.freeze (s : State) (t : Nat) : State :=
  match s.team t with
  | none => s
  | some tm =>
    let mine (o : MatOp) := o.team == t && !o.started
    let out := ((Tbl.find s.pairs tm.pair).getD {}).queue.filter mine
    { s with
      pairs := Tbl.modify (fun p => { p with queue := p.queue.filter (fun o => !mine o) }) s.pairs tm.pair
      teams := Tbl.modify (fun x => { x with frozen := x.frozen ++ out }) s.teams t }

/-- A halt holds the team. -/
def Team.halted (t : Team) : Bool := t.haltF || t.haltD || t.haltP

/-- The FROZEN operations of a pair whose teams no halt holds, in the order of their issue. -/
def State.thawing (s : State) (key : Nat) : List MatOp :=
  sortBy (·.id) (s.teams.flatMap (fun t => if t.2.pair == key && !t.2.halted then t.2.frozen else []))

/-- They are QUEUED again as far as the queue of eight has room; the others wait for an entry, ahead of what is issued later. -/
def State.thawPair (s : State) (key : Nat) : State :=
  let p := (Tbl.find s.pairs key).getD {}
  let ops := (s.thawing key).take (8 - p.queue.length)
  if ops.isEmpty then s
  else
    { s with
      pairs := Tbl.put s.pairs key { p with queue := p.queue ++ ops }
      teams := Tbl.mapVals (fun _ t => { t with frozen := t.frozen.filter (fun o => ops.all (fun x => x.id != o.id)) }) s.teams }

/-- RESUME of teams: what no halt holds any more is QUEUED again. -/
def thawAll (ts : List Nat) (s : State) : State :=
  ts.foldl (fun s t => match s.team t with
    | some tm => s.thawPair tm.pair
    | none => s) s

/-! ## Taking an exception (spec/24_traps.md R408-R413) -/

/-- HANDLER of a wave's context. -/
def State.handler (s : State) (w : Wave) : Word := ((s.ctx (s.kernVf w.kern)).map (·.handler)).getD 0xFFFFFFFF

/-- Escalate(w, p, a): the escalation record is written and the kernel ends FAILED with reason FAULTED. -/
def escalate (w : Nat) (p a : Word) (s : State) : State :=
  match s.wave w with
  | none => s
  | some wv =>
    let h := s.hdr wv.kern
    let rec_ : EscRec := {
      kid := ((s.kern wv.kern).map (·.kid)).getD 0, pc := p, wid := BitVec.ofNat 64 (wv.wid h 0),
      cause := wv.wcause, arg := a, hm := wv.hmode }
    (s.modCtx (s.kernVf wv.kern) (fun c => { c with esc := rec_ })).failKernel wv.kern 6

/-- What a sibling does when HALT is broadcast: it may issue skid chains in throughput mode when it is READY in a team that runs. -/
def Wave.haltSibling (det runs : Bool) (wv : Wave) : Wave :=
  if wv.hmode then wv
  else { wv with
    skid := 0, skidLeft := if !det && runs && wv.st == .ready then 4 else 0, qended := det || wv.qended, view := none
    hold := wv.hold.map (fun h => { h with pkt := [] }) }

/-- Broadcast HALT to a wave's team, unless it is already halted. -/
def broadcastHalt (w : Nat) (wv : Wave) (s : State) : State :=
  match s.team wv.team with
  | none => s
  | some t =>
    if t.haltF then s
    else
      let h := s.hdr wv.kern
      let s := s.modTeam wv.team (fun t => { t with haltF := true, turn := if h.det then max t.turn h.waves else t.turn })
      let s := s.dropPlans (fun n => ((s.wave n).map (fun x => x.team == wv.team && !x.hmode)).getD false)
      let s := s.freeze wv.team
      { s with waves := Tbl.mapVals (fun j x =>
          if x.team == wv.team && j != w then x.haltSibling (s.hdr wv.kern).det (t.st == .resident && !t.haltD && !t.haltP) else x) s.waves }

/-- Exchange S28 to S31 and K5 with the shadow set. -/
def Wave.swapShadow (w : Wave) : Wave :=
  { w with
    s := [28, 29, 30, 31].foldl (fun m n => NMap.set 0 m n (NMap.get 0 w.shadow n)) w.s
    shadow := [28, 29, 30, 31].foldl (fun m n => NMap.set 0 m n (NMap.get 0 w.s n)) w.shadow
    k := NMap.set false w.k 5 w.shadowK
    shadowK := NMap.get false w.k 5 }

/-- The wave as it enters the handler. An exchange that the partner has completed is kept for the program's XCHG. -/
def Wave.enter (handler p : Word) (a : Word) (m : BitVec 3) (w : Wave) : Wave :=
  { w.swapShadow with
    trappc := p, resume := m, skid := 0, traparg := a, savedActive := w.active, active := w.live
    entryMS := w.ms.length, entryCS := w.cs.length, hmode := true, pc := handler
    st := if w.st == .evicted then .evicted else .ready, heldBack := w.st == .held
    hold := none, redo := 0, skidLeft := 0, qended := true, view := none
    savedOffer := w.offer.filter (fun o => o.got.isSome), offer := none }

/-- Deliver(w, i, a, p, m): the one operation by which a cause reaches a wave. A sticky cause only sets its bit. With no
handler, or in the handler, the fault escalates; otherwise the team halts and the wave enters the handler. -/
def deliver (w i : Nat) (a p : Word) (m : BitVec 3) (s : State) : State :=
  match s.wave w with
  | none => s
  | some wv =>
    let s := s.modWave w (·.mark i)
    if 48 ≤ i then s
    else if wv.hmode || s.handler wv == 0xFFFFFFFF then escalate w p a s
    else ((broadcastHalt w wv s).dropPlans (fun n => n == w)).modWave w (·.enter (s.handler wv) p a m)

/-- The resume mask of a fault of the chain being issued: 000 (R55). DEDUCED: where the chain's other words have completed and the word
that waited fails its checks as its wait ends, the mask marks that word alone (spec/03_formats.md R495, notes/assumptions/103.md). -/
def Wave.faultMask (w : Wave) : BitVec 3 :=
  match w.hold with
  | some h => if h.src.isSome then BitVec.ofNat 3 (2 ^ h.idx) else 0
  | none => 0

/-- A fault of the chain being issued: p is the chain's PC (R55). -/
def takeFault (cause : Nat) (arg : Word) (s : State) : State :=
  match s.cur with
  | none => s
  | some w => deliver w cause arg s.chain.pc (((s.wave w).map (·.faultMask)).getD 0) s

/-- The team resumes when no wave of it is in the handler (R409, R215). -/
def resumeTeam (t : Nat) (s : State) : State :=
  if (s.teamWaves t).any (fun p => p.2.hmode) then s
  else
    let s := thawAll [t] (s.modTeam t (fun t => { t with haltF := false }))
    { s with waves := Tbl.mapVals (fun _ x => if x.team == t then { x with skidLeft := 0, age := 0 } else x) s.waves }

/-- What TRET restores as it leaves handler mode (R412): the active mask, the shadow set, HMODE, and the PC it goes
on at with the words of the recorded chain that are issued again. A wave that was HELD is HELD again unless it has been released
meanwhile (spec/06_cell.md R117). -/
def Wave.leave (pc : Word) (redo : BitVec 3) (w : Wave) : Wave :=
  { w.swapShadow with
    active := w.savedActive &&& w.live, hmode := false, pc := pc, redo := redo, hold := none
    st := if w.heldBack then .held else .ready, heldBack := false
    offer := w.savedOffer, savedOffer := none }

/-! ## Handle sequencers (spec/13_ordering.md R249, R250) -/

def Wave.seqAt (w : Wave) (q : Nat) : Seq := (Tbl.find w.seqs q).getD {}

/-- Append an entry at the tail of a sequencer, with the wave's next entry number. -/
def Wave.append (w : Wave) (q : Nat) (k : EntryKind) : Wave :=
  { w with seqs := Tbl.put w.seqs q { w.seqAt q with entries := (w.seqAt q).entries ++ [⟨w.nextId, k, .queued⟩] },
           nextId := w.nextId + 1 }

/-- The sequencer is named, or detached and not yet empty (R271). -/
def Seq.live (q : Seq) : Bool := q.named || !q.entries.isEmpty

/-- One entry that stands at the tail of every sequencer (R260). -/
def Wave.appendAll (w : Wave) (k : EntryKind) : Wave :=
  { w with seqs := Tbl.mapVals (fun _ q =>
             if q.live then { q with entries := q.entries ++ [⟨w.nextId, k, .queued⟩] } else q) w.seqs,
           nextId := w.nextId + 1 }

/-- Handle n names a sequencer (R270). -/
def Wave.isOpen (w : Wave) (n : Nat) : Bool := (w.getH n).st != .retired

/-- Mark registers as pending under an entry (R14). -/
def Wave.addPend (w : Wave) (rs : List RegRef) (id : Nat) : Wave := { w with pend := w.pend ++ rs.map (fun r => (r, id)) }

/-- The entry's registers are complete. -/
def Wave.clearPend (w : Wave) (id : Nat) : Wave := { w with pend := w.pend.filter (fun p => p.2 != id) }

end Sys2Proof.Machine
end

