-- ==== Sys2Proof/Machine/Net.lean ====
section
/-! DEFINITION. The package's own networks: where clusters stand, the memory-side cache slices and their lines, the photonic
crossbar, and the die meshes with their links (spec/01_device.md R11, R16, R17, R21-R25). -/
namespace Sys2Proof.Machine

/-! ## Numbering (R11) -/

/-- The cluster of a core. -/
def clusterOf (core : Nat) : Nat := core / 4
/-- The local index of a cluster on its die. -/
def localIndex (c : Nat) : Nat := c % 20
/-- The mesh column of a local index. -/
def meshCol (j : Nat) : Nat := j % 5
/-- The mesh row of a local index. -/
def meshRow (j : Nat) : Nat := j / 5

/-! ## Memory-side cache slices (R16, R17) -/

/-- The slice of a physical address: 256-byte granules rotate over the eight slices of its stack (R17). PRESUMED: an address stands in block
PA div 2 GiB, and block b in stack b div 24; the specification gives no map (notes/assumptions/117.md). -/
def sliceOf (pa : Nat) : Nat := 8 * (pa / 2 ^ 31 / 24) + pa / 256 % 8

/-- The lines of a slice of 8 MiB. -/
def sliceLines : Nat := 65536

/-- A slice that has served an access of a line: the line comes to the front, and beyond its 8 MiB the slice loses the line that
it used least recently (notes/assumptions/92.md). -/
def useLine (vf : Nat) (wr : Bool) (n : Nat) (ls : List Line) : List Line :=
  let l := (ls.find? (fun l => l.n == n)).getD ⟨n, vf, false⟩
  ({ l with dirty := l.dirty || wr } :: ls.filter (fun l => l.n != n)).take sliceLines

/-- An engine's access of a line. -/
def State.useLine (s : State) (vf : Nat) (wr : Bool) (n : Nat) : State :=
  let k := sliceOf (128 * n)
  { s with slices := Tbl.put s.slices k (Machine.useLine vf wr n ((Tbl.find s.slices k).getD [])) }

/-- The lines of a virtual range that have a frame. -/
def State.linesAt (s : State) (vf va n : Nat) : List Nat :=
  if n = 0 then [] else
    (List.range ((va + n - 1) / 128 - va / 128 + 1)).filterMap (fun i =>
      ((s.ctx vf).bind (fun c => c.phys (128 * (va / 128 + i)))).map (· / 128))

/-- An engine's access of a virtual range. -/
def State.useRange (s : State) (vf : Nat) (wr : Bool) (va n : Nat) : State :=
  (s.linesAt vf va n).foldl (fun s l => s.useLine vf wr l) s

/-- The lines that satisfy a test are invalidated. -/
def State.dropLines (s : State) (f : Line → Bool) : State :=
  { s with slices := Tbl.mapVals (fun _ ls => ls.filter (fun l => !f l)) s.slices }

/-! ## The crossbar (R21-R23) -/

def State.chan (s : State) (k : Nat) : XbarChan := (Tbl.find s.xbar k).getD {}

/-- A sender queues a packet for a channel: 0 to 63 are the home channels of the slices, 64 to 143 the reply channels of the
clusters. -/
def State.queueXbar (s : State) (k sender : Nat) (p : XbarPkt) : State :=
  { s with xbar := Tbl.put s.xbar k { s.chan k with queued := (s.chan k).queued ++ [(sender, p)] } }

/-- A cluster asks the slices for the lines of a virtual range: a packet to each line's home channel (notes/assumptions/93.md). -/
def State.askLines (s : State) (vf cluster : Nat) (wr : Bool) (va n : Nat) : State :=
  (s.linesAt vf va n).foldl (fun s l => s.queueXbar (sliceOf (128 * l)) cluster ⟨vf, cluster, l, wr⟩) s

/-- The packets of a token hold: at most four of the holder's, in the order in which it queued them. -/
def XbarChan.sends (c : XbarChan) : List (Nat × XbarPkt) := (c.queued.filter (fun x => x.1 == c.token)).take 4

/-- A hold of the token among n senders: the holder's packets are received behind those received before, and the token passes to
the next sender in ascending order. -/
def XbarChan.hold (n : Nat) (c : XbarChan) : XbarChan where
  token := (c.token + 1) % n
  queued := c.queued.filter (fun x => x.1 != c.token) ++ (c.queued.filter (fun x => x.1 == c.token)).drop 4
  got := c.got ++ c.sends

/-- A token hold of a channel. What reads reach a slice it answers on the reply channel of the cluster that sent it. -/
def crossbarToken (k : Nat) (s : State) : State :=
  let c := s.chan k
  if 144 ≤ k then s
  else
    let s := { s with xbar := Tbl.put s.xbar k (c.hold (if k < 64 then 80 else 64)) }
    if k < 64 then
      (c.sends.filter (fun x => !x.2.wr)).foldl (fun s x => s.queueXbar (64 + x.2.cluster) k x.2) s
    else s

/-! ## The die meshes (R24, R25) -/

/-- The port by which router j sends a packet for cluster k, first along the row and then along the column: 0 to the next column,
1 to the one before, 2 to the next row, 3 to the one before; none at its destination. -/
def meshPort (j k : Nat) : Option Nat :=
  if meshCol j < meshCol k then some 0
  else if meshCol k < meshCol j then some 1
  else if meshRow j < meshRow k then some 2
  else if meshRow k < meshRow j then some 3
  else none

/-- The router behind a port. -/
def meshBehind (j port : Nat) : Nat :=
  match port with
  | 0 => j + 1
  | 1 => j - 1
  | 2 => j + 5
  | _ => j - 5

/-- The router has a port: it stands inside the 5 × 4 mesh. -/
def meshHas (j port : Nat) : Bool :=
  match port with
  | 0 => decide (meshCol j < 4)
  | 1 => decide (0 < meshCol j)
  | 2 => decide (meshRow j < 3)
  | _ => decide (0 < meshRow j)

/-- The bits of a destination vector that router j reaches through a port. -/
def meshBits (j : Nat) (v : BitVec 20) (port : Nat) : BitVec 20 :=
  BitVec.ofNat 20 (((List.range 20).filter (fun k => v.getLsbD k && meshPort j k == some port)).foldl (fun m k => m ||| 2 ^ k) 0)

/-- The copies that leave router j, with the port of each. -/
def meshCopies (j : Nat) (p : MeshPkt) : List (Nat × MeshPkt) :=
  ((List.range 4).map (fun port => (port, { p with dests := meshBits j p.dests port }))).filter (fun x => x.2.dests != 0)

def State.meshLink (s : State) (l : Nat) : MeshLink := (Tbl.find s.mesh l).getD {}
def State.modMesh (s : State) (l : Nat) (g : MeshLink → MeshLink) : State := { s with mesh := Tbl.put s.mesh l (g (s.meshLink l)) }

/-- The link of a port: 80 x die + 4 x local index + port. -/
def linkAt (die j port : Nat) : Nat := 80 * die + 4 * j + port

/-- The link stands in a mesh. -/
def linkExists (l : Nat) : Bool := decide (l < 320) && meshHas (l / 4 % 20) (l % 4)

/-- A packet at router j of a die: delivered to the local cluster if its bit is set, and copied onto every port that leads to a
remaining bit. -/
def routeAt (die j : Nat) (p : MeshPkt) (s : State) : State :=
  let c := 20 * die + j
  let s := if p.dests.getLsbD j then { s with meshGot := Tbl.put s.meshGot c ((Tbl.find s.meshGot c).getD [] ++ [p]) } else s
  (meshCopies j p).foldl (fun s x => s.modMesh (linkAt die j x.1) (fun l => { l with queue := l.queue ++ [x.2] })) s

/-- Flits at the input of a link. -/
def MeshLink.waiting (l : MeshLink) : Nat := (l.queue.map (·.flits)).sum - l.sent

/-- A mesh link goes on: a beat of its handshake; the start of one, of four beats, at a packet boundary; or a flit, the last of
which brings its packet to the next router. -/
def meshStep (l : Nat) (s : State) : Option State :=
  let m := s.meshLink l
  if 0 < m.beat then
    some (s.modMesh l (fun m => { m with beat := m.beat - 1, width := if m.beat = 1 then m.want else m.width }))
  else if m.want ≠ m.width ∧ m.sent = 0 then some (s.modMesh l (fun m => { m with beat := 4 }))
  else match m.queue with
    | [] => none
    | p :: ps =>
      if m.sent + 1 < p.flits then some (s.modMesh l (fun m => { m with sent := m.sent + 1 }))
      else some (routeAt (l / 80) (meshBehind (l / 4 % 20) (l % 4)) p (s.modMesh l (fun m => { m with sent := 0, queue := ps })))

/-- A link is to lose a width step; at quarter width it has none to lose. -/
def widthDrop (l : Nat) (s : State) : State :=
  if linkExists l && (s.meshLink l).beat == 0 then
    s.modMesh l (fun m => { m with want := if m.width = 4 then 2 else 1 })
  else s

/-- A link with four or more flits at its input is to return to full width. -/
def widthReturn (l : Nat) (s : State) : State :=
  if linkExists l && (s.meshLink l).beat == 0 && decide (4 ≤ (s.meshLink l).waiting) then
    s.modMesh l (fun m => { m with want := 4 })
  else s

/-- A cluster sends words to another cluster of its die: a head flit and 32 bytes a flit (notes/assumptions/94.md). -/
def State.sendMesh (s : State) (a b words : Nat) : State :=
  if a = b ∨ a / 20 ≠ b / 20 then s
  else routeAt (a / 20) (localIndex a) ⟨a, BitVec.ofNat 20 (2 ^ localIndex b), 1 + (words + 7) / 8⟩ s

end Sys2Proof.Machine
end

