-- ==== Sys2Proof/Machine/Number.lean ====
section
/-! DEFINITION. Numbers to the last bit (spec/05_numbers.md): the IEEE formats with one exact rounding, the block
formats, the drain formats and the generator. A finite value is a sign, a natural magnitude and a power of two, so sums
and products are exact until they are rounded. -/
namespace Sys2Proof.Machine

/-- A binary format: exponent bits and fraction bits (R84). -/
structure Fmt where
  eb : Nat
  mb : Nat
deriving DecidableEq, Repr

/-- FP64. -/
def f64 : Fmt := ⟨11, 52⟩
/-- FP32. -/
def f32 : Fmt := ⟨8, 23⟩
/-- FP16. -/
def f16 : Fmt := ⟨5, 10⟩
/-- BF16. -/
def bf16 : Fmt := ⟨8, 7⟩

/-- The exponent bias. -/
def Fmt.bias (F : Fmt) : Nat := 2 ^ (F.eb - 1) - 1
/-- The place of the sign bit. -/
def Fmt.signPos (F : Fmt) : Nat := F.eb + F.mb
/-- The bits of +infinity. -/
def Fmt.infBits (F : Fmt) : Nat := (2 ^ F.eb - 1) * 2 ^ F.mb
/-- The canonical NaN (R88). -/
def Fmt.canon (F : Fmt) : Nat := F.infBits + 2 ^ (F.mb - 1)

/-- A decoded value: NaN, an infinity, or the exact (−1)^neg × m × 2^e. -/
inductive FVal where
  | nan
  | inf (neg : Bool)
  | fin (neg : Bool) (m : Nat) (e : Int)
deriving DecidableEq, Repr

/-- The value of a bit pattern (R84, R86: subnormals are kept). -/
def Fmt.decode (F : Fmt) (b : Nat) : FVal :=
  let neg := b.testBit F.signPos
  let ex := b / 2 ^ F.mb % 2 ^ F.eb
  let fr := b % 2 ^ F.mb
  if ex = 2 ^ F.eb - 1 then (if fr = 0 then .inf neg else .nan)
  else if ex = 0 then .fin neg fr (1 - (F.bias : Int) - F.mb)
  else .fin neg (2 ^ F.mb + fr) ((ex : Int) - F.bias - F.mb)

/-- The numerator and denominator of m × 2^e. -/
def ratOf (m : Nat) (e : Int) : Nat × Nat :=
  match e with
  | .ofNat k => (m * 2 ^ k, 1)
  | .negSucc k => (m, 2 ^ (k + 1))

/-- The greatest k with 2^k ≤ n / d, for positive n and d. -/
def ratLog2 (n d : Nat) : Int :=
  let k : Int := (n.log2 : Int) - d.log2
  let (a, b) := match k with
    | .ofNat j => (n, d * 2 ^ j)
    | .negSucc j => (n * 2 ^ (j + 1), d)
  if a ≥ b then k else k - 1

/-- n / d rounded to an integer in a mode, for a magnitude of the given sign (R87). -/
def roundQuot (m : Rnd) (neg : Bool) (n d : Nat) : Nat :=
  let q := n / d
  let r := n % d
  match m with
  | .rz => q
  | .rp => if r ≠ 0 && !neg then q + 1 else q
  | .rm => if r ≠ 0 && neg then q + 1 else q
  | .rn => if 2 * r > d || (2 * r = d && q % 2 = 1) then q + 1 else q

/-- The sign bit. -/
def Fmt.signBits (F : Fmt) (neg : Bool) : Nat := if neg then 2 ^ F.signPos else 0

/-- Round(x, F, m) of an exact rational magnitude n / d (R87), with the overflow results of R87. -/
def Fmt.roundRat (F : Fmt) (m : Rnd) (neg : Bool) (n d : Nat) : Nat :=
  if n = 0 then F.signBits neg else
  let qmin : Int := 1 - (F.bias : Int) - F.mb
  let q : Int := max (ratLog2 n d - F.mb) qmin
  let r := match q with
    | .ofNat k => roundQuot m neg n (d * 2 ^ k)
    | .negSucc k => roundQuot m neg (n * 2 ^ (k + 1)) d
  let bits := (q - qmin).toNat * 2 ^ F.mb + r
  F.signBits neg +
    (if bits < F.infBits then bits
     else match m with
       | .rn => F.infBits
       | .rz => F.infBits - 1
       | .rp => if neg then F.infBits - 1 else F.infBits
       | .rm => if neg then F.infBits else F.infBits - 1)

/-- Round of a decoded value: NaN becomes the canonical NaN (R88). -/
def Fmt.round (F : Fmt) (m : Rnd) : FVal → Nat
  | .nan => F.canon
  | .inf neg => F.signBits neg + F.infBits
  | .fin neg a e => let (n, d) := ratOf a e; F.roundRat m neg n d

/-- RoundNE(x, F). -/
def Fmt.roundNE (F : Fmt) (x : FVal) : Nat := F.round .rn x

/-- −x. -/
def FVal.neg : FVal → FVal
  | .nan => .nan
  | .inf s => .inf (!s)
  | .fin s m e => .fin (!s) m e

/-- The signed integer of a finite value over the common exponent `e0`. -/
def scaled (s : Bool) (m : Nat) (e e0 : Int) : Int :=
  let a : Int := (m * 2 ^ (e - e0).toNat : Nat)
  if s then -a else a

/-- The exact sum. An exact zero takes the sign of round-to-nearest (R164): −0 only from two −0s. -/
def FVal.add : FVal → FVal → FVal
  | .nan, _ => .nan
  | _, .nan => .nan
  | .inf s, .inf t => if s = t then .inf s else .nan
  | .inf s, _ => .inf s
  | _, .inf t => .inf t
  | .fin s m e, .fin t n f =>
    let e0 := min e f
    let x := scaled s m e e0 + scaled t n f e0
    if x = 0 then .fin (s && t && m = 0 && n = 0) 0 e0
    else .fin (decide (x < 0)) x.natAbs e0

/-- The exact product; infinity times zero is NaN. -/
def FVal.mul : FVal → FVal → FVal
  | .nan, _ => .nan
  | _, .nan => .nan
  | .inf s, .inf t => .inf (s != t)
  | .inf s, .fin t n _ => if n = 0 then .nan else .inf (s != t)
  | .fin s m _, .inf t => if m = 0 then .nan else .inf (s != t)
  | .fin s m e, .fin t n f => .fin (s != t) (m * n) (e + f)

/-- Whether the value is NaN. -/
def FVal.isNan : FVal → Bool
  | .nan => true
  | _ => false

/-- The order of two numbers: less, equal (−0 = +0), greater; none when unordered (R166). -/
def FVal.cmp : FVal → FVal → Option Ordering
  | .nan, _ => none
  | _, .nan => none
  | .inf s, .inf t => some (if s = t then .eq else if s then .lt else .gt)
  | .inf s, _ => some (if s then .lt else .gt)
  | _, .inf t => some (if t then .gt else .lt)
  | .fin s m e, .fin t n f =>
    let e0 := min e f
    some (compare (scaled s m e e0) (scaled t n f e0))

/-- a + b in a format (R164, R169, R170). -/
def Fmt.add (F : Fmt) (a b : Nat) : Nat := F.roundNE ((F.decode a).add (F.decode b))
/-- a − b. -/
def Fmt.sub (F : Fmt) (a b : Nat) : Nat := F.roundNE ((F.decode a).add (F.decode b).neg)
/-- a × b. -/
def Fmt.mul (F : Fmt) (a b : Nat) : Nat := F.roundNE ((F.decode a).mul (F.decode b))
/-- a × b + c with one rounding. -/
def Fmt.fma (F : Fmt) (a b c : Nat) : Nat := F.roundNE (((F.decode a).mul (F.decode b)).add (F.decode c))

/-- minimumNumber and maximumNumber of FP32 (R165): the result is one operand's bits, or the canonical NaN. -/
def fminmax (mx : Bool) (a b : Word) : Word :=
  let x := f32.decode a.toNat
  let y := f32.decode b.toNat
  match x.cmp y with
  | none => if x.isNan then (if y.isNan then BitVec.ofNat 32 f32.canon else b) else a
  | some .lt => if mx then b else a
  | some .gt => if mx then a else b
  | some .eq => if mx then a &&& b else a ||| b

/-- FCMP's relations (R166). -/
def fcmp (c : FCond) (a b : Word) : Bool :=
  let o := (f32.decode a.toNat).cmp (f32.decode b.toNat)
  match c with
  | .eq => o == some .eq
  | .ne => o != some .eq
  | .lt => o == some .lt
  | .le => o == some .lt || o == some .eq
  | .gt => o == some .gt
  | .ge => o == some .gt || o == some .eq
  | .un => o == none
  | .ord => o != none

/-- A binary FP32 operation on words. -/
def fop (f : Nat → Nat → Nat) (a b : Word) : Word := BitVec.ofNat 32 (f a.toNat b.toNat)

/-- An operation on each 16-bit element of packed words (R85, R170). -/
def packed (f : Nat → Nat → Nat → Nat) (a b d : Word) : Word :=
  let lo := f (a.toNat % 65536) (b.toNat % 65536) (d.toNat % 65536)
  let hi := f (a.toNat / 65536) (b.toNat / 65536) (d.toNat / 65536)
  BitVec.ofNat 32 (lo % 65536 + hi % 65536 * 65536)

/-- The format of a packed word. -/
def hfmt : HFmt → Fmt
  | .f16 => f16
  | .bf16 => bf16

/-- A float to integer conversion with saturation (R172): the bounds are those of the destination. -/
def toIntSat (m : Rnd) (lo hi : Int) : FVal → Int
  | .nan => 0
  | .inf s => if s then lo else hi
  | .fin s a e =>
    let (n, d) := ratOf a e
    let x : Int := roundQuot m s n d
    let x := if s then -x else x
    if x > hi then hi else if x < lo then lo else x

/-- The exact value of an integer. -/
def ofInt (x : Int) : FVal := .fin (decide (x < 0)) x.natAbs 0

/-- A word from an integer, modulo 2^32. -/
def wordOfInt (x : Int) : Word := BitVec.ofInt 32 x

/-! ## Approximated functions (spec/08_isa_float.md R167, R168)

An enclosure of the exact result is a rational n / d with an error far below the stated bound. A free value is taken
where it lies within the bound, widened by the enclosure's error; the rounded enclosure is taken otherwise
(notes/assumptions/6.md). -/

/-- pi × 2^400, rounded down. -/
def piFix : Nat := 0x3243f6a8885a308d313198a2e03707344a4093822299f31d0082efa98ec4e6c89452821e638d01377be5466cf34e90c6cc0ac
/-- ln 2 × 2^128, rounded down. -/
def ln2Fix : Nat := 0xb17217f7d1cf79abc9e3b39803f2f6af

/-- Terms of a Taylor series in fixed point: t := t × x / (k × one), summed with alternating or equal signs. -/
def taylor (x one : Nat) (alt : Bool) (step : Nat) : Nat → Nat → Nat → Int → Int → Int
  | 0, _, _, _, acc => acc
  | fuel + 1, k, t, sg, acc =>
    let acc := acc + sg * t
    let t := t * x / (one * (if step = 2 then (k + 1) * (k + 2) else k + 1))
    taylor x one alt step fuel (k + step) t (if alt then -sg else sg) acc

/-- 2^f × 2^96 for a fraction f given × 2^128. -/
def exp2Frac (f : Nat) : Nat :=
  let x := f * ln2Fix / 2 ^ 160
  (taylor x (2 ^ 96) false 1 40 0 (2 ^ 96) 1 0).toNat

/-- The first `fuel` bits of log2 of a mantissa in [1, 2) given × 2^96, by repeated squaring. -/
def log2Frac : Nat → Nat → Nat → Nat
  | 0, _, acc => acc
  | fuel + 1, x, acc =>
    let y := x * x / 2 ^ 96
    if y ≥ 2 ^ 97 then log2Frac fuel (y / 2) (2 * acc + 1) else log2Frac fuel y (2 * acc)

/-- sin and cos of a reduced argument given × 2^96. -/
def sinCosFix (x : Nat) (cos : Bool) : Int :=
  let x2 := x * x / 2 ^ 96
  if cos then taylor x2 (2 ^ 96) true 2 24 0 (2 ^ 96) 1 0 else taylor x2 (2 ^ 96) true 2 24 1 x 1 0

/-- sin b or cos b × 2^96 for a positive magnitude: b = k pi / 2 + r with the pi of 400 bits. -/
def trigFix (m : Nat) (e : Int) (cos : Bool) : Int :=
  let (n, d) := ratOf m e
  let a := n * 2 ^ 399 / d
  let h := piFix / 4
  let k := a / h
  let r := (a % h) / 2 ^ 303
  match (k + (if cos then 1 else 0)) % 4 with
  | 0 => sinCosFix r false
  | 1 => sinCosFix r true
  | 2 => - sinCosFix r false
  | _ => - sinCosFix r true

/-- The unit in the last place of FP32 at a positive rational: the exponent of its place. -/
def ulpExp (n d : Nat) : Int := max (ratLog2 n d - 23) (-149)

/-- Whether |c − n/d| ≤ bound × 2^be, for a finite candidate of the same sign; `n`, `d` positive. -/
def near (c : Word) (neg : Bool) (n d : Nat) (bound : Nat) (be : Int) : Bool :=
  match f32.decode c.toNat with
  | .fin s m e =>
    let (cn, cd) := ratOf m e
    let (bn, bd) := ratOf bound be
    let a : Int := ((cn * d : Nat) : Int)
    let diff : Int := (if s = neg then a else -a) - ((n * cd : Nat) : Int)
    decide (diff.natAbs * bd ≤ bn * cd * d)
  | _ => false

/-- A free value within the bound of its enclosure, or the rounded enclosure. -/
def bounded (col : Nat) (b : Word) (neg : Bool) (n d : Nat) (bound : Nat) (be : Int) : Word :=
  let c := Config.approx col b
  if near c neg n d bound be then c else BitVec.ofNat 32 (f32.roundRat .rn neg n d)

/-- The integer square root by Newton steps from above. -/
def isqrtGo (n : Nat) : Nat → Nat → Nat
  | 0, x => x
  | fuel + 1, x => let y := (x + n / x) / 2; if y < x then isqrtGo n fuel y else x

/-- The greatest r with r² ≤ n. -/
def isqrt (n : Nat) : Nat := if n = 0 then 0 else isqrtGo n (n.log2 + 2) (2 ^ (n.log2 / 2 + 1))

/-- The canonical NaN of FP32. -/
def nan32 : Word := 0x7FC00000

/-- Whether a magnitude is a power of two: its exponent. -/
def pow2? (m : Nat) (e : Int) : Option Int := if m ≠ 0 && 2 ^ m.log2 = m then some (m.log2 + e) else none

/-- FRCP. -/
def frcp (b : Word) : Word :=
  match f32.decode b.toNat with
  | .nan => nan32
  | .inf s => BitVec.ofNat 32 (f32.signBits s)
  | .fin s m e =>
    if m = 0 then BitVec.ofNat 32 (f32.signBits s + f32.infBits) else
    let (n, d) := ratOf m e
    let exact := f32.roundRat .rn s d n
    if exact % 2 ^ 31 = f32.infBits || (pow2? m e).isSome then BitVec.ofNat 32 exact
    else bounded 0 b s d n 1 (ulpExp d n)

/-- 1/√(n/d) × 2^96-like enclosure: numerator and denominator with about 100 bits of the root. -/
def rsqrtRat (m : Nat) (e : Int) : Nat × Nat :=
  let (n, d) := ratOf m e
  (isqrt (d * 2 ^ 400 / n), 2 ^ 200)

/-- FRSQ. -/
def frsq (b : Word) : Word :=
  match f32.decode b.toNat with
  | .nan => nan32
  | .inf s => if s then nan32 else 0
  | .fin s m e =>
    if m = 0 then BitVec.ofNat 32 (f32.signBits s + f32.infBits)
    else if s then nan32
    else
      let (n, d) := rsqrtRat m e
      match pow2? m e with
      | some k =>
        if k % 2 = 0 then BitVec.ofNat 32 (f32.roundRat .rn false n d) else bounded 1 b false n d 1 (ulpExp n d)
      | none => bounded 1 b false n d 1 (ulpExp n d)

/-- FSQRT, correctly rounded: a root with a sticky bit below its last place. -/
def fsqrt (b : Word) : Word :=
  match f32.decode b.toNat with
  | .nan => nan32
  | .inf s => if s then nan32 else b
  | .fin s m e =>
    if m = 0 then b
    else if s then nan32
    else
      let (n, d) := ratOf m e
      let x := n * d * 2 ^ 200
      let r := isqrt x
      let r2 := 2 * r + (if r * r = x then 0 else 1)
      BitVec.ofNat 32 (f32.roundRat .rn false r2 (d * 2 ^ 101))

/-- FEXP2. -/
def fexp2 (b : Word) : Word :=
  match f32.decode b.toNat with
  | .nan => nan32
  | .inf s => if s then 0 else BitVec.ofNat 32 f32.infBits
  | .fin s m e =>
    let (n, d) := ratOf m e
    if !s && decide (n ≥ 128 * d) then BitVec.ofNat 32 f32.infBits
    else if s && decide (n > 150 * d) then 0
    else
      let fl : Int := if s then -(((n + d - 1) / d : Nat) : Int) else ((n / d : Nat) : Int)
      let fr := if s then ((n + d - 1) / d * d - n) else n % d
      let (p, q) := match fl with
        | .ofNat j => (2 ^ j, 1)
        | .negSucc j => (1, 2 ^ (j + 1))
      if fr = 0 && fl ≠ -150 then BitVec.ofNat 32 (f32.roundRat .rn false p q)
      else
        let x := exp2Frac (fr * 2 ^ 128 / d)
        let nn := x * p
        let dd := q * 2 ^ 96
        let u := ulpExp nn dd
        if u > -149 || decide (ratLog2 nn dd ≥ -126) then bounded 3 b false nn dd 2 u else bounded 3 b false nn dd 1 (-149)

/-- FLOG2. -/
def flog2 (b : Word) : Word :=
  match f32.decode b.toNat with
  | .nan => nan32
  | .inf s => if s then nan32 else b
  | .fin s m e =>
    if m = 0 then BitVec.ofNat 32 (f32.signBits true + f32.infBits)
    else if s then nan32
    else match pow2? m e with
      | some k => BitVec.ofNat 32 (f32.roundNE (if k = 0 then .fin false 0 0 else ofInt k))
      | none =>
        let k : Int := m.log2 + e
        let fr := log2Frac 80 (m * 2 ^ 96 / 2 ^ m.log2) 0
        let x : Int := k * 2 ^ 80 + fr
        let neg := decide (x < 0)
        let n := x.natAbs
        let (p, q) := ratOf m e
        if decide (q ≤ 2 * p) && decide (p ≤ 2 * q) then bounded 4 b neg n (2 ^ 80) 1 (-22)
        else bounded 4 b neg n (2 ^ 80) 2 (ulpExp n (2 ^ 80))

/-- FSIN and FCOS. -/
def ftrig (cos : Bool) (b : Word) : Word :=
  match f32.decode b.toNat with
  | .nan => nan32
  | .inf _ => nan32
  | .fin s m e =>
    if m = 0 then (if cos then 0x3F800000 else b) else
    let x := trigFix m e cos
    let x := if s && !cos then -x else x
    bounded (if cos then 6 else 5) b (decide (x < 0)) x.natAbs (2 ^ 96) 1 (-22)

/-! ## The generator (R108-R111) -/

/-- Mix64 (R110). -/
def mix64 (z : BitVec 64) : BitVec 64 :=
  let z := (z ^^^ (z >>> 30)) * 0xBF58476D1CE4E5B9
  let z := (z ^^^ (z >>> 27)) * 0x94D049BB133111EB
  z ^^^ (z >>> 31)

/-- Draw (R110). -/
def draw (dom seed id n : BitVec 64) : BitVec 64 :=
  let k := mix64 (seed ^^^ dom ^^^ mix64 id)
  mix64 (mix64 (k + n * 0x9E3779B97F4A7C15) ^^^ id)

/-- The domain of NPACK's conversions (R108). -/
def domCell : BitVec 64 := 0x6A09E667F3BCC908
/-- The domain of MDRAIN's and the engines' conversions (R108). -/
def domTile : BitVec 64 := 0xBB67AE8584CAA73B

/-- SRound (R106) as a choice between 0 and 1 step, for a magnitude n / d of steps below 1 and a draw. -/
def sround (n d : Nat) (z : BitVec 64) : Nat :=
  let t := n * 2 ^ 24 / d
  if z.toNat / 2 ^ 40 < t then 1 else 0

/-! ## Blocks (R90-R100) -/

/-- A rational magnitude times 2^k. -/
def ratShift (n d : Nat) (k : Int) : Nat × Nat :=
  match k with
  | .ofNat j => (n * 2 ^ j, d)
  | .negSucc j => (n, d * 2 ^ (j + 1))

/-- RoundNE(|x| × 2^k) for a magnitude m × 2^e. -/
def scaleRound (m : Nat) (e k : Int) : Nat := let (n, d) := ratOf m (e + k); roundQuot .rn false n d

/-- The least E in a range of `fuel` values from `E` on at which `a` fits, else 254 (R94 step 3). -/
def leastExp (m : Nat) (e : Int) (f mmax : Nat) : Nat → Nat → Nat
  | 0, _ => 254
  | fuel + 1, E => if scaleRound m e (127 + f - E) ≤ mmax then E else leastExp m e f mmax fuel (E + 1)

/-- A block in the form its bytes are made of: two head values, and one code for each element. -/
structure Blk where
  h0 : Nat
  h1 : Nat
  els : List Nat
deriving DecidableEq, Repr

/-- The magnitude and sign of an input after step 1 of R94: an infinity counts as 2^128. -/
def txIn : FVal → Option (Bool × Nat × Int)
  | .nan => none
  | .inf s => some (s, 1, 128)
  | .fin s m e => some (s, m, e)

/-- The larger of two magnitudes. -/
def magMax (a b : Nat × Int) : Nat × Int :=
  let e0 := min a.2 b.2
  if a.1 * 2 ^ (a.2 - e0).toNat ≥ b.1 * 2 ^ (b.2 - e0).toNat then a else b

/-- TxQuant (R94). `w` is the element's magnitude bits: 6 for TX8, 2 for TX4; `z e` is the draw of element e. -/
def txQuant (tx8 : Bool) (xs : List FVal) (z : Nat → BitVec 64) : Blk :=
  let f := if tx8 then 5 else 1
  let mmax := if tx8 then 63 else 3
  let g := if tx8 then 4 else 2
  let sgn := if tx8 then 64 else 4
  let sel := if tx8 then 128 else 8
  let ins := xs.map txIn
  let mag := ins.foldl (fun a x => match x with | some (_, m, e) => magMax a (m, e) | none => a) (0, 0)
  let anyNan := ins.any Option.isNone
  let allNan := ins.all Option.isNone
  let e0 := leastExp mag.1 mag.2 f mmax 255 0
  let E1 := if anyNan then (if allNan then 0 else e0) else e0 - g
  let E0 := if anyNan then 255 else e0
  let enc (j : Nat) (x : Option (Bool × Nat × Int)) : Nat :=
    match x with
    | none => 0
    | some (s, m, e) =>
      let sb := if s then sgn else 0
      let (n, d) := ratOf m (e + 127 + f - E1)
      if m ≠ 0 && n < d then sel + sb + sround n d (z j)
      else
        let r1 := scaleRound m e (127 + f - E1)
        if anyNan then sel + sb + min r1 mmax
        else if r1 ≤ mmax then sel + sb + r1
        else sb + min (scaleRound m e (127 + f - E0)) mmax
  ⟨E0, E1, ins.zipIdx.map fun (x, j) => enc j x⟩

/-- The value of a TX element (R91). -/
def txVal (tx8 : Bool) (e0 e1 code : Nat) : FVal :=
  let E := if code.testBit (if tx8 then 7 else 3) then e1 else e0
  let s := code.testBit (if tx8 then 6 else 2)
  let m := code % (if tx8 then 64 else 4)
  if E = 255 then .nan else .fin s m ((E : Int) - 127 - (if tx8 then 5 else 1))

/-- An input of ObQuant after step 1 of R98, as a signed multiple of 2^-149: NaN counts as 0, an infinity as the
largest finite FP32 value. -/
def obIn : FVal → Int
  | .nan => 0
  | .inf s => scaled s (2 ^ 24 - 1) 104 (-149)
  | .fin s m e => scaled s m e (-149)

/-- ObQuant (R98): σ, z and the elements. -/
def obQuant (ob8 : Bool) (xs : List FVal) (z : Nat → BitVec 64) : Blk :=
  let qmax : Int := if ob8 then 255 else 15
  let ins := xs.map obIn
  let lo := ins.foldl min 0
  let hi := ins.foldl max 0
  if hi - lo = 0 then ⟨0, 0, ins.map fun _ => 0⟩ else
  let s0 := f16.roundRat .rn false (hi - lo).toNat (qmax.toNat * 2 ^ 149)
  let sg := if s0 = 0x7C00 then 0x7BFF else if s0 = 0 then 1 else s0
  match f16.decode sg with
  | .fin _ m e =>
    let (sn, sd) := ratOf m (e + 149)
    let zp : Int := min (max ((roundQuot .rn false ((-lo).toNat * sd) sn : Nat) : Int) 0) qmax
    let enc (x : Int) (j : Nat) : Nat :=
      let n := x.natAbs * sd
      let a : Int := if n ≠ 0 && n < sn then (sround n sn (z j) : Nat) else (roundQuot .rn false n sn : Nat)
      let v := if x < 0 then -a else a
      (min (max (zp + v) 0) qmax).toNat
    ⟨sg, zp.toNat, ins.zipIdx.map fun (x, j) => enc x j⟩
  | _ => ⟨sg, 0, []⟩

/-- The value of an OB element: (q − z′) × σ (R95). DESIGN CHOICE (notes/assumptions/98.md): the spec gives the product and no sign of a zero;
    q = z′ gives +0 whatever the sign of σ, and a σ of ±0 gives the product's sign. -/
def obVal (ob8 : Bool) (sigma zp q : Nat) : FVal :=
  let zp := if ob8 then zp else zp % 16
  match f16.decode sigma with
  | .fin _ 0 _ => .fin (decide ((q : Int) < zp) != sigma.testBit 15 && q != zp) 0 0
  | .fin s m e => let d : Int := (q : Int) - zp; .fin ((decide (d < 0) != s) && d != 0) (m * d.natAbs) e
  | _ => .nan

/-- Element codes as bytes: one a byte, or two nibbles a byte with the even element low (R92, R96). -/
def packEls (byte : Bool) (els : List Nat) : List Byte :=
  if byte then els.map (BitVec.ofNat 8)
  else (List.range (els.length / 2)).map (fun i => BitVec.ofNat 8 (els.getD (2 * i) 0 + 16 * els.getD (2 * i + 1) 0))

/-- Element code e of such bytes. -/
def elAt (byte : Bool) (bs : List Byte) (e : Nat) : Nat :=
  if byte then uv (bs.getD e 0) else uv (bs.getD (e / 2) 0) / 16 ^ (e % 2) % 16

end Sys2Proof.Machine

namespace Sys2Proof
open Machine

/-- The elements of the format are bytes. -/
def NFmt.byte : NFmt → Bool
  | .tx8 => true
  | .ob8 => true
  | _ => false
/-- The format is one of the TX formats. -/
def NFmt.tx : NFmt → Bool
  | .tx8 => true
  | .tx4 => true
  | _ => false
/-- Bytes of a block's head: E0 and E1, or σ and z (R92, R96). -/
def NFmt.head (m : NFmt) : Nat := if m.tx then 2 else 3
/-- TxQuant or ObQuant of 32 values, with the draw of each element. -/
def NFmt.quant (m : NFmt) (xs : List FVal) (z : Nat → BitVec 64) : Blk :=
  if m.tx then txQuant m.byte xs z else obQuant m.byte xs z
/-- A stored block (R92, R96). -/
def NFmt.bytes (m : NFmt) (b : Blk) : List Byte :=
  (if m.tx then [BitVec.ofNat 8 b.h0, BitVec.ofNat 8 b.h1]
   else [BitVec.ofNat 8 b.h0, BitVec.ofNat 8 (b.h0 / 256), BitVec.ofNat 8 b.h1]) ++ packEls m.byte b.els
/-- The value of element e of a stored block. -/
def NFmt.val (m : NFmt) (bs : List Byte) (e : Nat) : FVal :=
  let q := elAt m.byte (bs.drop m.head) e
  let b (i : Nat) := uv (bs.getD i 0)
  if m.tx then txVal m.byte (b 0) (b 1) q else obVal m.byte (b 0 + 256 * b 1) (b 2) q

end Sys2Proof

namespace Sys2Proof.Machine

/-- A small element format of the drain: exponent bits, fraction bits, largest finite code, smallest subnormal's
exponent, and emax (R99, R100). -/
structure MxFmt where
  eb : Nat
  mb : Nat
  top : Nat
  sub : Int
  emax : Nat
deriving DecidableEq, Repr

/-- E4M3. -/
def e4m3 : MxFmt := ⟨4, 3, 0x7E, -9, 8⟩
/-- E5M2. -/
def e5m2 : MxFmt := ⟨5, 2, 0x7B, -16, 15⟩
/-- E2M1. -/
def e2m1 : MxFmt := ⟨2, 1, 0x7, -1, 2⟩

/-- RoundNE of a magnitude m × 2^e to an element code, saturating at the largest finite one. -/
def MxFmt.enc (F : MxFmt) (m : Nat) (e : Int) : Nat :=
  if m = 0 then 0 else
  let (n, d) := ratOf m e
  let q : Int := max (ratLog2 n d - F.mb) F.sub
  let (a, b) := ratShift n d (-q)
  min ((q - F.sub).toNat * 2 ^ F.mb + roundQuot .rn false a b) F.top

/-- The MX rule (R100). DEDUCED (notes/assumptions/99.md): the X that divides the elements is the clamped one, as the scale byte is. -/
def mxQuant (F : MxFmt) (xs : List FVal) (z : Nat → BitVec 64) : Blk :=
  if xs.any FVal.isNan then ⟨255, 0, xs.map fun _ => 0⟩ else
  let ins := xs.map fun x => match x with
    | .inf s => (s, 2 ^ 24 - 1, (104 : Int))
    | .fin s m e => (s, m, e)
    | .nan => (false, 0, 0)
  let sgn := 2 ^ (F.eb + F.mb)
  let mag := ins.foldl (fun a x => magMax a (x.2.1, x.2.2)) (0, 0)
  if mag.1 = 0 then ⟨0, 0, ins.map fun x => if x.1 then sgn else 0⟩ else
  let X : Int := min (max ((mag.1.log2 : Int) + mag.2 - F.emax) (-127)) 127
  let enc (j : Nat) (x : Bool × Nat × Int) : Nat :=
    let (s, m, e) := x
    let e := e - X
    let (n, d) := ratOf m (e - F.sub)
    (if s then sgn else 0) + (if m ≠ 0 && n < d then sround n d (z j) else F.enc m e)
  ⟨(X + 127).toNat, 0, ins.zipIdx.map fun (x, j) => enc j x⟩

/-- The value of an MX element with its scale byte (spec/18_copy.md R342). E4M3's 0x7F codes are NaN, and E5M2's top
exponent holds infinities and NaNs, as the OCP format has them. -/
def mxVal (F : MxFmt) (scale code : Nat) : FVal :=
  let s := code.testBit (F.eb + F.mb)
  let ex := code / 2 ^ F.mb % 2 ^ F.eb
  let fr := code % 2 ^ F.mb
  if scale = 255 then .nan
  else if F.eb = 4 && ex = 15 && fr = 7 then .nan
  else if F.eb = 5 && ex = 31 then (if fr = 0 then .inf s else .nan)
  else if ex = 0 then .fin s fr (F.sub + scale - 127)
  else .fin s (2 ^ F.mb + fr) (F.sub + ex - 1 + scale - 127)

end Sys2Proof.Machine
end

