-- ==== Sys2Proof/Machine/Operands.lean ====
section
/-! DEFINITION. Every operand form: the registers each word reads and writes, its pipe, the value of a B-operand, and what
a neighbour operand reads (spec/03_formats.md R52-R68, spec/06_cell.md R118-R129, spec/07_isa_integer.md R141). -/
namespace Sys2Proof
open Machine

/-! ## Register lists -/

/-- A V pair. -/
def vp (d : VReg) : List RegRef := [.v d.toNat, .v (d.toNat + 1)]
/-- An S pair. -/
def sp (d : SReg) : List RegRef := [.s d.toNat, .s (d.toNat + 1)]
/-- A run of V registers. -/
def vrun (a : VReg) (n : Nat) : List RegRef := (List.range n).map (fun i => .v (a.toNat + i))
/-- A run of S registers. -/
def srun (a : SReg) (n : Nat) : List RegRef := (List.range n).map (fun i => .s (a.toNat + i))
/-- The registers of the wave that a B-operand reads. -/
def BOp.srcs : BOp → List RegRef
  | .v r => [.v r.toNat]
  | .s r => [.s r.toNat]
  | _ => []
/-- The same for a 64-bit operand. -/
def BOp.srcs64 : BOp → List RegRef
  | .v r => vp r
  | .s r => sp r
  | _ => []
def UOp.srcs : UOp → List RegRef
  | .s r => [.s r.toNat]
  | _ => []
def UOp.srcs64 : UOp → List RegRef
  | .s r => sp r
  | _ => []
/-- The address registers an FM word reads (R60). -/
def FmOp.srcs (o : FmOp) : List RegRef := .a o.a.toNat :: .h o.h.toNat :: (if o.pi then [.i o.i.toNat] else [])
/-- Post-increment writes AREG. -/
def FmOp.dsts (o : FmOp) : List RegRef := if o.pi then [.a o.a.toNat] else []
def TileOp.srcs (o : TileOp) : List RegRef :=
  .a o.a.toNat :: .h o.h.toNat :: .d o.d.toNat :: (if o.pi then [.i o.i.toNat] else [])
def TileOp.dsts (o : TileOp) : List RegRef := if o.pi then [.a o.a.toNat] else []
/-- The registers an MMA reads (spec/20_matrix.md R364, R366, R368). -/
def MmaOp.srcs (o : MmaOp) : List RegRef :=
  (if o.ra then (List.range 32).map (fun i => RegRef.v (32 + i)) else [.d o.da.toNat]) ++ [.d o.db.toNat] ++
  (if o.oe then [.a o.ao.toNat, .a (o.ao.toNat + 1)] else [])

/-- The pipes (R52). `v` is either vector pipe. -/
inductive Pipe where | v | va | u | m | c
deriving DecidableEq, Repr

/-- The number of an axis. -/
def Axis.num : Axis → Nat
  | .x => 0
  | .y => 1
  | .z => 2

/-- The registers a word reads (R53). -/
def Instr.srcs : Instr → List RegRef
  | .iadd _ a b => .v a.toNat :: b.srcs
  | .iaddUni _ a b => .s a.toNat :: b.srcs
  | .isub _ a b => .v a.toNat :: b.srcs
  | .isubUni _ a b => .s a.toNat :: b.srcs
  | .irsub _ a b => .v a.toNat :: b.srcs
  | .irsubUni _ a b => .s a.toNat :: b.srcs
  | .imul _ a b => .v a.toNat :: b.srcs
  | .imulUni _ a b => .s a.toNat :: b.srcs
  | .imulhi _ a b => .v a.toNat :: b.srcs
  | .imulhiUni _ a b => .s a.toNat :: b.srcs
  | .imad d a b => .v a.toNat :: .v d.toNat :: b.srcs
  | .imadUni d a b => .s a.toNat :: .s d.toNat :: b.srcs
  | .imin _ a b => .v a.toNat :: b.srcs
  | .iminUni _ a b => .s a.toNat :: b.srcs
  | .imax _ a b => .v a.toNat :: b.srcs
  | .imaxUni _ a b => .s a.toNat :: b.srcs
  | .iabs _ b => b.srcs
  | .iabsUni _ b => b.srcs
  | .ineg _ b => b.srcs
  | .inegUni _ b => b.srcs
  | .iaddc _ a b => .v a.toNat :: .p 6 :: b.srcs
  | .iaddcUni _ a b => .s a.toNat :: .k 6 :: b.srcs
  | .isat _ a b => .v a.toNat :: b.srcs
  | .isatUni _ a b => .s a.toNat :: b.srcs
  | .and _ a b => .v a.toNat :: b.srcs
  | .andUni _ a b => .s a.toNat :: b.srcs
  | .or _ a b => .v a.toNat :: b.srcs
  | .orUni _ a b => .s a.toNat :: b.srcs
  | .xor _ a b => .v a.toNat :: b.srcs
  | .xorUni _ a b => .s a.toNat :: b.srcs
  | .andn _ a b => .v a.toNat :: b.srcs
  | .andnUni _ a b => .s a.toNat :: b.srcs
  | .not _ b => b.srcs
  | .notUni _ b => b.srcs
  | .shl _ a b => .v a.toNat :: b.srcs
  | .shlUni _ a b => .s a.toNat :: b.srcs
  | .shr _ a b => .v a.toNat :: b.srcs
  | .shrUni _ a b => .s a.toNat :: b.srcs
  | .sar _ a b => .v a.toNat :: b.srcs
  | .sarUni _ a b => .s a.toNat :: b.srcs
  | .rot _ a b => .v a.toNat :: b.srcs
  | .rotUni _ a b => .s a.toNat :: b.srcs
  | .clz _ b => b.srcs
  | .clzUni _ b => b.srcs
  | .popc _ b => b.srcs
  | .popcUni _ b => b.srcs
  | .brev _ b => b.srcs
  | .brevUni _ b => b.srcs
  | .bfe _ a b => .v a.toNat :: b.srcs
  | .bfeUni _ a b => .s a.toNat :: b.srcs
  | .bfi d a b => .v a.toNat :: .v d.toNat :: b.srcs
  | .bfiUni d a b => .s a.toNat :: .s d.toNat :: b.srcs
  | .sel _ a b => .v a.toNat :: .p 6 :: b.srcs
  | .selUni _ a b => .s a.toNat :: .k 6 :: b.srcs
  | .icmp _ _ a b => .v a.toNat :: b.srcs
  | .icmpUni _ _ a b => .s a.toNat :: b.srcs
  | .icmpUnsigned _ _ a b => .v a.toNat :: b.srcs
  | .icmpUnsignedUni _ _ a b => .s a.toNat :: b.srcs
  | .pand _ a b => [.p a.toNat, .p b.toNat]
  | .pandUni _ a b => [.k a.toNat, .k b.toNat]
  | .por _ a b => [.p a.toNat, .p b.toNat]
  | .porUni _ a b => [.k a.toNat, .k b.toNat]
  | .pxor _ a b => [.p a.toNat, .p b.toNat]
  | .pxorUni _ a b => [.k a.toNat, .k b.toNat]
  | .pnot _ b => [.p b.toNat]
  | .pnotUni _ b => [.k b.toNat]
  | .vote _ _ b => [.p b.toNat]
  | .ballot _ _ b => [.p b.toNat]
  | .mov _ b => b.srcs
  | .movUni _ b => b.srcs
  | .movl _ b => b.srcs64
  | .movlUni _ b => b.srcs64
  | .aadd _ a b => .a a.toNat :: b.srcs
  | .aset _ b => b.srcs
  | .iset _ n => srun n 3
  | .imulhiUnsigned _ a b => .v a.toNat :: b.srcs
  | .imulhiUnsignedUni _ a b => .s a.toNat :: b.srcs
  | .iminUnsigned _ a b => .v a.toNat :: b.srcs
  | .iminUnsignedUni _ a b => .s a.toNat :: b.srcs
  | .imaxUnsigned _ a b => .v a.toNat :: b.srcs
  | .imaxUnsignedUni _ a b => .s a.toNat :: b.srcs
  | .isatUnsigned _ a b => .v a.toNat :: b.srcs
  | .isatUnsignedUni _ a b => .s a.toNat :: b.srcs
  | .bfeUnsigned _ a b => .v a.toNat :: b.srcs
  | .bfeUnsignedUni _ a b => .s a.toNat :: b.srcs
  | .fadd _ a b => .v a.toNat :: b.srcs
  | .faddUni _ a b => .s a.toNat :: b.srcs
  | .fsub _ a b => .v a.toNat :: b.srcs
  | .fsubUni _ a b => .s a.toNat :: b.srcs
  | .fmul _ a b => .v a.toNat :: b.srcs
  | .fmulUni _ a b => .s a.toNat :: b.srcs
  | .ffma d a b => .v a.toNat :: .v d.toNat :: b.srcs
  | .ffmaUni d a b => .s a.toNat :: .s d.toNat :: b.srcs
  | .fmin _ a b => .v a.toNat :: b.srcs
  | .fminUni _ a b => .s a.toNat :: b.srcs
  | .fmax _ a b => .v a.toNat :: b.srcs
  | .fmaxUni _ a b => .s a.toNat :: b.srcs
  | .fabs _ b => b.srcs
  | .fabsUni _ b => b.srcs
  | .fneg _ b => b.srcs
  | .fnegUni _ b => b.srcs
  | .frsub _ a b => .v a.toNat :: b.srcs
  | .frsubUni _ a b => .s a.toNat :: b.srcs
  | .fcmp _ _ a b => .v a.toNat :: b.srcs
  | .fcmpUni _ _ a b => .s a.toNat :: b.srcs
  | .frcp _ b => b.srcs
  | .frcpUni _ b => b.srcs
  | .frsq _ b => b.srcs
  | .frsqUni _ b => b.srcs
  | .fsqrt _ b => b.srcs
  | .fsqrtUni _ b => b.srcs
  | .fexp2 _ b => b.srcs
  | .fexp2Uni _ b => b.srcs
  | .flog2 _ b => b.srcs
  | .flog2Uni _ b => b.srcs
  | .fsin _ b => b.srcs
  | .fsinUni _ b => b.srcs
  | .fcos _ b => b.srcs
  | .fcosUni _ b => b.srcs
  | .dadd _ a b => vp a ++ b.srcs64
  | .dmul _ a b => vp a ++ b.srcs64
  | .dfma d a b => vp a ++ vp d ++ b.srcs64
  | .hadd2 _ _ a b => .v a.toNat :: b.srcs
  | .hadd2Uni _ _ a b => .s a.toNat :: b.srcs
  | .hmul2 _ _ a b => .v a.toNat :: b.srcs
  | .hmul2Uni _ _ a b => .s a.toNat :: b.srcs
  | .hfma2 _ d a b => .v a.toNat :: .v d.toNat :: b.srcs
  | .hfma2Uni _ d a b => .s a.toNat :: .s d.toNat :: b.srcs
  | .cvt c _ _ b => (if c.src64 then b.srcs64 else b.srcs)
  | .cvtExt c _ b => (if c.src64 then b.srcs64 else b.srcs)
  | .cvtUni _ _ b => b.srcs
  | .npack _ _ a => vrun a 32
  | .nunpack m _ a => vrun a m.regs
  | .ld _ _ a => a.srcs
  | .st m d a => (if m == .b64 then vp d else [.v d.toNat]) ++ a.srcs
  | .ldUni _ _ a => a.srcs
  | .stUni d a => [.s d.toNat] ++ a.srcs
  | .ldt _ a => a.srcs
  | .stt d a => [.v d.toNat] ++ a.srcs
  | .accrd _ t b => .t t.toNat :: b.srcs
  | .accwr _ a b => .v a.toNat :: b.srcs
  | .lshuf _ _ a b => .v a.toNat :: b.srcs
  | .bcast _ a b => .v a.toNat :: b.srcs
  | .bcastUni _ a b => .v a.toNat :: b.srcs
  | .xchg _ a b => .v a.toNat :: b.srcs
  | .atom _ d a => [.v d.toNat] ++ a.srcs
  | .atomBitwise m d a => (if m == .cas then vp d else [.v d.toNat]) ++ a.srcs
  | .atomFloat _ d a => [.v d.toNat] ++ a.srcs
  | .atomUni m d a => (if m == .cas then sp d else [.s d.toNat]) ++ a.srcs
  | .bra c _ => (if c.getLsbD 3 then [.k (c.toNat - 8)] else [.p c.toNat])
  | .call k _ => [.k k.toNat]
  | .jmp b => b.srcs
  | .binit n _ => [.s n.toNat]
  | .barr h _ => [.h h.toNat]
  | .bsync h _ => [.h h.toNat]
  | .hfork _ h => [.h h.toNat]
  | .hjoin _ h e => [.h h.toNat, .h e.toNat]
  | .hpass h n => .h h.toNat :: srun n 3
  | .hrecv _ n => [.s n.toNat]
  | .hwait h => [.h h.toNat]
  | .hwaitRet h => [.h h.toNat]
  | .fence _ h => [.h h.toNat]
  | .cpy o => srun o.sbase 4 ++ [.s o.sparm.toNat, .h o.hnd.toNat]
  | .tcpy o => srun o.sbase 3 ++ [.s o.sparm.toNat, .h o.hnd.toNat]
  | .gath o => srun o.sbase 2 ++ [.s o.sparm.toNat, .h o.hnd.toNat]
  | .scat o => srun o.sbase 2 ++ [.s o.sparm.toNat, .h o.hnd.toNat]
  | .cbinit _ n => srun n 3
  | .cpyq _ h => [.h h.toNat]
  | .cpyqRes h => [.h h.toNat]
  | .cpyqAbn h => [.h h.toNat]
  | .launch _ n => srun n 2
  | .qroom n => [.s n.toNat]
  | .rst o => srun o.sbase 6 ++ [.s o.sparm.toNat, .h o.hnd.toNat]
  | .rld o => srun o.sbase 4 ++ [.s o.sparm.toNat, .h o.hnd.toNat]
  | .rred o => srun o.sbase 7 ++ [.s o.sparm.toNat, .h o.hnd.toNat]
  | .ratom o => srun o.sbase 4 ++ [.s o.sparm.toNat, .h o.hnd.toNat]
  | .rcpy o => srun o.sbase 7 ++ [.s o.sparm.toNat, .h o.hnd.toNat]
  | .rwait _ _ h => [.h h.toNat]
  | .swplan n p => srun n 4 ++ [.s p.toNat]
  | .swgo o => srun o.sbase 4 ++ [.s o.sparm.toNat, .h o.hnd.toNat]
  | .swstat n => srun n 2
  | .swresume o => srun o.sbase 4 ++ [.s o.sparm.toNat, .h o.hnd.toNat]
  | .swabort h => [.h h.toNat]
  | .cbtake _ c => [.c c.toNat]
  | .cbfree c => [.c c.toNat]
  | .resq d h => [.v d.toNat, .h h.toNat]
  | .pagereq d h => [.v d.toNat, .h h.toNat]
  | .mdrain _ t n _ _ => .t t.toNat :: srun n 5
  | .mma _ o => o.srcs
  | .sysr _ _ b => (b.elim [] UOp.srcs)
  | .syswTrappc b => b.srcs
  | .syswTrapres b => b.srcs
  | .trap b => b.srcs
  | .causec _ b => b.srcs
  | _ => []

/-- The registers a word writes (R53). Writes to P7 and K7 never conflict, and `conflicts` leaves them out. -/
def Instr.dsts : Instr → List RegRef
  | .iadd d _ _ => [.v d.toNat]
  | .iaddUni d _ _ => [.s d.toNat]
  | .isub d _ _ => [.v d.toNat]
  | .isubUni d _ _ => [.s d.toNat]
  | .irsub d _ _ => [.v d.toNat]
  | .irsubUni d _ _ => [.s d.toNat]
  | .imul d _ _ => [.v d.toNat]
  | .imulUni d _ _ => [.s d.toNat]
  | .imulhi d _ _ => [.v d.toNat]
  | .imulhiUni d _ _ => [.s d.toNat]
  | .imad d _ _ => [.v d.toNat]
  | .imadUni d _ _ => [.s d.toNat]
  | .imin d _ _ => [.v d.toNat]
  | .iminUni d _ _ => [.s d.toNat]
  | .imax d _ _ => [.v d.toNat]
  | .imaxUni d _ _ => [.s d.toNat]
  | .iabs d _ => [.v d.toNat]
  | .iabsUni d _ => [.s d.toNat]
  | .ineg d _ => [.v d.toNat]
  | .inegUni d _ => [.s d.toNat]
  | .iaddc d _ _ => [.v d.toNat, .p 6]
  | .iaddcUni d _ _ => [.s d.toNat, .k 6]
  | .isat d _ _ => [.v d.toNat]
  | .isatUni d _ _ => [.s d.toNat]
  | .and d _ _ => [.v d.toNat]
  | .andUni d _ _ => [.s d.toNat]
  | .or d _ _ => [.v d.toNat]
  | .orUni d _ _ => [.s d.toNat]
  | .xor d _ _ => [.v d.toNat]
  | .xorUni d _ _ => [.s d.toNat]
  | .andn d _ _ => [.v d.toNat]
  | .andnUni d _ _ => [.s d.toNat]
  | .not d _ => [.v d.toNat]
  | .notUni d _ => [.s d.toNat]
  | .shl d _ _ => [.v d.toNat]
  | .shlUni d _ _ => [.s d.toNat]
  | .shr d _ _ => [.v d.toNat]
  | .shrUni d _ _ => [.s d.toNat]
  | .sar d _ _ => [.v d.toNat]
  | .sarUni d _ _ => [.s d.toNat]
  | .rot d _ _ => [.v d.toNat]
  | .rotUni d _ _ => [.s d.toNat]
  | .clz d _ => [.v d.toNat]
  | .clzUni d _ => [.s d.toNat]
  | .popc d _ => [.v d.toNat]
  | .popcUni d _ => [.s d.toNat]
  | .brev d _ => [.v d.toNat]
  | .brevUni d _ => [.s d.toNat]
  | .bfe d _ _ => [.v d.toNat]
  | .bfeUni d _ _ => [.s d.toNat]
  | .bfi d _ _ => [.v d.toNat]
  | .bfiUni d _ _ => [.s d.toNat]
  | .sel d _ _ => [.v d.toNat]
  | .selUni d _ _ => [.s d.toNat]
  | .icmp _ d _ _ => [.p d.toNat]
  | .icmpUni _ d _ _ => [.k d.toNat]
  | .icmpUnsigned _ d _ _ => [.p d.toNat]
  | .icmpUnsignedUni _ d _ _ => [.k d.toNat]
  | .pand d _ _ => [.p d.toNat]
  | .pandUni d _ _ => [.k d.toNat]
  | .por d _ _ => [.p d.toNat]
  | .porUni d _ _ => [.k d.toNat]
  | .pxor d _ _ => [.p d.toNat]
  | .pxorUni d _ _ => [.k d.toNat]
  | .pnot d _ => [.p d.toNat]
  | .pnotUni d _ => [.k d.toNat]
  | .vote _ d _ => [.k d.toNat]
  | .ballot d _ _ => [.s d.toNat]
  | .mov d _ => [.v d.toNat]
  | .movUni d _ => [.s d.toNat]
  | .movl d _ => vp d
  | .movlUni d _ => sp d
  | .widf d _ => [.v d.toNat]
  | .widfUni d _ => [.s d.toNat]
  | .aadd d _ _ => [.a d.toNat]
  | .aset d _ => [.a d.toNat]
  | .iset d _ => [.i d.toNat]
  | .movi d _ => [.v d.toNat]
  | .moviUni d _ => [.s d.toNat]
  | .imulhiUnsigned d _ _ => [.v d.toNat]
  | .imulhiUnsignedUni d _ _ => [.s d.toNat]
  | .iminUnsigned d _ _ => [.v d.toNat]
  | .iminUnsignedUni d _ _ => [.s d.toNat]
  | .imaxUnsigned d _ _ => [.v d.toNat]
  | .imaxUnsignedUni d _ _ => [.s d.toNat]
  | .isatUnsigned d _ _ => [.v d.toNat]
  | .isatUnsignedUni d _ _ => [.s d.toNat]
  | .bfeUnsigned d _ _ => [.v d.toNat]
  | .bfeUnsignedUni d _ _ => [.s d.toNat]
  | .fadd d _ _ => [.v d.toNat]
  | .faddUni d _ _ => [.s d.toNat]
  | .fsub d _ _ => [.v d.toNat]
  | .fsubUni d _ _ => [.s d.toNat]
  | .fmul d _ _ => [.v d.toNat]
  | .fmulUni d _ _ => [.s d.toNat]
  | .ffma d _ _ => [.v d.toNat]
  | .ffmaUni d _ _ => [.s d.toNat]
  | .fmin d _ _ => [.v d.toNat]
  | .fminUni d _ _ => [.s d.toNat]
  | .fmax d _ _ => [.v d.toNat]
  | .fmaxUni d _ _ => [.s d.toNat]
  | .fabs d _ => [.v d.toNat]
  | .fabsUni d _ => [.s d.toNat]
  | .fneg d _ => [.v d.toNat]
  | .fnegUni d _ => [.s d.toNat]
  | .frsub d _ _ => [.v d.toNat]
  | .frsubUni d _ _ => [.s d.toNat]
  | .fcmp _ d _ _ => [.p d.toNat]
  | .fcmpUni _ d _ _ => [.k d.toNat]
  | .frcp d _ => [.v d.toNat]
  | .frcpUni d _ => [.s d.toNat]
  | .frsq d _ => [.v d.toNat]
  | .frsqUni d _ => [.s d.toNat]
  | .fsqrt d _ => [.v d.toNat]
  | .fsqrtUni d _ => [.s d.toNat]
  | .fexp2 d _ => [.v d.toNat]
  | .fexp2Uni d _ => [.s d.toNat]
  | .flog2 d _ => [.v d.toNat]
  | .flog2Uni d _ => [.s d.toNat]
  | .fsin d _ => [.v d.toNat]
  | .fsinUni d _ => [.s d.toNat]
  | .fcos d _ => [.v d.toNat]
  | .fcosUni d _ => [.s d.toNat]
  | .dadd d _ _ => vp d
  | .dmul d _ _ => vp d
  | .dfma d _ _ => vp d
  | .hadd2 _ d _ _ => [.v d.toNat]
  | .hadd2Uni _ d _ _ => [.s d.toNat]
  | .hmul2 _ d _ _ => [.v d.toNat]
  | .hmul2Uni _ d _ _ => [.s d.toNat]
  | .hfma2 _ d _ _ => [.v d.toNat]
  | .hfma2Uni _ d _ _ => [.s d.toNat]
  | .rand _ d => [.v d.toNat]
  | .cvt _ _ d _ => [.v d.toNat]
  | .cvtExt c d _ => (if c.dst64 then vp d else [.v d.toNat])
  | .cvtUni _ d _ => [.s d.toNat]
  | .npack m d _ => vrun d m.regs
  | .nunpack _ d _ => vrun d 32
  | .ld m d a => (if m == .b64 then vp d else [.v d.toNat]) ++ a.dsts
  | .st _ _ a => a.dsts
  | .ldUni _ d a => [.s d.toNat] ++ a.dsts
  | .stUni _ a => a.dsts
  | .ldt d a => [.v d.toNat] ++ a.dsts
  | .stt _ a => a.dsts
  | .accrd d _ _ => [.v d.toNat]
  | .accwr t _ _ => [.t t.toNat]
  | .lshuf _ d _ _ => [.v d.toNat]
  | .bcast d _ _ => [.v d.toNat]
  | .bcastUni d _ _ => [.s d.toNat]
  | .xchg d _ _ => [.v d.toNat]
  | .atom _ d a => [.v d.toNat] ++ a.dsts
  | .atomBitwise _ d a => [.v d.toNat] ++ a.dsts
  | .atomFloat _ d a => [.v d.toNat] ++ a.dsts
  | .atomUni _ d a => [.s d.toNat] ++ a.dsts
  | .bqry n _ => srun n 3
  | .hfork d _ => [.h d.toNat]
  | .hjoin d _ _ => [.h d.toNat]
  | .hrecv d _ => [.h d.toNat]
  | .hwaitRet h => [.h h.toNat]
  | .elect d => [.k d.toNat]
  | .cbinit c _ => [.c c.toNat]
  | .cpyq n _ => srun n 4
  | .launch _ n => [.s n.toNat]
  | .qroom n => srun n 2
  | .ratom o => [.s (o.sbase.toNat + 3)]
  | .rwait t n _ => (if t then srun n 2 else [])
  | .swplan n _ => srun n 2
  | .swstat n => srun n 4
  | .cbtake d _ => [.a d.toNat]
  | .resq d _ => [.v d.toNat]
  | .mzero t => [.t t.toNat]
  | .mma _ o => [.t o.tt.toNat]
  | .mdrain _ t _ _ z => if z then [.t t.toNat] else []
  | .sysr d _ _ => [.s d.toNat]
  | .causec d _ => [.s d.toNat]
  | _ => []

/-- The pipe of a word (spec/04_opcode_map.md R76). -/
def Instr.pipe : Instr → Pipe
  | .iadd _ _ _ => .v
  | .iaddUni _ _ _ => .u
  | .isub _ _ _ => .v
  | .isubUni _ _ _ => .u
  | .irsub _ _ _ => .v
  | .irsubUni _ _ _ => .u
  | .imul _ _ _ => .v
  | .imulUni _ _ _ => .u
  | .imulhi _ _ _ => .v
  | .imulhiUni _ _ _ => .u
  | .imad _ _ _ => .v
  | .imadUni _ _ _ => .u
  | .imin _ _ _ => .v
  | .iminUni _ _ _ => .u
  | .imax _ _ _ => .v
  | .imaxUni _ _ _ => .u
  | .iabs _ _ => .v
  | .iabsUni _ _ => .u
  | .ineg _ _ => .v
  | .inegUni _ _ => .u
  | .iaddc _ _ _ => .v
  | .iaddcUni _ _ _ => .u
  | .isat _ _ _ => .v
  | .isatUni _ _ _ => .u
  | .and _ _ _ => .v
  | .andUni _ _ _ => .u
  | .or _ _ _ => .v
  | .orUni _ _ _ => .u
  | .xor _ _ _ => .v
  | .xorUni _ _ _ => .u
  | .andn _ _ _ => .v
  | .andnUni _ _ _ => .u
  | .not _ _ => .v
  | .notUni _ _ => .u
  | .shl _ _ _ => .v
  | .shlUni _ _ _ => .u
  | .shr _ _ _ => .v
  | .shrUni _ _ _ => .u
  | .sar _ _ _ => .v
  | .sarUni _ _ _ => .u
  | .rot _ _ _ => .v
  | .rotUni _ _ _ => .u
  | .clz _ _ => .v
  | .clzUni _ _ => .u
  | .popc _ _ => .v
  | .popcUni _ _ => .u
  | .brev _ _ => .v
  | .brevUni _ _ => .u
  | .bfe _ _ _ => .v
  | .bfeUni _ _ _ => .u
  | .bfi _ _ _ => .v
  | .bfiUni _ _ _ => .u
  | .sel _ _ _ => .v
  | .selUni _ _ _ => .u
  | .icmp _ _ _ _ => .v
  | .icmpUni _ _ _ _ => .u
  | .icmpUnsigned _ _ _ _ => .v
  | .icmpUnsignedUni _ _ _ _ => .u
  | .pand _ _ _ => .v
  | .pandUni _ _ _ => .u
  | .por _ _ _ => .v
  | .porUni _ _ _ => .u
  | .pxor _ _ _ => .v
  | .pxorUni _ _ _ => .u
  | .pnot _ _ => .v
  | .pnotUni _ _ => .u
  | .vote _ _ _ => .v
  | .ballot _ _ _ => .v
  | .mov _ _ => .v
  | .movUni _ _ => .u
  | .movl _ _ => .v
  | .movlUni _ _ => .u
  | .widf _ _ => .v
  | .widfUni _ _ => .u
  | .aadd _ _ _ => .u
  | .aset _ _ => .u
  | .iset _ _ => .u
  | .movi _ _ => .v
  | .moviUni _ _ => .u
  | .imulhiUnsigned _ _ _ => .v
  | .imulhiUnsignedUni _ _ _ => .u
  | .iminUnsigned _ _ _ => .v
  | .iminUnsignedUni _ _ _ => .u
  | .imaxUnsigned _ _ _ => .v
  | .imaxUnsignedUni _ _ _ => .u
  | .isatUnsigned _ _ _ => .v
  | .isatUnsignedUni _ _ _ => .u
  | .bfeUnsigned _ _ _ => .v
  | .bfeUnsignedUni _ _ _ => .u
  | .fadd _ _ _ => .v
  | .faddUni _ _ _ => .u
  | .fsub _ _ _ => .v
  | .fsubUni _ _ _ => .u
  | .fmul _ _ _ => .v
  | .fmulUni _ _ _ => .u
  | .ffma _ _ _ => .v
  | .ffmaUni _ _ _ => .u
  | .fmin _ _ _ => .v
  | .fminUni _ _ _ => .u
  | .fmax _ _ _ => .v
  | .fmaxUni _ _ _ => .u
  | .fabs _ _ => .v
  | .fabsUni _ _ => .u
  | .fneg _ _ => .v
  | .fnegUni _ _ => .u
  | .frsub _ _ _ => .v
  | .frsubUni _ _ _ => .u
  | .fcmp _ _ _ _ => .v
  | .fcmpUni _ _ _ _ => .u
  | .frcp _ _ => .v
  | .frcpUni _ _ => .u
  | .frsq _ _ => .v
  | .frsqUni _ _ => .u
  | .fsqrt _ _ => .v
  | .fsqrtUni _ _ => .u
  | .fexp2 _ _ => .v
  | .fexp2Uni _ _ => .u
  | .flog2 _ _ => .v
  | .flog2Uni _ _ => .u
  | .fsin _ _ => .v
  | .fsinUni _ _ => .u
  | .fcos _ _ => .v
  | .fcosUni _ _ => .u
  | .dadd _ _ _ => .va
  | .dmul _ _ _ => .va
  | .dfma _ _ _ => .va
  | .hadd2 _ _ _ _ => .v
  | .hadd2Uni _ _ _ _ => .u
  | .hmul2 _ _ _ _ => .v
  | .hmul2Uni _ _ _ _ => .u
  | .hfma2 _ _ _ _ => .v
  | .hfma2Uni _ _ _ _ => .u
  | .rand _ _ => .v
  | .cvt c _ _ _ => (if c.src64 then .va else .v)
  | .cvtExt c _ _ => (if c.src64 || c.dst64 then .va else .v)
  | .cvtUni _ _ _ => .u
  | .npack _ _ _ => .v
  | .nunpack _ _ _ => .v
  | .ld _ _ _ => .m
  | .st _ _ _ => .m
  | .ldUni _ _ _ => .m
  | .stUni _ _ => .m
  | .ldt _ _ => .m
  | .stt _ _ => .m
  | .accrd _ _ _ => .m
  | .accwr _ _ _ => .m
  | .lshuf _ _ _ _ => .m
  | .bcast _ _ _ => .m
  | .bcastUni _ _ _ => .m
  | .xchg _ _ _ => .m
  | .atom _ _ _ => .m
  | .atomBitwise _ _ _ => .m
  | .atomFloat _ _ _ => .m
  | .atomUni _ _ _ => .m
  | _ => .c

/-- The words that must form a chain of one word: those of R54, and every other word that waits unless its entry allows it a chain (R495). -/
def Instr.solo : Instr → Bool
  | .merge => true
  | .yield => true
  | .exit => true
  | .barr _ _ => true
  | .bwait _ => true
  | .bsync _ _ => true
  | .step => true
  | .acq => true
  | .rel => true
  | .rwait _ _ _ => true
  | .swplan _ _ => true
  | .swstat _ => true
  | .xchg _ _ _ => true
  | .cbtake _ _ => true
  | .mwait _ => true
  | .trap _ => true
  | .tret => true
  | .bkpt _ => true
  | _ => false

/-- The words that must be the last of their chain (R54). -/
def Instr.isLast : Instr → Bool
  | .bra _ _ => true
  | .call _ _ => true
  | .split _ => true
  | .jmp _ => true
  | .ret => true
  | _ => false

/-- The B-operand of a per-cell word, and whether it is 64 bits wide. -/
def Instr.bop? : Instr → Option (BOp × Bool)
  | .iadd _ _ b => some (b, false)
  | .isub _ _ b => some (b, false)
  | .irsub _ _ b => some (b, false)
  | .imul _ _ b => some (b, false)
  | .imulhi _ _ b => some (b, false)
  | .imad _ _ b => some (b, false)
  | .imin _ _ b => some (b, false)
  | .imax _ _ b => some (b, false)
  | .iabs _ b => some (b, false)
  | .ineg _ b => some (b, false)
  | .iaddc _ _ b => some (b, false)
  | .isat _ _ b => some (b, false)
  | .and _ _ b => some (b, false)
  | .or _ _ b => some (b, false)
  | .xor _ _ b => some (b, false)
  | .andn _ _ b => some (b, false)
  | .not _ b => some (b, false)
  | .shl _ _ b => some (b, false)
  | .shr _ _ b => some (b, false)
  | .sar _ _ b => some (b, false)
  | .rot _ _ b => some (b, false)
  | .clz _ b => some (b, false)
  | .popc _ b => some (b, false)
  | .brev _ b => some (b, false)
  | .bfe _ _ b => some (b, false)
  | .bfi _ _ b => some (b, false)
  | .sel _ _ b => some (b, false)
  | .icmp _ _ _ b => some (b, false)
  | .icmpUnsigned _ _ _ b => some (b, false)
  | .mov _ b => some (b, false)
  | .movl _ b => some (b, true)
  | .imulhiUnsigned _ _ b => some (b, false)
  | .iminUnsigned _ _ b => some (b, false)
  | .imaxUnsigned _ _ b => some (b, false)
  | .isatUnsigned _ _ b => some (b, false)
  | .bfeUnsigned _ _ b => some (b, false)
  | .fadd _ _ b => some (b, false)
  | .fsub _ _ b => some (b, false)
  | .fmul _ _ b => some (b, false)
  | .ffma _ _ b => some (b, false)
  | .fmin _ _ b => some (b, false)
  | .fmax _ _ b => some (b, false)
  | .fabs _ b => some (b, false)
  | .fneg _ b => some (b, false)
  | .frsub _ _ b => some (b, false)
  | .fcmp _ _ _ b => some (b, false)
  | .frcp _ b => some (b, false)
  | .frsq _ b => some (b, false)
  | .fsqrt _ b => some (b, false)
  | .fexp2 _ b => some (b, false)
  | .flog2 _ b => some (b, false)
  | .fsin _ b => some (b, false)
  | .fcos _ b => some (b, false)
  | .dadd _ _ b => some (b, true)
  | .dmul _ _ b => some (b, true)
  | .dfma _ _ b => some (b, true)
  | .hadd2 _ _ _ b => some (b, false)
  | .hmul2 _ _ _ b => some (b, false)
  | .hfma2 _ _ _ b => some (b, false)
  | .cvt c _ _ b => some (b, c.src64)
  | .cvtExt c _ b => some (b, c.src64)
  | .accrd _ _ b => some (b, false)
  | .accwr _ _ b => some (b, false)
  | .lshuf _ _ _ b => some (b, false)
  | _ => none

namespace Machine

/-- Two words of a chain name one destination (R53). -/
def conflicts (xs ys : List RegRef) : Bool := xs.any (fun r => r != .p 7 && r != .k 7 && ys.contains r)

/-- The words of a chain cannot all have a pipe (R52). -/
def pipesClash (ps : List Pipe) : Bool :=
  decide (1 < ps.count .va) || decide (2 < ps.count .va + ps.count .v) || decide (1 < ps.count .u) ||
  decide (1 < ps.count .m) || decide (1 < ps.count .c)

/-! ## The lattice -/

/-- Where a wave of the run stands for a reader at a step (R123, R129, R493): at that step or beyond or wholly exited,
behind it, or on a peer that no route reaches. -/
inductive Stand where
  | reached | behind | lost (dev : Nat)
deriving DecidableEq, Repr

/-- A peer device is unreachable by both routes (spec/25_link.md R430). -/
def State.lost (s : State) (dev : Nat) : Bool :=
  match Tbl.find s.peers dev with
  | none => false
  | some p => p.reach == .unreachable

/-- What the reader's die holds of a wave of another device. -/
def State.haloFor (s : State) (w : Wave) (idx : Nat) : Option HaloWave := (s.kern w.kern).bind (fun k => k.haloOf (s.dieOf w) idx)

/-- Where the wave with a logical index of the run stands now for a wave that reads it at its own step. -/
def State.standNow (s : State) (w : Wave) (idx : Nat) : Stand :=
  let h := s.hdr w.kern
  let dev := h.field (idx * h.cells) 5
  if h.onDev s.dev (idx * h.cells) then
    match s.waveAt w.kern idx with
    | none => .behind
    | some (_, x) => if x.whole || stepAtLeast x.step w.step then .reached else .behind
  else
    match s.haloFor w idx with
    | some x => if x.dispatched && (x.whole || stepAtLeast x.step w.step) then .reached
                else if s.lost dev then .lost dev else .behind
    | none => if s.lost dev then .lost dev else .behind

/-- Where a wave stands for a reader: in deterministic mode no further than it stood as the reader's quantum began
(spec/11_group.md R231). -/
def State.stand (s : State) (w : Wave) (idx : Nat) : Stand :=
  match s.standNow w idx with
  | .reached => if (w.view.map (fun v => v.behind.contains idx)).getD false then .behind else .reached
  | x => x

/-- Bank(n, v, b) of the cell with a WID for a reading wave, with the step at which it exited. -/
def State.bankOf (s : State) (w : Wave) (wid : Nat) : Option Word × (Nat → Nat → Word) :=
  let h := s.hdr w.kern
  let idx := wid / h.cells
  let f := wid % h.cells
  if h.onDev s.dev wid then
    match s.waveAt w.kern idx with
    | none => (none, fun _ _ => 0)
    | some (_, x) => (Tbl.find x.exits f, fun n b => x.getBank f n b)
  else
    match s.haloFor w idx with
    | none => (none, fun _ _ => 0)
    | some x => (Tbl.find x.exits f, fun n b => NMap.get 0 x.bank (64 * f + 2 * n + b))

/-- Readable(n, v, k) for a wave at step k (R122). -/
def State.readable (s : State) (w : Wave) (wid v : Nat) : Word :=
  let (e, bank) := s.bankOf w wid
  match e with
  | some x => if stepAtLeast w.step (x + 1) then bank v (uv x % 2) else bank v (uv (w.step - 1) % 2)
  | none => bank v (uv (w.step - 1) % 2)

/-- What a neighbour operand of cell f of a wave reads (R115, R141). -/
def State.nbrVal (s : State) (w : Wave) (f ax : Nat) (plus : Bool) (v : Nat) : Word :=
  let h := s.hdr w.kern
  let wid := w.wid h f
  match h.neighbour wid ax plus with
  | .cell n => s.readable w n v
  | .zero => 0
  | .clamp => s.readable w wid v

/-- The worse of two standings of R123. -/
def Stand.both : Stand → Stand → Stand
  | .lost d, _ => .lost d
  | .behind, .lost d => .lost d
  | .behind, _ => .behind
  | .reached, x => x

/-- Where the waves behind a neighbour operand stand for the listed cells (R123). -/
def State.nbrStand (s : State) (w : Wave) (ax : Nat) (plus : Bool) : List Nat → Stand
  | [] => .reached
  | f :: fs =>
    let h := s.hdr w.kern
    let x : Stand := match h.neighbour (w.wid h f) ax plus with
      | .cell n => if n / h.cells = w.idx then .reached else s.stand w (n / h.cells)
      | _ => .reached
    x.both (s.nbrStand w ax plus fs)

/-- The neighbour set of a wave, as logical indexes (R121). -/
def nbrSet (h : Header) (w : Wave) : List Nat :=
  ((List.range h.cells).flatMap (fun f =>
    [0, 1, 2].flatMap (fun ax =>
      if (h.axisFields ax).isEmpty then []
      else [false, true].flatMap (fun p =>
        match h.neighbour (w.wid h f) ax p with
        | .cell n => if n / h.cells = w.idx then [] else [n / h.cells]
        | _ => [])))).eraseDups

/-- Where the neighbour set stands for a STEP or an EXIT (R123). -/
def State.setStand (s : State) (w : Wave) : List Nat → Stand
  | [] => .reached
  | i :: is => (s.stand w i).both (s.setStand w is)

/-- The gate that a standing gives: a stall, or LINKERR with the peer (R123, R129). -/
def Stand.gate : Stand → Gate
  | .reached => .ok
  | .behind => .stall
  | .lost d => .trap 18 (BitVec.ofNat 32 d)

/-- The checks of a neighbour operand in the order of R63. -/
def nbrGate (s : State) (w : Wave) (b : BOp) (wide : Bool) : Gate :=
  match b with
  | .nbr ax plus r =>
    let h := s.hdr w.kern
    if (h.axisFields ax.num).isEmpty then .trap 3 (BitVec.ofNat 32 s.chain.slot)
    else if !(h.isPub r.toNat && (!wide || h.isPub (r.toNat + 1))) then .trap 4 (BitVec.ofNat 32 s.chain.slot)
    else (s.nbrStand w ax.num plus (cellsOf w.active)).gate
  | _ => .ok

end Machine

/-! ## The value of a B-operand -/

/-- Bval(c) of a 32-bit integer type or bit pattern (R141). -/
def BOp.val (s : State) (w : Wave) (b : BOp) (f : Nat) : Word :=
  match b with
  | .v r => w.getV f r.toNat
  | .s r => w.getS r.toNat
  | .imm i => i.signExtend 32
  | .lit x => x
  | .nbr ax plus r => s.nbrVal w f ax.num plus r.toNat

/-- Bval(c) of an FP32 type: an immediate is the integer's exact value (R62). -/
def BOp.fval (s : State) (w : Wave) (b : BOp) (f : Nat) : Word :=
  match b with
  | .imm i => BitVec.ofNat 32 (f32.roundNE (ofInt (sv i)))
  | _ => b.val s w f

/-- Bval(c) of a packed 16-bit type: an immediate stands in both halves (R62). -/
def BOp.hval (s : State) (w : Wave) (m : HFmt) (b : BOp) (f : Nat) : Word :=
  match b with
  | .imm i => let x := BitVec.ofNat 16 ((hfmt m).roundNE (ofInt (sv i))); x ++ x
  | _ => b.val s w f

/-- Bval(c) of a 64-bit integer type. -/
def BOp.val64 (s : State) (w : Wave) (b : BOp) (f : Nat) : BitVec 64 :=
  match b with
  | .v r => w.getV64 f r.toNat
  | .s r => w.getS64 r.toNat
  | .imm i => i.signExtend 64
  | .lit x => x.signExtend 64
  | .nbr ax plus r => s.nbrVal w f ax.num plus (r.toNat + 1) ++ s.nbrVal w f ax.num plus r.toNat

/-- Bval(c) of an FP64 type: a literal is an FP32 value widened exactly (R56). -/
def BOp.dval (s : State) (w : Wave) (b : BOp) (f : Nat) : BitVec 64 :=
  match b with
  | .imm i => BitVec.ofNat 64 (f64.roundNE (ofInt (sv i)))
  | .lit x => BitVec.ofNat 64 (f64.roundNE (f32.decode x.toNat))
  | _ => b.val64 s w f

/-- Bval(w) of a uniform word. -/
def UOp.val (w : Wave) (b : UOp) : Word :=
  match b with
  | .s r => w.getS r.toNat
  | .imm i => i.signExtend 32
  | .lit x => x
def UOp.fval (w : Wave) (b : UOp) : Word :=
  match b with
  | .imm i => BitVec.ofNat 32 (f32.roundNE (ofInt (sv i)))
  | _ => b.val w
def UOp.hval (w : Wave) (m : HFmt) (b : UOp) : Word :=
  match b with
  | .imm i => let x := BitVec.ofNat 16 ((hfmt m).roundNE (ofInt (sv i))); x ++ x
  | _ => b.val w
def UOp.val64 (w : Wave) (b : UOp) : BitVec 64 :=
  match b with
  | .s r => w.getS64 r.toNat
  | .imm i => i.signExtend 64
  | .lit x => x.signExtend 64

end Sys2Proof
end

