-- ==== Sys2Proof/Machine/Issue.lean ====
section
/-! DEFINITION. How a word issues: the checks every word makes, in the order of spec/04_opcode_map.md R79, and what
becomes of it (spec/03_formats.md R53, R55, R68, R495). -/
namespace Sys2Proof.Machine

/-- A register list names V32 or above (R68). -/
def needsExt (rs : List RegRef) : Bool :=
  rs.any (fun r => match r with
    | .v n => decide (32 ≤ n)
    | _ => false)

/-- The scoreboard holds a register of the list (spec/00_scope.md R14). -/
def Wave.holdsUp (w : Wave) (rs : List RegRef) : Bool := rs.any (fun r => w.pend.any (fun p => p.1 == r))

/-- A chain or a word with this verdict issues or takes a fault. -/
def Gate.goes : Gate → Bool
  | .ok => true
  | .trap _ _ => true
  | _ => false

/-- The checks of a word: the scoreboard, unless the word already waits (R495); then XREG, the neighbour checks, and the
issue checks of its own entry. A destination still to be written by an earlier word counts as incomplete too
(notes/assumptions/10.md). -/
def gate (i : Instr) (w : Wave) (s : State) (own : Gate) : Gate :=
  if w.hold.isNone && w.holdsUp (i.srcs ++ i.dsts) then .pend
  else if !w.ext && needsExt (i.srcs ++ i.dsts) then .trap 2 (BitVec.ofNat 32 s.chain.slot)
  else match i.bop? with
    | none => own
    | some (b, wide) =>
      match nbrGate s w b wide with
      | .ok => own
      | g => g

/-- The wave goes on past the chain. -/
def Wave.advance (next : Word) (w : Wave) : Wave := { w with pc := next, hold := none, redo := 0, st := .ready }

/-- The issuing wave goes on past the chain in hand. -/
def State.pass (s : State) (n : Nat) : State :=
  { s.modWave n (·.advance s.chain.next) with chain := { s.chain with verdict := .ok } }

/-- A word that does not issue: it takes its fault, waits (keeping what it fixed when the wait began) or stalls. -/
def turnAway (n : Nat) (g : Gate) (s : State) : State :=
  let s := { s with chain := { s.chain with verdict := g } }
  match g with
  | .ok => s
  | .trap c a => takeFault c a s
  | .wait d => s.modWave n (fun w => { w with st := .waiting, hold := some (w.hold.getD { idx := s.chain.ix, data := d }) })
  | .pend => s.modWave n (fun w => { w with st := .waiting })
  | .stall => s.modWave n (fun w => { w with st := .stalled })
  | .offer p a => s.modWave n (fun w => { w with st := .waiting, offer := some ⟨p, a, none⟩ })

/-- The first time a word on its own begins to wait, what it does before it waits. -/
def firstWait (s : State) (g : Nat → Wave → State → State) (o : Host.Outcome State Fault Refusal) :
    Host.Outcome State Fault Refusal :=
  match s.curWave, o with
  | some (n, w), .next s' =>
    (match s'.chain.verdict with
     | .wait _ => if w.hold.isNone && s.chain.phase == .direct then .next (g n w s') else .next s'
     | _ => .next s')
  | _, o => o

/-- The wave as a word that waits in its chain reads it: where the chain's other words have completed, with the S and D registers of
before the chain (R53, R495). -/
def Wave.prior (w : Wave) : Wave :=
  match w.hold.bind (·.src) with
  | some (s, d) => { w with s := s, d := d }
  | none => w

/-- A word issues: on its own it is checked and then takes effect; of a chain of several words every word is first
checked, and then every word takes effect on the sources as they stood before the chain (R53). `own` gives the issue
checks of the word's entry and `eff` its effect, from the issuing wave as it reads it. A word that may wait in its chain
is checked again in its turn, with the entries that the words before it have appended (R495). -/
def issue (i : Instr) (s : State) (own : Nat → Wave → State → Gate) (eff : Nat → Wave → State → State) :
    Host.Outcome State Fault Refusal :=
  match s.curWave with
  | none => .fault .noWave
  | some (n, w) =>
    match s.chain.phase with
    | .direct =>
      match gate i w s (own n w.prior s) with
      | .ok => .next (eff n w.prior (s.pass n))
      | g => .next (turnAway n g s)
    | .probe =>
      let w := match s.chain.src with
        | some x => { x with seqs := w.seqs, buf := w.buf }
        | none => w.prior
      .next { s with chain := { s.chain with verdict := gate i w s (own n w s) } }
    | .commit => .next (eff n (s.chain.src.getD w) s)

/-- No issue check of its own. -/
def free (_ : Nat) (_ : Wave) (_ : State) : Gate := .ok

/-- The slot of the word in hand, as a fault's argument. -/
def State.slotArg (s : State) : Word := BitVec.ofNat 32 s.chain.slot

/-- A per-cell word that writes Vd of the active cells (spec/07_isa_integer.md R142). -/
def perCell (i : Instr) (s : State) (d : VReg) (g : State → Wave → Nat → Word) : Host.Outcome State Fault Refusal :=
  issue i s free (fun n w s' => s'.modWave n (fun x => x.setVs d.toNat (g s w) (cellsOf w.active)))

/-- A per-cell word that writes the pair Vd, Vd+1 of the active cells. -/
def perCell64 (i : Instr) (s : State) (d : VReg) (g : State → Wave → Nat → BitVec 64) : Host.Outcome State Fault Refusal :=
  issue i s free (fun n w s' => s'.modWave n (fun x => x.setV64s d.toNat (g s w) (cellsOf w.active)))

/-- A per-cell word that writes Pd of the active cells. -/
def perCellP (i : Instr) (s : State) (d : PReg) (g : State → Wave → Nat → Bool) : Host.Outcome State Fault Refusal :=
  issue i s free (fun n w s' => s'.modWave n (fun x => x.setPs d.toNat (g s w) (cellsOf w.active)))

/-- A uniform word that changes the wave alone, once per wave. -/
def uniform (i : Instr) (s : State) (g : Wave → Wave → Wave) : Host.Outcome State Fault Refusal :=
  issue i s free (fun n w s' => s'.modWave n (g w))

end Sys2Proof.Machine
end

