-- ==== Sys2Proof/Machine/Fetch.lean ====
section
/-! DEFINITION. Fetching: packets, the kinds of their words, branch targets, and the chain at a PC with the rules it must
meet before it issues (spec/03_formats.md R47-R57, spec/04_opcode_map.md R79). -/
namespace Sys2Proof.Machine

/-- The word decodes to an instruction with a literal. -/
def hasLit (w : Word) : Bool :=
  match decodeRaw w (some 0) with
  | .ok i => i.lit?.isSome
  | .error _ => false

/-- A word whose B-operand is LIT32, so that the next word is its literal (R50, R56). What the D and A fields hold does
not matter. -/
def takesLit (w : Word) : Bool :=
  w.extractLsb' 0 9 == 0x0FF &&
  (hasLit w || hasLit (w &&& 0xFFE001FF))

/-- The three words of the packet at a byte offset; none where the code segment has no frame. -/
def packetAt (s : State) (w : Wave) (base : Nat) : Option (List Word) :=
  (s.vread (s.kernVf w.kern) ((s.hdr w.kern).codebase + base) 12).map
    (fun bs => [leWord bs, leWord (bs.drop 4), leWord (bs.drop 8)])

/-- From a slot on: whether `slot` is the first word of a chain; `cont` says that the word before is chained to this
one (R50). -/
def startsAt (p : List Word) (slot : Nat) : Nat → Nat → Bool → Bool
  | 0, _, _ => false
  | n + 1, at_, cont =>
    let w := p.getD at_ 0
    if at_ = slot then !cont
    else if slot < at_ then false
    else startsAt p slot n (at_ + (if at_ < 2 && takesLit w then 2 else 1)) (w.getLsbD 31)

/-- A legal branch target: a multiple of 4, inside the code segment, and the first word of a chain (R57). -/
def legalTarget (s : State) (w : Wave) (pc : Word) : Bool :=
  decide (uv pc % 4 = 0) && decide (uv pc < 12 * (s.hdr w.kern).codelen) &&
  (match packetAt s w (uv pc - uv pc % 12) with
   | some p => startsAt p (uv pc % 12 / 4) 3 0 false
   | none => false)

/-- A word of a chain: its slot, its place among the instruction words, and the instruction it decodes to. -/
structure Piece where
  slot : Nat
  ix : Nat
  i : Option Instr
deriving DecidableEq, Repr

/-- The words of the chain that begins at a slot, and the slot after it (R51). A set chain bit with no instruction word
behind it leaves its word without a meaning. -/
def pieces (p : List Word) : Nat → Nat → Nat → List Piece × Nat
  | 0, slot, _ => ([], slot)
  | n + 1, slot, ix =>
    let w := p.getD slot 0
    let nx := slot + (if slot < 2 && takesLit w then 2 else 1)
    let i := match decodeWord w (if slot < 2 then some (p.getD (slot + 1) 0) else none) with
      | .ok (_, i) => some i
      | .error _ => none
    if w.getLsbD 31 then
      if 2 < nx then ([⟨slot, ix, none⟩], nx)
      else
        let r := pieces p n nx (ix + 1)
        (⟨slot, ix, i⟩ :: r.1, r.2)
    else ([⟨slot, ix, i⟩], nx)

/-- The slot of the first word with an ILLOP condition: no meaning, a pipe or a destination it cannot have beside the
words before it, or a place in the chain that its entry forbids (R52, R53, R54). DESIGN CHOICE: of two words that need one pipe or
name one destination the later has the condition (notes/assumptions/97.md). -/
def firstBad (multi : Bool) (ds : List RegRef) (pipes : List Pipe) : List Piece → Option Nat
  | [] => none
  | p :: rest =>
    match p.i with
    | none => some p.slot
    | some i =>
      if (multi && i.solo) || (i.isLast && !rest.isEmpty) || conflicts i.dsts ds || pipesClash (i.pipe :: pipes) then some p.slot
      else firstBad multi (ds ++ i.dsts) (i.pipe :: pipes) rest

/-- What stands at a PC: no frame, no legal chain start, an illegal word, or a chain with the PC after it. -/
inductive Fetched where
  | unmapped
  | badTarget
  | illegal (slot : Nat)
  | chain (ps : List Piece) (next : Word)
deriving DecidableEq, Repr

/-- A word that a context in reduced service does not have (spec/30_bringup.md R485). -/
def fullOnly (i : Instr) : Bool :=
  match i with
  | .dadd _ _ _ | .dmul _ _ _ | .dfma _ _ _ | .npack _ _ _ | .nunpack _ _ _ => true
  | .hadd2 m _ _ _ | .hmul2 m _ _ _ | .hfma2 m _ _ _ => m == .f16
  | .hadd2Uni m _ _ _ | .hmul2Uni m _ _ _ | .hfma2Uni m _ _ _ => m == .f16
  | .cvt c _ _ _ => c == .f16f32 || c == .f32f64
  | .cvtExt c _ _ => c == .s32f64rn || c == .s32f64rz || c == .f32f16 || c == .f64f32 || c == .f64s32 || c == .f64u32
  | .mma m _ => m != .bf16
  | .mdrain m _ _ _ _ => m != .f32 && m != .bf16
  | _ => false

/-- In reduced service a word of full service has no meaning. -/
def reducedPieces (s : State) (w : Wave) (ps : List Piece) : List Piece :=
  if ((s.ctx (s.kernVf w.kern)).map (·.reduced)).getD false then
    ps.map (fun p => { p with i := p.i.filter (fun i => !fullOnly i) })
  else ps

/-- Fetch the chain at a PC. -/
def fetch (s : State) (w : Wave) (pc : Word) : Fetched :=
  if uv pc % 4 ≠ 0 ∨ 12 * (s.hdr w.kern).codelen ≤ uv pc then .badTarget
  else match packetAt s w (uv pc - uv pc % 12) with
    | none => .unmapped
    | some p =>
      if startsAt p (uv pc % 12 / 4) 3 0 false then
        let r := pieces p 3 (uv pc % 12 / 4) 0
        let ps := reducedPieces s w r.1
        match firstBad (decide (1 < ps.length)) [] [] ps with
        | some slot => .illegal slot
        | none => .chain ps (BitVec.ofNat 32 (uv pc - uv pc % 12 + 4 * r.2))
      else .badTarget

/-- The PC that a BADTGT of a fetch records: beyond the code segment the first offset behind its last word (R49), else the PC itself
(R57, notes/assumptions/22.md). -/
def badFetchPc (s : State) (w : Wave) : Word :=
  let e := 12 * (s.hdr w.kern).codelen
  if e ≤ uv w.pc then BitVec.ofNat 32 e else w.pc

/-- The words of a chain that are to issue: all of them, or those marked for re-issue (R55). -/
def chosen (w : Wave) (ps : List Piece) : List (Nat × Nat × Instr) :=
  ps.filterMap (fun p => if w.redo == 0 || w.redo.getLsbD p.ix then p.i.map (fun i => (p.slot, p.ix, i)) else none)

/-- The sequencers of a wave at whose tails a word appends an entry as it issues (spec/13_ordering.md R250, R260). -/
def tailsOf (w : Wave) : Instr → List Nat
  | .fenceAll _ | .mrdy | .cbfree _ => (w.seqs.filter (fun q => q.2.live)).map (·.1)
  | .ld _ _ a | .st _ _ a | .ldUni _ _ a | .stUni _ a | .atom _ _ a | .atomBitwise _ _ a | .atomFloat _ _ a | .atomUni _ _ a =>
    [(w.getH a.h.toNat).seq]
  | .ldt _ a | .stt _ a => [(w.getH a.h.toNat).seq]
  | .barr h _ | .bsync h _ | .hpass h _ | .fence _ h | .resq _ h | .pagereq _ h => [(w.getH h.toNat).seq]
  | .cpy o | .tcpy o | .gath o | .scat o | .rst o | .rld o | .rred o | .ratom o | .rcpy o | .swgo o | .swresume o =>
    [(w.getH o.hnd.toNat).seq]
  | _ => []

/-- Every sequencer has room for what the words of one chain append together: 64 entries each (spec/14_handle.md R272). -/
def chainRoom (w : Wave) (is : List Instr) : Bool :=
  let ts := is.flatMap (tailsOf w)
  ts.all (fun q => decide ((w.seqAt q).entries.length + ts.count q ≤ 64))

/-- The words that may wait in a chain of several (spec/03_formats.md R495). -/
def waitsInChain (i : Instr) : Bool :=
  match i with
  | .hwait _ => true
  | .hwaitRet _ => true
  | .launch _ _ => true
  | .tcpy _ => true
  | _ => false

/-- What the checks of a chain whose registers are complete say together (spec/04_opcode_map.md R79): ILLOP alone, else what the first
word in slot order says that cannot issue, else that the sequencers have no room for all that it appends. A word that waits after it has
issued does not hold the chain back (R495). DESIGN CHOICE: a word that waits before issue keeps what later words would raise from being
found until its wait ends (notes/assumptions/104.md). -/
def verdictOf (w : Wave) (vs : List (Nat × Nat × Instr × Gate)) : Nat × Nat × Gate :=
  let ill := vs.find? (fun v => match v.2.2.2 with | .trap c _ => c == 0 | _ => false)
  let bad := vs.find? (fun v => match v.2.2.2 with | .ok | .wait _ => false | _ => true)
  match ill <|> bad with
  | some v => (v.1, v.2.1, v.2.2.2)
  | none =>
    let go := vs.filter (fun v => v.2.2.2 == .ok)
    if chainRoom w (go.map (·.2.2.1)) then (0, 0, .ok) else (((vs.head?).map (·.1)).getD 0, 0, .pend)

/-- The chain after the one at a PC, from chain bits and literals alone (spec/10_isa_control.md R215). -/
def afterChain (s : State) (w : Wave) (pc : Word) : Word :=
  match packetAt s w (uv pc - uv pc % 12) with
  | none => pc
  | some p => BitVec.ofNat 32 (uv pc - uv pc % 12 + 4 * (pieces p 3 (uv pc % 12 / 4) 0).2)

/-- One bit for each instruction word of the chain at a PC (spec/13_ordering.md R268). -/
def chainMask (s : State) (w : Wave) (pc : Word) : BitVec 3 :=
  match packetAt s w (uv pc - uv pc % 12) with
  | none => 1
  | some p => BitVec.ofNat 3 (2 ^ (pieces p 3 (uv pc % 12 / 4) 0).1.length - 1)

/-- The resume mask of a fault that an engine or a fabric target found: the waiting word alone, the words still to be
issued again, or the whole chain (R268, R481, R495). -/
def resumeMask (s : State) (w : Wave) : BitVec 3 :=
  match w.hold with
  | some h => BitVec.ofNat 3 (2 ^ h.idx)
  | none => if w.redo = 0 then chainMask s w w.pc else w.redo

end Sys2Proof.Machine
end

