-- ==== Sys2Proof/Machine/Window.lean ====
section
/-! DEFINITION. Scratchpad windows: the layout of canonical tiles, the layout of drained rows, and the one operation by
which bytes reach a window, with what a store into the operands of a matrix operation leaves behind
(spec/09_isa_memory.md R179-R190, R202, spec/18_copy.md R339, spec/20_matrix.md R363, R373, R374). -/
namespace Sys2Proof.Machine

/-! ## Canonical tiles -/

/-- Bits of an element of a storage format (R188). -/
def fmtBits (f : BitVec 3) : Nat :=
  if f = 0 then 32 else if f = 1 ∨ f = 2 then 16 else if f = 3 ∨ f = 5 then 8 else 4
/-- The format has a side plane. -/
def fmtSided (f : BitVec 3) : Bool := decide (3 ≤ f.toNat)
/-- ER, the elements of a row (R339). -/
def TileReg.er (d : TileReg) : Nat := uv d.pitch * 8 / fmtBits d.fmt
/-- The address of word (r, c) of a tile with an origin (R189). -/
def TileReg.word (d : TileReg) (o r c : Nat) : Nat := o + r * uv d.pitch + 256 * (c / 64) + 4 * ((c % 64 + r) % 64)
/-- The address of the byte that holds element j of row r. -/
def TileReg.elByte (d : TileReg) (o r j : Nat) : Nat :=
  let per := 32 / fmtBits d.fmt
  d.word o r (j / per) + j % per * fmtBits d.fmt / 8
/-- SIDE for the array: the side plane behind the rows (R363). -/
def TileReg.side (d : TileReg) (o : Nat) : Nat := o + d.rows.toNat * uv d.pitch
/-- The address of the side word of block (r, β). -/
def TileReg.sideWord (d : TileReg) (side r β : Nat) : Nat := side + 4 * (r * d.er / 32 + β)

/-- Bytes of a team's window. -/
def readWin (s : State) (t a n : Nat) : List Byte :=
  match s.team t with
  | none => readBytes 0 [] a n
  | some m => m.read a n

/-- The code of element j of row r of a tile in a window. -/
def tileCode (s : State) (t : Nat) (d : TileReg) (org r j : Nat) : Nat :=
  let x := natOf (readWin s t (d.elByte org r j) ((fmtBits d.fmt + 7) / 8))
  if fmtBits d.fmt = 4 then x / 16 ^ (j % 2) % 16 else x

/-- The array reads a changed byte of the side word of block (r, β): an exponent of TX that some element of the block selects, the zero
point of OB8, the low four bits of that of OB4 (spec/05_numbers.md R91, R95, spec/20_matrix.md R365). `bits` are the bits that differ. -/
def sideRead (s : State) (t : Nat) (d : TileReg) (org r β b bits : Nat) : Bool :=
  let sel := if d.fmt = 3 then 7 else 3
  if d.fmt = 3 ∨ d.fmt = 4 then
    decide (b < 2) && (List.range 32).any (fun j => (tileCode s t d org r (32 * β + j)).testBit sel == (b == 1))
  else b == 2 && (d.fmt == 5 || bits % 16 != 0)

/-- The tile row, below 128, that changes for the array with a byte: one of its first K elements holds the byte, or what the array reads
of the side word of one of their blocks. -/
def TileReg.rowOf (s : State) (t : Nat) (d : TileReg) (o K a bits : Nat) : Option Nat :=
  let p := uv d.pitch
  if p = 0 ∨ a < o then none
  else if a < o + 128 * p then
    let r := (a - o) / p
    let q := (a - o) % p
    let c := 64 * (q / 256) + (q % 256 / 4 + 64 - r % 64) % 64
    if (4 * c + q % 4) * 8 / fmtBits d.fmt < K then some r else none
  else if fmtSided d.fmt && decide (d.side o ≤ a) && decide (0 < d.er / 32) then
    let x := (a - d.side o) / 4
    let r := x / (d.er / 32)
    let β := x % (d.er / 32)
    if r < 128 ∧ 32 * β < K ∧ sideRead s t d o r β ((a - d.side o) % 4) bits then some r else none
  else none

/-! ## Drained rows (R374) -/

/-- Bytes of a drained row. -/
def drainRow : DrainFmt → Nat
  | .f32 => 512
  | .bf16 => 256
  | .tx4 => 64
  | .e2m1 => 64
  | _ => 128
/-- The output has side words. -/
def drainSided : DrainFmt → Bool
  | .f32 => false
  | .bf16 => false
  | _ => true
/-- The window offsets that depend on drained element (i, j): its own bytes, or its block with the side word. -/
def drainBytes (m : DrainFmt) (edst epitch sdst i j : Nat) : List Nat :=
  if drainSided m then
    let n := drainRow m / 4
    (List.range n).map (fun k => edst + i * epitch + j / 32 * n + k) ++
      (List.range 4).map (fun k => sdst + 4 * (4 * i + j / 32) + k)
  else
    let n := drainRow m / 128
    (List.range n).map (fun k => edst + i * epitch + j * n + k)

/-! ## What a store does to the operands of an issued matrix operation (R202) -/

/-- The bits of the rows that changed bytes (offset, the bits that differ) belong to. -/
def rowBits (row : Nat → Nat → Option Nat) (xs : List (Nat × Nat)) : BitVec 128 :=
  xs.foldl (fun m x =>
    match row x.1 x.2 with
    | some r => m ||| BitVec.ofNat 128 (2 ^ r)
    | none => m) 0

/-- The rows of A, or row scales, that changed bytes of team t's window touch. -/
def MatOp.hitsA (s : State) (t : Nat) (xs : List (Nat × Nat)) (o : MatOp) : BitVec 128 :=
  match o.k with
  | .zero => 0
  | .mma _ kc ra at_ org d _ _ _ => if !ra && at_ == t then rowBits (d.rowOf s t org (32 * 2 ^ kc)) xs else 0
  | .drain _ _ _ _ _ _ _ scv =>
    if o.team == t && scv != 0xFFFFFFFF then
      rowBits (fun x _ => if uv scv ≤ x ∧ x < uv scv + 512 then some ((x - uv scv) / 4) else none) xs
    else 0

/-- The rows of B, or column scales, that changed bytes touch. -/
def MatOp.hitsB (s : State) (t : Nat) (xs : List (Nat × Nat)) (o : MatOp) : BitVec 128 :=
  match o.k with
  | .zero => 0
  | .mma _ kc _ _ _ _ bt org d => if bt == t then rowBits (d.rowOf s t org (32 * 2 ^ kc)) xs else 0
  | .drain _ _ _ _ _ _ _ scv =>
    if o.team == t && scv != 0xFFFFFFFF then
      rowBits (fun x _ => if uv scv + 512 ≤ x ∧ x < uv scv + 1024 then some ((x - uv scv - 512) / 4) else none) xs
    else 0

/-- The elements (i, j) that rows in `ra` or columns in `cb` reach. -/
def dirtyEls (ra cb : BitVec 128) : List (Nat × Nat) :=
  if ra == 0 && cb == 0 then []
  else (List.range 128).flatMap (fun i =>
    ((List.range 128).filter (fun j => ra.getLsbD i || cb.getLsbD j)).map (fun j => (i, j)))

/-- The key of element (i, j) of a tile. -/
def tileKey (t i j : Nat) : Nat := (128 * t + i) * 128 + j

/-- Elements of a pair's tile become free values (R6). -/
def freeTile (p t : Nat) : List (Nat × Nat) → State → State
  | [], s => s
  | (i, j) :: es, s =>
    let (x, s) := s.freeWord
    freeTile p t es { s with pairs := Tbl.modify (fun g => { g with tiles := NMap.set 0 g.tiles (tileKey t i j) x }) s.pairs p }

/-- Window bytes become free values. DESIGN CHOICE (notes/assumptions/5.md): one free value is written for each byte, so every later read of it
    answers the same value until it is written again; R6 lets two reads differ. -/
def freeWin (t : Nat) : List Nat → State → State
  | [], s => s
  | a :: as, s =>
    freeWin t as { s.modTeam t (fun m => m.write a [Config.freeByte s.tick]) with tick := s.tick + 1 }

/-- An operation leaves 0 in every element of its tile. -/
def MatKind.clears : MatKind → Bool
  | .zero => true
  | .drain _ _ z _ _ _ _ _ => z
  | _ => false

/-- Elements that a started operation left in its tile become free values, unless the tile has been cleared since, and so does what a
drain has made of them. -/
def spoilTile (p : Nat) (o : MatOp) (els : List (Nat × Nat)) (s : State) : State :=
  let s := if o.gone then s else freeTile p o.tile els s
  o.drains.foldl (fun s d => match d with
    | (t, m, e, ep, sd) => freeWin t ((els.flatMap (fun x => drainBytes m e ep sd x.1 x.2)).eraseDups) s) s

/-- What a write leaves of a matrix operation that has started: the elements or drained bytes that depend on it. -/
def spoil (p : Nat) (o : MatOp) (ra cb : BitVec 128) (s : State) : State :=
  match o.k with
  | .zero => s
  | .mma _ _ _ _ _ _ _ _ _ => spoilTile p o (dirtyEls ra cb) s
  | .drain m _ _ e ep sd _ _ =>
    freeWin o.team (((dirtyEls ra cb).flatMap (fun x => drainBytes m (uv e) (uv ep) (uv sd) x.1 x.2)).eraseDups) s

/-- The operation with the marks of a write made after its ready fence opened. -/
def MatOp.markBy (s : State) (t : Nat) (xs : List (Nat × Nat)) (o : MatOp) : MatOp :=
  if o.opened then { o with dirtyA := o.dirtyA ||| o.hitsA s t xs, dirtyB := o.dirtyB ||| o.hitsB s t xs } else o

/-- Note the changed bytes of team t's window: for the waves whose ready fence has opened, and for the matrix operations
issued behind one. -/
def noteWrite (t : Nat) (xs : List (Nat × Nat)) (s : State) : State :=
  let begun := s.pairs.flatMap (fun p => (p.2.queue ++ p.2.settled).filterMap (fun o =>
    if o.opened && o.started && !(o.hitsA s t xs == 0 && o.hitsB s t xs == 0) then some (p.1, o) else none))
  let s := { s with
    waves := Tbl.mapVals (fun _ w => match w.mrdy with
      | some (_, true) => { w with wrote := xs.map (fun x => (t, x.1, x.2)) ++ w.wrote }
      | _ => w) s.waves
    pairs := Tbl.mapVals (fun _ p => { p with queue := p.queue.map (MatOp.markBy s t xs) }) s.pairs
    teams := Tbl.mapVals (fun _ m => { m with frozen := m.frozen.map (MatOp.markBy s t xs) }) s.teams }
  begun.foldl (fun s x => spoil x.1 x.2 (x.2.hitsA s t xs) (x.2.hitsB s t xs) s) s

/-- The operation reads A from the registers of a wave. -/
def MatOp.readsRegs (n : Nat) (o : MatOp) : Bool :=
  o.wave == n && (match o.k with
    | .mma _ _ ra _ _ _ _ _ _ => ra
    | _ => false)

/-- Registers V32 to V63 of cells of a wave are written or released: the rows of A that a started operation reads from
them leave free values in its tile (spec/20_matrix.md R366). -/
def raWrite (n : Nat) (cells : List Nat) (s : State) : State :=
  let ops := s.pairs.flatMap (fun p => ((p.2.queue ++ p.2.settled).filter (fun o => o.started && o.readsRegs n)).map (fun o => (p.1, o)))
  ops.foldl (fun s x =>
    spoilTile x.1 x.2 ((cells.filter (fun f => decide (f < 128) && x.2.rows.getLsbD f)).flatMap (fun i => (List.range 128).map (fun j => (i, j)))) s) s

/-- REL discards registers that operations which have not started are still to read: their rows are marked as changed (R366,
spec/11_group.md R226). -/
def raRelease (n : Nat) (cells : List Nat) (s : State) : State :=
  let rows := cells.foldl (fun (m : BitVec 128) f => m ||| BitVec.ofNat 128 (2 ^ f)) 0
  let mark (o : MatOp) := if !o.started && o.readsRegs n then { o with dirtyA := o.dirtyA ||| rows } else o
  raWrite n cells { s with
    pairs := Tbl.mapVals (fun _ p => { p with queue := p.queue.map mark }) s.pairs
    teams := Tbl.mapVals (fun _ m => { m with frozen := m.frozen.map mark }) s.teams }

/-- The bytes at which two strings differ, from a place on: (place, the bits that differ). -/
def changes (a : Nat) : List Byte → List Byte → List (Nat × Nat)
  | x :: xs, y :: ys => if x = y then changes (a + 1) xs ys else (a, uv (x ^^^ y)) :: changes (a + 1) xs ys
  | _, _ => []

/-- A range without the bytes that another range names. -/
def without (a n : Nat) (x : Nat × Nat) : List (Nat × Nat) :=
  if overlaps a n x.1 x.2 then
    (if x.1 < a then [(x.1, a - x.1)] else []) ++ (if a + n < x.1 + x.2 then [(a + n, x.1 + x.2 - (a + n))] else [])
  else [x]

/-- Bytes reach a team's window; those that change are noted, and a freed slot's bytes are stale no more. -/
def writeWin (t a : Nat) (bs : List Byte) (s : State) : State :=
  if bs.isEmpty then s
  else
    let xs := changes a (readWin s t a bs.length) bs
    let s := s.modTeam t (fun m => { m.write a bs with stale := m.stale.flatMap (without a bs.length) })
    if xs.isEmpty then s else noteWrite t xs s

/-- What a wave reads at a byte of its team's window is an unpredictable value: a freed slot holds it, or another wave's write that no
barrier has brought to it. -/
def Team.hides (t : Team) (n a : Nat) : Bool :=
  let has (rs : List (Nat × Nat)) := rs.any (fun x => decide (x.1 ≤ a) && decide (a < x.1 + x.2))
  has t.stale || t.veils.any (fun v => v.own != n && !v.clear.contains n && has v.rs)

/-- A wave's write is hidden from the other waves of its team from now on; one of the same bytes replaces an earlier one. -/
def Team.veil (t : Team) (v : Veil) : Team :=
  { t with veils := t.veils.filter (fun x => x.own != v.own || x.rs != v.rs || x.op.isSome) ++ [v] }

/-- An MWAIT of a wave on a tile covers its drains of it: its arrivals from entry number `id` on count for what they wrote. -/
def Team.settleVeils (t : Team) (n tile : Nat) (id : Nat) : Team :=
  { t with veils := t.veils.map (fun v => if v.own == n && v.op.isSome && v.tile == tile then { v with op := none, id := id } else v) }

/-- A member's arrival, by its entry number, counts for what it wrote before: the phase that it arrives in. -/
def Team.veilArrive (t : Team) (n id b : Nat) (ph : BitVec 16) : Team :=
  { t with veils := t.veils.map (fun v =>
      if v.own == n && v.op.isNone && decide (v.id ≤ id) then { v with arrived := (b, ph) :: v.arrived } else v) }

/-- A wave passes a phase of a barrier: it sees what the phase's members wrote before they arrived. -/
def Team.veilPass (t : Team) (n b : Nat) (ph : BitVec 16) : Team :=
  { t with veils := t.veils.map (fun v => if v.arrived.contains (b, ph) then { v with clear := n :: v.clear } else v) }

end Sys2Proof.Machine
end

