-- ==== Sys2Proof/Machine/Memory.lean ====
section
/-! DEFINITION. The meanings of majors 0x20 to 0x2F: loads, stores, tiles, atomics, accumulator access, shuffle, broadcast
and exchange (spec/09_isa_memory.md). A scratchpad word appends an access to its handle's sequencer; the ordering machine
performs it. -/
namespace Sys2Proof
open Machine

/-- Bytes of an LD. -/
def LdSize.bytes : LdSize → Nat
  | .u8 => 1
  | .s8 => 1
  | .u16 => 2
  | .s16 => 2
  | .b32 => 4
  | .b64 => 8
/-- Bytes of an ST. -/
def StSize.bytes : StSize → Nat
  | .b8 => 1
  | .b16 => 2
  | .b32 => 4
  | .b64 => 8

/-- What LD makes of the bytes it reads (R185). -/
def LdSize.extend (m : LdSize) (x : Nat) : BitVec 64 :=
  match m with
  | .s8 => ((BitVec.ofNat 8 x).signExtend 32).setWidth 64
  | .s16 => ((BitVec.ofNat 16 x).signExtend 32).setWidth 64
  | _ => BitVec.ofNat 64 x

/-- The wave address of an FM word (spec/03_formats.md R60). -/
def FmOp.ea (o : FmOp) (w : Wave) : Nat :=
  uv (w.getA o.a.toNat + (if o.pi then 0 else BitVec.ofNat 32 (4 * o.i.toNat)))
/-- The offset from the tile's origin of a tile word (R190). -/
def TileOp.ea (o : TileOp) (w : Wave) : Nat :=
  uv (w.getA o.a.toNat + (if o.pi then 0 else BitVec.ofNat 32 (4 * o.i.toNat)))

def AtomArith.op : AtomArith → AtomOp
  | .add => .add
  | .smin => .smin
  | .umin => .umin
  | .smax => .smax
  | .umax => .umax
def AtomBit.op : AtomBit → AtomOp
  | .and => .and
  | .or => .or
  | .xor => .xor
  | .exch => .exch
  | .cas => .cas
def AtomFloat.op : AtomFloat → AtomOp
  | .fadd => .fadd
  | .fmin => .fmin
  | .fmax => .fmax
def AtomUni.op : AtomUni → AtomOp
  | .add => .add
  | .exch => .exch
  | .cas => .cas
  | .fadd => .fadd

namespace Machine

/-- The new value of an ATOM's word (R194). -/
def AtomOp.new (o : AtomOp) (old v x : Word) : Word :=
  match o with
  | .add => old + v
  | .smin => if sv old ≤ sv v then old else v
  | .umin => if uv old ≤ uv v then old else v
  | .smax => if sv v ≤ sv old then old else v
  | .umax => if uv v ≤ uv old then old else v
  | .and => old &&& v
  | .or => old ||| v
  | .xor => old ^^^ v
  | .exch => v
  | .cas => if old = v then x else old
  | .fadd => fop f32.add old v
  | .fmin => fminmax false old v
  | .fmax => fminmax true old v

/-- The atomics that wait for the floating-point token in deterministic mode (R196). -/
def AtomOp.isFloat : AtomOp → Bool
  | .fadd => true
  | .fmin => true
  | .fmax => true
  | _ => false

/-! ## Addresses -/

/-- Advance(An, Im) (R182). -/
def IncReg.next (im : IncReg) (an : Word) : Word :=
  if im.len = 0 then an + im.stride
  else im.base + BitVec.ofInt 32 (((uv an : Int) - uv im.base + sv im.stride) % (uv im.len : Int))

/-- An lies outside the region of its I register (R183). -/
def IncReg.outside (im : IncReg) (an : Word) : Bool :=
  im.len != 0 && !(decide (uv im.base ≤ uv an) && decide (uv an < uv im.base + uv im.len))

/-- The wave with its address register advanced. -/
def Wave.advanceA (w : Wave) (src : Wave) (pi : Bool) (a i : Nat) : Wave :=
  if pi then w.setA a ((src.getI i).next (src.getA a)) else w

/-- The sequencer that a handle names has room for one more entry (spec/14_handle.md R272). -/
def Wave.room (w : Wave) (h : Nat) : Bool := decide ((w.seqAt (w.getH h).seq).entries.length < 64)

/-- The checks of a word that names a handle: HNDERR, then its own, then the sequencer's room. -/
def handleGate (w : Wave) (h : Nat) (own : Gate) : Gate :=
  if !w.isOpen h then .trap 6 (BitVec.ofNat 32 h)
  else match own with
    | .ok => if w.room h then .ok else .pend
    | g => g

/-- ADDRERR of an FM word: alignment, the window's end, the I register's region (R183). -/
def fmBad (s : State) (w : Wave) (o : FmOp) (sz : Nat) (cells : List Nat) : Bool :=
  let ea := o.ea w
  decide (ea % sz ≠ 0) ||
  cells.any (fun f => decide ((s.hdr w.kern).window < ea + sz * f + sz)) ||
  (o.pi && (w.getI o.i.toNat).outside (w.getA o.a.toNat))

/-- The tile word that a cell touches (R190): lane f mod W, time slot f div W. -/
def tileCell (h : Header) (d : TileReg) (col : Bool) (ea f : Nat) : Nat × Nat :=
  let k := ea / 4
  let n := uv d.pitch / 4
  let l := f % h.lanes
  let t := f / h.lanes
  if col then (k / n + l, k % n + t) else (k / n + t, k % n + l)

/-- ADDRERR of a tile word (R183, R187). -/
def tileBad (s : State) (w : Wave) (o : TileOp) : Bool :=
  let h := s.hdr w.kern
  let d := w.getD o.d.toNat
  decide (o.ea w % 4 ≠ 0) || d == {} ||
  (cellsOf w.active).any (fun f =>
    let x := tileCell h d o.col (o.ea w) f
    decide (d.rows.toNat ≤ x.1) || decide (uv d.pitch / 4 ≤ x.2) || decide (h.window < d.word (uv d.base) x.1 x.2 + 4)) ||
  (o.pi && (w.getI o.i.toNat).outside (w.getA o.a.toNat))

/-! ## The words that append an access -/

/-- In deterministic mode the bytes of a `.wave` store are hidden from the other waves of the team until a barrier that both pass
(R184). -/
def veilStore (n : Nat) (w : Wave) (acc : Access) (s : State) : State :=
  let h := s.hdr w.kern
  if h.det && acc.kind == .store && !acc.team && h.waves != 1 then
    s.modTeam w.team (fun t => t.veil { own := n, rs := acc.cells.map (fun c => (c.addr, acc.sz)), id := ((s.wave n).map (·.nextId)).getD 0 })
  else s

/-- Append an access under a handle, mark the registers it will write, advance the address register. -/
def pushAccess (n : Nat) (w : Wave) (h : Nat) (acc : Access) (rs : List RegRef) (pi : Bool) (a i : Nat) (s : State) : State :=
  (veilStore n w acc s).modWave n (fun x => ((x.append (w.getH h).seq (.access acc)).addPend rs x.nextId).advanceA w pi a i)

/-- A per-cell access: cell f touches ea + sz × F0 (R181). -/
def cellAccess (kind : AccKind) (sz : Nat) (o : FmOp) (d : Nat) (w : Wave) (val : Nat → BitVec 64) (new : Nat → Word) : Access :=
  { kind := kind, sz := sz, team := o.scope == .team, uni := false, d := d,
    cells := (cellsOf w.active).map (fun f => ⟨f, o.ea w + sz * f, val f, new f⟩) }

/-- A uniform access touches ea alone. -/
def uniAccess (kind : AccKind) (sz : Nat) (o : FmOp) (d : Nat) (w : Wave) (val : BitVec 64) (new : Word) : Access :=
  { kind := kind, sz := sz, team := o.scope == .team, uni := true, d := d, cells := [⟨0, o.ea w, val, new⟩] }

/-- A word in scope layout: `cells` are the cells whose addresses are checked, `acc` its access, `rs` the registers it
will write. -/
def fmWord (i : Instr) (o : FmOp) (sz : Nat) (cells : Wave → List Nat) (rs : List RegRef) (acc : Wave → Access) (s : State) :
    Host.Outcome State Fault Refusal :=
  issue i s
    (fun _ w s => handleGate w o.h.toNat (if fmBad s w o sz (cells w) then .trap 5 s.slotArg else .ok))
    (fun n w s' => pushAccess n w o.h.toNat (acc w) rs o.pi o.a.toNat o.i.toNat s')

/-- A word in tile layout. -/
def tileWord (i : Instr) (o : TileOp) (kind : AccKind) (d : Nat) (rs : List RegRef) (val : Wave → Nat → Word) (s : State) :
    Host.Outcome State Fault Refusal :=
  issue i s
    (fun _ w s => handleGate w o.h.toNat (if tileBad s w o then .trap 5 s.slotArg else .ok))
    (fun n w s' =>
      let t := w.getD o.d.toNat
      let acc : Access := {
        kind := kind, sz := 4, team := true, uni := false, d := d,
        cells := (cellsOf w.active).map (fun f =>
          let x := tileCell (s.hdr w.kern) t o.col (o.ea w) f
          ⟨f, t.word (uv t.base) x.1 x.2, (val w f).setWidth 64, 0⟩) }
      pushAccess n w o.h.toNat acc rs o.pi o.a.toNat o.i.toNat s')

/-- The active cells, whose addresses a per-cell word checks. -/
def activeCells (w : Wave) : List Nat := cellsOf w.active
/-- The one address of a uniform word. -/
def oneCell (_ : Wave) : List Nat := [0]

/-- LD (R185, R186): contiguous load to a V register or pair. -/
def execLd (m : LdSize) (d : VReg) (a : FmOp) (s : State) : Host.Outcome State Fault Refusal :=
  fmWord (.ld m d a) a m.bytes activeCells (if m == .b64 then vp d else [.v d.toNat])
    (fun w => cellAccess (.load m) m.bytes a d.toNat w (fun _ => 0) (fun _ => 0)) s

/-- ST (R185, R186): contiguous store from a V register or pair. -/
def execSt (m : StSize) (d : VReg) (a : FmOp) (s : State) : Host.Outcome State Fault Refusal :=
  fmWord (.st m d a) a m.bytes activeCells []
    (fun w => cellAccess .store m.bytes a d.toNat w
      (fun f => if m == .b64 then w.getV64 f d.toNat else (w.getV f d.toNat).setWidth 64) (fun _ => 0)) s

/-- LD, uniform (R185): one load to an S register. -/
def execLdUni (m : LdSize) (d : SReg) (a : FmOp) (s : State) : Host.Outcome State Fault Refusal :=
  fmWord (.ldUni m d a) a m.bytes oneCell [.s d.toNat] (fun w => uniAccess (.load m) m.bytes a d.toNat w 0 0) s

/-- ST, uniform (R185): one store of an S register. -/
def execStUni (d : SReg) (a : FmOp) (s : State) : Host.Outcome State Fault Refusal :=
  fmWord (.stUni d a) a 4 oneCell [] (fun w => uniAccess .store 4 a d.toNat w ((w.getS d.toNat).setWidth 64) 0) s

/-- LDT (R190): loads tile words by row or column. -/
def execLdt (d : VReg) (a : TileOp) (s : State) : Host.Outcome State Fault Refusal :=
  tileWord (.ldt d a) a (.load .b32) d.toNat [.v d.toNat] (fun _ _ => 0) s

/-- STT (R190): stores tile words by row or column. -/
def execStt (d : VReg) (a : TileOp) (s : State) : Host.Outcome State Fault Refusal :=
  tileWord (.stt d a) a .store d.toNat [] (fun w f => w.getV f d.toNat) s

/-- A per-cell atomic (R195). -/
def atomCells (op : AtomOp) (d : VReg) (a : FmOp) (w : Wave) : Access :=
  cellAccess (.atom op) 4 a d.toNat w (fun f => (w.getV f d.toNat).setWidth 64) (fun f => w.getV f (d.toNat + 1))

/-- ATOM, arithmetic (R194, R195). -/
def execAtom (m : AtomArith) (d : VReg) (a : FmOp) (s : State) : Host.Outcome State Fault Refusal :=
  fmWord (.atom m d a) a 4 activeCells [.v d.toNat] (atomCells m.op d a) s

/-- ATOM, bitwise, exchange, compare and swap (R194, R195). -/
def execAtomBitwise (m : AtomBit) (d : VReg) (a : FmOp) (s : State) : Host.Outcome State Fault Refusal :=
  fmWord (.atomBitwise m d a) a 4 activeCells [.v d.toNat] (atomCells m.op d a) s

/-- ATOM, floating point (R194, R195). -/
def execAtomFloat (m : AtomFloat) (d : VReg) (a : FmOp) (s : State) : Host.Outcome State Fault Refusal :=
  fmWord (.atomFloat m d a) a 4 activeCells [.v d.toNat] (atomCells m.op d a) s

/-- ATOM, uniform (R194, R195): one access at ea. -/
def execAtomUni (m : AtomUni) (d : SReg) (a : FmOp) (s : State) : Host.Outcome State Fault Refusal :=
  fmWord (.atomUni m d a) a 4 oneCell [.s d.toNat]
    (fun w => uniAccess (.atom m.op) 4 a d.toNat w ((w.getS d.toNat).setWidth 64) (w.getS (d.toNat + 1))) s

/-! ## Accumulators (R191-R193) -/

/-- The pair of a wave's core, as its context has it. -/
def State.pairOf (s : State) (w : Wave) : Nat := 160 * s.kernVf w.kern + s.coreOf w / 2

/-- Row and column of a selector on a core: a follower's rows are 64 to 127 of the pair's tile (R191, R192). -/
def accPlace (core : Nat) (sel : Word) : Nat × Nat := (uv sel % 64 + 64 * (core % 2), uv sel / 64 % 128)

/-- Operations of a pair, FROZEN ones too, that are not yet covered by an MWAIT and use a tile. -/
def tileUsers (s : State) (key t : Nat) : List MatOp :=
  let p := (Tbl.find s.pairs key).getD {}
  (p.queue ++ p.settled ++ (s.teams.filter (fun x => x.2.pair == key)).flatMap (fun x => x.2.frozen)).filter (fun o => o.tile == t)

/-- The operation writes the elements of its tile. -/
def MatOp.writesTile (o : MatOp) : Bool :=
  match o.k with
  | .drain _ _ z _ _ _ _ _ => z
  | _ => true

/-- Free values for the listed cells of a V register. -/
def freeCells (n d : Nat) : List Nat → State → State
  | [], s => s
  | f :: fs, s =>
    let (x, s) := s.freeWord
    freeCells n d fs (s.modWave n (fun w => w.setV f d x))

/-- The effect of ACCRD: the element's bits, or free values while an operation uses the tile (R193). DESIGN CHOICE: in a chain behind an MMA,
MZERO or MDRAIN on the same tile the values are free, and before it they are those from before the chain (R53,
notes/assumptions/119.md). -/
def accrdEffect (d : VReg) (t : TReg) (b : BOp) (s : State) (n : Nat) (w : Wave) (s' : State) : State :=
  let core := s.coreOf w
  let p := (Tbl.find s.pairs (s.pairOf w)).getD {}
  if (tileUsers s (s.pairOf w) t.toNat).isEmpty then
    s'.modWave n (fun x => x.setVs d.toNat (fun f =>
      let e := accPlace core (b.val s w f)
      NMap.get 0 p.tiles (tileKey t.toNat e.1 e.2)) (cellsOf w.active))
  else freeCells n d.toNat (cellsOf w.active) s'

/-- ACCRD (R192): reads an accumulator element selected by row and column. -/
def execAccrd (d : VReg) (t : TReg) (b : BOp) (s : State) : Host.Outcome State Fault Refusal :=
  issue (.accrd d t b) s free (accrdEffect d t b s)

/-- The window bytes, by team, that the started drains of a list make of an element. -/
def drainedFrom (us : List MatOp) (e : Nat × Nat) : List (Nat × List Nat) :=
  (us.filter (·.started)).filterMap (fun o => match o.k with
    | .drain m _ _ a pi sd _ _ => some (o.team, drainBytes m (uv a) (uv pi) (uv sd) e.1 e.2)
    | _ => none)

/-- One element of an ACCWR. An element that an operation in use also writes becomes a free value, as do the bytes that a
started drain makes of it; the operation that has not started is told (R193). -/
def accwrCell (p t : Nat) (e : Nat × Nat) (x : Word) (s : State) : State :=
  let pr := (Tbl.find s.pairs p).getD {}
  let us := tileUsers s p t
  let busy := us.any MatOp.writesTile
  let (y, s) := if busy then s.freeWord else (x, s)
  let mark (o : MatOp) := if o.tile == t && !o.started then { o with touched := e :: o.touched } else o
  let pr' := { pr with tiles := NMap.set 0 pr.tiles (tileKey t e.1 e.2) y, queue := pr.queue.map mark }
  (drainedFrom us e).foldl (fun s b => freeWin b.1 b.2 s) { s with
    pairs := Tbl.put s.pairs p pr'
    teams := Tbl.mapVals (fun _ m => if m.pair == p then { m with frozen := m.frozen.map mark } else m) s.teams }

/-- ACCWR (R192): writes accumulator elements, highest F0 last. -/
def execAccwr (t : TReg) (a : VReg) (b : BOp) (s : State) : Host.Outcome State Fault Refusal :=
  issue (.accwr t a b) s free (fun _ w s' =>
    let core := s.coreOf w
    (cellsOf w.active).foldl (fun q f =>
      accwrCell (s.pairOf w) t.toNat (accPlace core (b.val s w f)) (w.getV f a.toNat) q) s')

/-! ## Shuffle and broadcast (R197, R198) -/

/-- The source cell of LSHUF; none when negative or at least N. -/
def shufSource (m : ShufMode) (n f x : Nat) : Option Nat :=
  match m with
  | .idx => some (x % n)
  | .up => if f < x then none else some (f - x)
  | .down => if f + x < n then some (f + x) else none
  | .xor => some (f ^^^ (x % n))

/-- W × T of a wave. -/
def State.lanesOf (s : State) (w : Wave) : Nat := (s.hdr w.kern).lanes * (s.hdr w.kern).depth

/-- LSHUF (R197): moves register values between cells. -/
def execLshuf (m : ShufMode) (d : VReg) (a : VReg) (b : BOp) (s : State) : Host.Outcome State Fault Refusal :=
  perCell (.lshuf m d a b) s d (fun s w f =>
    match shufSource m (s.lanesOf w) f (uv (b.val s w f)) with
    | some x => if w.active.getLsbD x then w.getV x a.toNat else w.getV f a.toNat
    | none => w.getV f a.toNat)

/-- BCAST (R198): one cell's value to all active cells. -/
def execBcast (d : VReg) (a : VReg) (b : UOp) (s : State) : Host.Outcome State Fault Refusal :=
  perCell (.bcast d a b) s d (fun s w f =>
    let x := uv (b.val w) % s.lanesOf w
    if w.active.getLsbD x then w.getV x a.toNat else w.getV f a.toNat)

/-- BCAST, uniform (R198): one cell's value to an S register. -/
def execBcastUni (d : SReg) (a : VReg) (b : UOp) (s : State) : Host.Outcome State Fault Refusal :=
  uniform (.bcastUni d a b) s (fun w x =>
    let c := uv (b.val w) % s.lanesOf w
    x.setS d.toNat (if w.active.getLsbD c then w.getV c a.toNat
      else match cellsOf w.active with
        | [] => 0
        | f :: _ => w.getV f a.toNat))

/-! ## Exchange (R199, R200) -/

/-- Bytes of a wave's image (spec/06_cell.md R131). -/
def imageBytes (h : Header) (w : Wave) : Nat :=
  1024 + h.lanes * h.depth * (144 + 8 * h.pubs.length) + (if w.ext || w.granted then 128 * h.lanes * h.depth else 0)

/-- The images of the teams that a context has placed on a core exceed the register store (R131). -/
def State.oversubscribed (s : State) (vf core : Nat) : Bool :=
  let on := s.waves.filter (fun p => match s.team p.2.team with
    | some t => t.vf == vf && (t.st == .resident || t.st == .evicted) && t.core == core
    | none => false)
  decide (262144 < (on.map (fun p => imageBytes (s.hdr p.2.kern) p.2)).sum)

/-- A team on a core, or waiting for one. -/
def State.placedCore (s : State) (t : Nat) : Option Nat :=
  match s.team t with
  | some tm => if tm.st == .pending then none else some tm.core
  | none => none

/-- A core of the wave's run is oversubscribed. -/
def State.runOversubscribed (s : State) (k : Nat) : Bool :=
  s.teams.any (fun p => p.2.kern == k && p.2.st != .pending && s.oversubscribed p.2.vf p.2.core)

/-- The wave stands at an XCHG with its offer open: it is not halted; in a halt for a fault the waves in the handler go on
(spec/24_traps.md R412). -/
def State.offers (s : State) (p : Wave) : Option Offer :=
  match p.offer, s.team p.team with
  | some o, some t =>
    if o.got.isNone && p.st == .waiting && t.st == .resident && (!t.haltF || p.hmode) && !t.haltD && !t.haltP then some o
    else none
  | _, _ => none

/-- An offer of the wave with a logical index counts: in deterministic mode it stood as the quantum began (spec/11_group.md R231). -/
def Wave.sawOffer (w : Wave) (idx : Nat) : Bool := (w.view.map (fun v => v.offers.contains idx)).getD true

/-- The wave has left its program. -/
def Wave.past (w : Wave) : Bool := w.st == .draining || w.st == .done

/-- The checks of XCHG: the faults of R200, the exchanged values, the partner's offer, else a wait with an offer. A partner of the own
band lies in the issuing wave's cluster wherever its team stands (spec/11_group.md R218). -/
def xchgGate (a : VReg) (b : UOp) (s : State) (n : Nat) (w : Wave) : Gate :=
  let q := uv (b.val w)
  let h := s.hdr w.kern
  let bad : Gate := .trap 12 (b.val w)
  let done := match w.offer with
    | some o => o.got.isSome && o.partner == q
    | none => false
  if done then .ok
  else if !h.onDev s.dev (q * h.cells) ∨ 2 ^ (h.widths.drop 1).sum ≤ q ∨ q = w.idx then bad
  else
    match s.waveAt w.kern q with
    | none => bad
    | some (m, p) =>
      let near := match s.placedCore w.team, s.placedCore p.team with
        | some c, some e => c / 4 == e / 4
        | _, _ => false
      if m = n ∨ near ∨ h.band (q / h.waves) = h.band (w.idx / h.waves) ∨ s.runOversubscribed w.kern ∨ p.past then bad
      else match s.offers p with
        | some o => if !w.sawOffer q then .offer q a.toNat else if o.partner = w.idx then .ok else bad
        | none => .offer q a.toNat

/-- The effect of XCHG: a wave whose partner came first takes the values kept for it; the other takes the partner's
register and leaves its own. A wave whose offer named this one meanwhile meets a partner that names another (R200). -/
def xchgEffect (d a : VReg) (b : UOp) (n : Nat) (w : Wave) (s : State) : State :=
  let q := uv (b.val w)
  match w.offer.bind (·.got) with
  | some xs =>
    s.modWave n (fun x => { x.setVs d.toNat (fun f => NMap.get 0 xs f) (xs.map (·.1)) with offer := none })
  | none =>
    match s.waveAt w.kern q with
    | none => s
    | some (m, p) =>
      match p.offer with
      | none => s
      | some o =>
        let both := cellsOf (w.active &&& p.active)
        let s := s.modWave n (fun x => { x.setVs d.toNat (fun f => p.getV f o.a) both with offer := none })
        let s := s.modWave m (fun x => { x with offer := some { o with got := some (both.map (fun f => (f, w.getV f a.toNat))) } })
        (s.waves.filter (fun y => y.2.kern == w.kern && y.1 != m &&
            ((s.offers y.2).map (·.partner)) == some w.idx)).foldl
          (fun s y => deliver y.1 12 (BitVec.ofNat 32 w.idx) y.2.pc 0 s) s

/-- XCHG (R199): rendezvous exchange of registers between waves of two clusters. -/
def execXchg (d : VReg) (a : VReg) (b : UOp) (s : State) : Host.Outcome State Fault Refusal :=
  issue (.xchg d a b) s (fun n w s => xchgGate a b s n w) (xchgEffect d a b)

end Machine
end Sys2Proof
end

