-- ==== Sys2Proof/Machine/Order.lean ====
section
/-! DEFINITION. The ordering machine on scratchpad accesses and barrier arrivals: PERFORM, DRAIN, the opening of gates and
fences, and what ends a wave (spec/13_ordering.md R248-R264, spec/12_barrier.md R237-R242, spec/14_handle.md R274, R275,
spec/10_isa_control.md R211). -/
namespace Sys2Proof.Machine

/-! ## What an entry touches -/

/-- Fields of a tensor descriptor (spec/18_copy.md R340). -/
def dSfmt (d : List Byte) : Nat := natAt d 0 1
def dLayout (d : List Byte) : Nat := natAt d 1 1
def dReg (d : List Byte) : Nat := natAt d 2 1
def dRows (d : List Byte) : Nat := natAt d 4 4
def dCols (d : List Byte) : Nat := natAt d 8 4
def dRow0 (d : List Byte) : Nat := natAt d 12 4
def dStride (d : List Byte) : Nat := natAt d 16 8
def dSide (d : List Byte) : Nat := natAt d 24 4
def dRB (d : List Byte) : Nat := natAt d 28 2
def dCB (d : List Byte) : Nat := natAt d 30 2
def dScaddr (d : List Byte) : Nat := natAt d 32 8

/-- The tile rows, and the rows of the side plane, that a tensor slice moves. -/
def tensorRanges (t : TileReg) (d : List Byte) (origin side : Nat) : List (Nat × Nat) :=
  (origin + dRow0 d * uv t.pitch, dRows d * uv t.pitch) ::
    (if fmtSided t.fmt then [(side + 4 * (dRow0 d * t.er / 32), 4 * (dRows d * t.er / 32))] else [])

/-- Where the slot of a circular buffer lies. -/
def CircReg.at (c : CircReg) (slot : Nat) : Nat := c.base + slot * c.slotb

/-- A register of a team's circular buffers. -/
def Team.cbuf (t : Team) (c : Nat) : CircReg := NMap.get {} t.cbufs c

/-- What a wave sees of a thing that may have been set anew in this round: its own setting, else what stood before the first
(spec/12_barrier.md R242, spec/18_copy.md R346). -/
def seenBy {α : Type} (idx b : Nat) (now : α) (fresh : List (Nat × Nat × α)) : α :=
  match fresh.find? (fun x => x.2.1 == b) with
  | some x => if fresh.any (fun y => y.1 == idx && y.2.1 == b) then now else x.2.2
  | none => now

/-- A barrier of the wave's team as the wave sees it. -/
def State.barOf (s : State) (w : Wave) (b : Nat) : Barrier :=
  ((s.team w.team).map (fun t => seenBy w.idx b (t.bar b) t.freshB)).getD {}

/-- A circular buffer of the wave's team as the wave sees it. -/
def State.cbufOf (s : State) (w : Wave) (c : Nat) : CircReg :=
  ((s.team w.team).map (fun t => seenBy w.idx c (t.cbuf c) t.freshC)).getD {}

/-- The window ranges that an operation reads or writes for a wave: (offset, length). -/
def Op.ranges (o : Op) (t : Team) (wave : Nat) : List (Nat × Nat) :=
  match o.k with
  | .copy tensor _ cbe cix sl =>
    let base := match cbe, o.slot with
      | true, some k => some ((t.cbuf cix).at k)
      | true, none => none
      | false, _ => some 0
    (sl.filter (fun x => x.wave == wave)).flatMap (fun x =>
      if tensor then
        match base with
        | some b => if cbe then tensorRanges x.tile x.desc b (b + dSide x.desc)
                    else tensorRanges x.tile x.desc (uv x.tile.base) (dSide x.desc)
        | none => []
      else
        (if x.src.win then [(x.src.addr, x.len)] else []) ++
        (match base with
         | some b => if x.dst.win then [(b + x.dst.addr, x.len)] else []
         | none => []))
  | .gath _ b sz _ els => els.map (fun e => (b + sz * e.f, sz))
  | .scat _ b sz els => els.map (fun e => (b + sz * e.f, sz))
  | .remote r =>
    if r.col = 0 ∨ r.col = 2 then (if o.st == .gathering then [(r.src.addr, r.len)] else [])
    else if r.col = 1 then [(r.src.addr, r.len)]
    else if r.col = 4 then (if r.src.win then [(r.src.addr, r.len)] else [])
    else []
  | _ => []

/-- The window ranges that an entry touches. -/
def touched (s : State) (n : Nat) (w : Wave) (k : EntryKind) : List (Nat × Nat) :=
  let op (o : Nat) := match s.op o, s.team w.team with
    | some x, some t => x.ranges t n
    | _, _ => []
  match k with
  | .access a => a.cells.map (fun c => (c.addr, a.sz))
  | .op o => op o
  | .remote o => op o
  | _ => []

/-- Two lists of ranges share a byte. -/
def meets (xs ys : List (Nat × Nat)) : Bool :=
  xs.any (fun x => ys.any (fun y => decide (x.1 < y.1 + y.2) && decide (y.1 < x.1 + x.2)))

/-- Every entry that stands in a sequencer of the wave. -/
def Wave.standing (w : Wave) : List Entry := w.seqs.flatMap (fun q => q.2.entries)

/-- The wave's entries in the commit stage. -/
def State.stagedOf (s : State) (n : Nat) (w : Wave) : List Staged :=
  (((s.team w.team).map (·.stage)).getD []).filter (fun x => x.wave == n)

/-- The number of an entry that stands in the wave's part of the commit stage. -/
def State.isStaged (s : State) (n : Nat) (w : Wave) (id : Nat) : Bool := (s.stagedOf n w).any (fun x => x.id == id)

/-- An older entry that touches the ranges, and is still in a sequencer and not STAGED (R252). -/
def behindAccess (s : State) (n : Nat) (w : Wave) (id : Nat) (rs : List (Nat × Nat)) : Bool :=
  w.standing.any (fun e => decide (e.id < id) && !s.isStaged n w e.id && meets (touched s n w e.k) rs)

/-- A BUFFERED store of the wave, older than an entry, that touches the ranges. -/
def behindBuffered (s : State) (n : Nat) (w : Wave) (id : Nat) (rs : List (Nat × Nat)) : Bool :=
  w.buf.any (fun x => decide (x.id < id) && meets (touched s n w x.k) rs)

/-- The buffers of the team stand still in a halt for a debugger or for pre-emption and in an eviction (R267). -/
def buffersRun (s : State) (w : Wave) : Bool :=
  match s.team w.team with
  | none => false
  | some t => t.st == .resident && !t.haltD && !t.haltP

/-! ## Barriers -/

/-- Hold a fault found after ACCEPT in the wave's pending list (spec/24_traps.md R494). -/
def pendFault (n cause : Nat) (arg : Word) (s : State) : State :=
  s.modWave n (fun w => { w with pending := w.pending ++ [⟨cause, arg⟩] })

/-- One member's arrival at a barrier (R245). -/
def Team.arrive (t : Team) (b f1 : Nat) : Team :=
  t.setBar b { t.bar b with am := (t.bar b).am ||| BitVec.ofNat 16 (2 ^ f1) }.eval

/-- One external arrival: past 65535 it is discarded and raises BARERR in every live wave (R239). -/
def applyExternal (t b : Nat) (s : State) : State :=
  match s.team t with
  | none => s
  | some tm =>
    if tm.st = .ended then s
    else if 65535 ≤ (tm.bar b).xa then
      ((s.teamWaves t).filter (fun x => x.2.live != 0)).foldl (fun s x => pendFault x.1 7 (BitVec.ofNat 32 b) s) s
    else s.modTeam t (fun tm => tm.setBar b { tm.bar b with xa := (tm.bar b).xa + 1 }.eval)

/-- An external arrival reaches a team from the waves with logical index `src`; in deterministic mode it waits for the round
boundary (R242, notes/assumptions/96.md). -/
def extArrive (src t b : Nat) (s : State) : State :=
  match s.team t with
  | none => s
  | some tm =>
    if (s.hdr tm.kern).det then s.modTeam t (fun tm => { tm with arrived := tm.arrived ++ [(src, b)] }) else applyExternal t b s

/-- At the round boundary the external arrivals are applied in ascending order of their sources (R242). -/
def applyArrived (t : Nat) (s : State) : State :=
  match s.team t with
  | none => s
  | some tm =>
    (sortBy (·.1) tm.arrived).foldl (fun s x => applyExternal t x.2 s) (s.modTeam t (fun x => { x with arrived := [] }))

/-! ## The end of a wave and of a team (R211, R220, R222, R240) -/

/-- Nothing that the wave issued is unperformed. -/
def quiet (s : State) (n : Nat) (w : Wave) : Bool :=
  w.standing.isEmpty && w.buf.isEmpty && (s.stagedOf n w).isEmpty

/-- A matrix operation that has not retired reads the team's window (spec/20_matrix.md R364). -/
def windowRead (s : State) (t : Nat) : Bool :=
  (s.pairs.flatMap (fun p => p.2.queue) ++ s.teams.flatMap (fun p => p.2.frozen)).any (fun o => o.team == t || (match o.k with
    | .mma _ _ _ a _ _ b _ _ => a == t || b == t
    | _ => false))

/-- END of a team on a core: every wave of it is DONE, and no fault waits to be delivered. What the team owns is zeroed, its window
once no matrix operation reads it. A pass not matched goes with it. -/
def endTeam (t : Nat) (s : State) : Option State :=
  match s.team t with
  | none => none
  | some tm =>
    if (tm.st == .resident || tm.st == .evicted) && (s.teamWaves t).all (fun p => p.2.st == .done && p.2.pending.isEmpty) then
      let s := { s with pairs := Tbl.mapVals (fun _ p => { p with settled := p.settled.filter (fun o => o.team != t) }) s.pairs }
      some (State.pairsIdle (s.modTeam t (fun tm => { tm with
        st := .ended, haltF := false, win := if windowRead s t then tm.win else [], bars := [], cbufs := [], free := 0, reqs := []
        passes := [], stage := [], arrived := [], filled := [], freshB := [], freshC := [], veils := [], stale := [] })))
    else none

/-- The wave is DONE: its stacks and its extended set are released, as REL would do it (spec/11_group.md R225), and it leaves every
barrier. A fault that was found for it
before stays pending (spec/24_traps.md R494). -/
def finishWave (n : Nat) (s : State) : State :=
  match s.wave n with
  | none => s
  | some w =>
    let det := (s.hdr w.kern).det
    let s := if w.ext then raWrite n (List.range 128) s else s
    let s := s.modWave n (fun w => { w with st := .done, ms := [], cs := [], ext := false, granted := false })
    let m : BitVec 16 := ~~~ BitVec.ofNat 16 (2 ^ w.f1)
    s.modTeam w.team (fun t => { t with
      free := t.free + (if (w.ext || w.granted) && !det then 1 else 0)
      stage := if (w.ext || w.granted) && det then t.stage ++ [⟨n, 0, w.nextId, .rel⟩] else t.stage
      bars := Tbl.mapVals (fun _ b => { b with mm := b.mm &&& m, am := b.am &&& m }.eval) t.bars })

/-- DRAINED: the wave's last entry has been performed. -/
def settleWave (n : Nat) (s : State) : State :=
  match s.wave n with
  | none => s
  | some w => if w.st == .draining && quiet s n w then finishWave n s else s

/-- Take an entry out of every sequencer of a wave. -/
def Wave.dropEntry (id : Nat) (w : Wave) : Wave :=
  { w with seqs := Tbl.mapVals (fun _ q => { q with entries := q.entries.filter (fun e => e.id != id) }) w.seqs }

/-- An entry leaves its sequencer. -/
def dropEntry (n id : Nat) (s : State) : State := s.modWave n (Wave.dropEntry id)

/-! ## Accesses at the location modules -/

/-- The byte that a store holds for an address. -/
def Access.byteAt (a : Access) (x : Nat) : Option Byte :=
  match a.cells.find? (fun c => decide (c.addr ≤ x) && decide (x < c.addr + a.sz)) with
  | some c => some (BitVec.ofNat 8 (uv c.val / 256 ^ (x - c.addr)))
  | none => none

/-- The wave's own BUFFERED and STAGED stores, oldest first. -/
def ownStores (s : State) (n : Nat) (w : Wave) : List Access :=
  (sortBy (fun x => x.id) (w.buf ++ s.stagedOf n w)).filterMap (fun x => match x.k with
    | .access a => if a.kind == .store then some a else none
    | _ => none)

/-- Bytes of the wave's team that it reads as unpredictable values (spec/09_isa_memory.md R184, spec/18_copy.md R347,
spec/20_matrix.md R379). -/
def hidden (s : State) (n : Nat) (w : Wave) (a : Nat) : Bool := ((s.team w.team).map (fun t => t.hides n a)).getD false

/-- A byte as the wave's load reads it: from the youngest of its own stores that holds it, else from its module (R252); the free byte
with the number `i` where its module hides it. -/
def readOwn (s : State) (n : Nat) (w : Wave) (a i : Nat) : Byte :=
  (ownStores s n w).foldl (fun b st => (st.byteAt a).getD b)
    (if hidden s n w a then Config.freeByte (s.tick + i) else natOf (readWin s w.team a 1))

/-- The registers of a load's cell. -/
def Wave.putLoad (w : Wave) (a : Access) (m : LdSize) (c : Touch) (x : Nat) : Wave :=
  let y := m.extend x
  if a.uni then w.setS a.d (y.extractLsb' 0 32)
  else if m == .b64 then w.setV64 c.f a.d y
  else w.setV c.f a.d (y.extractLsb' 0 32)

/-- A load is performed. -/
def loadEffect (n : Nat) (w : Wave) (a : Access) (m : LdSize) (s : State) : State :=
  let xs := a.cells.zipIdx.map (fun c =>
    (c.1, natOf ((List.range a.sz).map (fun i => readOwn s n w (c.1.addr + i) (a.sz * c.2 + i)))))
  let free := a.cells.any (fun c => (List.range a.sz).any (fun i => hidden s n w (c.addr + i)))
  let s := { s.modWave n (fun y => xs.foldl (fun y x => y.putLoad a m x.1 x.2) y) with
    tick := if free then s.tick + a.sz * a.cells.length else s.tick }
  if !a.uni && decide (32 ≤ a.d) then raWrite n (a.cells.map (·.f)) s else s

/-- A store reaches its modules. -/
def storeEffect (t : Nat) (a : Access) (s : State) : State :=
  a.cells.foldl (fun s c => writeWin t c.addr (bytesOf a.sz (uv c.val)) s) s

/-- An ATOM reads and writes each of its words in one step, and its old values reach the register (R195). -/
def atomEffect (n t : Nat) (a : Access) (op : AtomOp) (s : State) : State :=
  let s := a.cells.foldl (fun s c =>
    let hid := ((s.team t).map (fun m => (List.range 4).any (fun i => m.hides n (c.addr + i)))).getD false
    let (old, s) := if hid then s.freeWord else (BitVec.ofNat 32 (natOf (readWin s t c.addr 4)), s)
    let s := writeWin t c.addr (bytesOf 4 (uv (op.new old (c.val.extractLsb' 0 32) c.new))) s
    s.modWave n (fun w => if a.uni then w.setS a.d old else w.setV c.f a.d old)) s
  if !a.uni && decide (32 ≤ a.d) then raWrite n (a.cells.map (·.f)) s else s

/-! ## PERFORM (R252, R266) -/

/-- Put an entry into the commit stage. -/
def stageEntry (n t q : Nat) (e : Entry) (s : State) : State :=
  s.modTeam t (fun tm => { tm with stage := tm.stage ++ [⟨n, q, e.id, e.k⟩] })

/-- What PERFORM of an access does. -/
def performAccess (n : Nat) (w : Wave) (q : Nat) (e : Entry) (a : Access) (s : State) : State :=
  let det := (s.hdr w.kern).det
  let gone (s : State) := dropEntry n e.id s
  match a.kind with
  | .load m => (gone (loadEffect n w a m s)).modWave n (·.clearPend e.id)
  | .store =>
    if !a.team then (gone s).modWave n (fun w => { w with buf := w.buf ++ [⟨n, q, e.id, e.k⟩] })
    else if det then stageEntry n w.team q e (gone s)
    else gone (storeEffect w.team a s)
  | .atom op =>
    if det then stageEntry n w.team q e (gone s)
    else (gone (atomEffect n w.team a op s)).modWave n (·.clearPend e.id)

/-- The access may be performed: no older entry that touches its bytes is outstanding, and no BUFFERED store shares a
byte with a team store or an ATOM. -/
def mayPerform (s : State) (n : Nat) (w : Wave) (e : Entry) (a : Access) : Bool :=
  let rs := touched s n w e.k
  let strict := match a.kind with
    | .load _ => false
    | .store => a.team
    | .atom _ => true
  !behindAccess s n w e.id rs && !(strict && behindBuffered s n w e.id rs)

/-- PERFORM of the entry at the head of a sequencer. -/
def performStep (n q : Nat) (s : State) : Option State :=
  match s.wave n with
  | none => none
  | some w =>
    match (w.seqAt q).entries with
    | [] => none
    | e :: _ =>
      if !buffersRun s w || e.st != .queued || s.isStaged n w e.id then none
      else match e.k with
        | .access a => if mayPerform s n w e a then some (settleWave n (performAccess n w q e a s)) else none
        | .arrival b =>
          if w.buf.any (fun x => x.seq == q) then none
          else
            let s := dropEntry n e.id s
            some (settleWave n (if (s.hdr w.kern).det then stageEntry n w.team q e s
              else s.modTeam w.team (fun t => t.arrive b w.f1)))
        | _ => none

/-- DRAIN of a BUFFERED store: no older BUFFERED store of the wave shares a byte with it (R253, notes/assumptions/18.md). -/
def drainStep (n id : Nat) (s : State) : Option State :=
  match s.wave n with
  | none => none
  | some w =>
    match w.buf.find? (fun x => x.id == id) with
    | none => none
    | some x =>
      match x.k with
      | .access a =>
        let rs := touched s n w x.k
        let older := w.buf.any (fun y => decide (y.id < id) && meets (touched s n w y.k) rs)
        if !buffersRun s w || older then none
        else
          let s := s.modWave n (fun w => { w with buf := w.buf.filter (fun y => y.id != id) })
          some (settleWave n (storeEffect w.team a s))
      | _ => none

/-! ## Gates and fences -/

/-- An entry of the wave is PERFORMED: it has left every buffer. -/
def performed (s : State) (n : Nat) (w : Wave) (id : Nat) : Bool :=
  w.standing.all (fun e => e.id != id) && w.buf.all (fun x => x.id != id) && !s.isStaged n w id

/-- The registers that name a sequencer behind its opened gate are OPEN (spec/14_handle.md R270). -/
def Wave.ungate (w : Wave) (q : Nat) : Wave :=
  { w with h := (List.range 16).foldl (fun m i =>
      let x := NMap.get {} m i
      if x.seq = q ∧ x.st = .gated then NMap.set {} m i { x with st := .opened } else m) w.h }

/-- The first pass in the team's table for a wave under a key. -/
def takePass (idx : Nat) (key : BitVec 16) : List PassRec → Option (PassRec × List PassRec)
  | [] => none
  | p :: ps =>
    if p.recv = idx ∧ p.key = key then some (p, ps)
    else (takePass idx key ps).map (fun r => (r.1, p :: r.2))

/-- The wave's oldest HRECV gate with a key is this one (R275). -/
def firstRecv (w : Wave) (id : Nat) (key : BitVec 16) : Bool :=
  w.standing.all (fun e => e.k != .gateRecv key || decide (id ≤ e.id))

/-- OPEN of the gate at the head of a sequencer (R258). -/
def openStep (n q : Nat) (s : State) : Option State :=
  match s.wave n with
  | none => none
  | some w =>
    match (w.seqAt q).entries with
    | [] => none
    | e :: _ =>
      if !buffersRun s w then none
      else match e.k with
        | .gateFork ids =>
          if ids.all (performed s n w) then some (settleWave n ((dropEntry n e.id s).modWave n (fun w => w.ungate q))) else none
        | .gateRecv key =>
          match s.team w.team with
          | none => none
          | some t =>
            match takePass w.idx key t.passes with
            | none => none
            | some (p, rest) =>
              if firstRecv w e.id key then
                let s := (dropEntry n e.id s).modTeam w.team (fun t => { t with passes := rest })
                some (settleWave n (s.modWave n (fun w =>
                  { w with seqs := Tbl.modify (fun x => { x with tag := p.tag, gen := p.gen }) w.seqs q }.ungate q)))
              else none
        | _ => none

/-- The scopes in their order (R61). -/
def scopeRank : Scope → Nat
  | .wave => 0
  | .team => 1
  | .cluster => 2
  | .device => 3
  | .system => 4

/-- Packets of so many bytes: more than 4096 are cut at every 4 KiB of the target address (spec/25_link.md R417). -/
def packetCount (dst len : Nat) : Nat := if len ≤ 4096 then 1 else (dst % 4096 + len + 4095) / 4096

/-- Offset and length of one of those packets. -/
def packetPiece (dst len i : Nat) : Nat × Nat :=
  if len ≤ 4096 then (0, len)
  else
    let o := if i = 0 then 0 else 4096 * i - dst % 4096
    (o, min (len - o) (4096 - (dst + o) % 4096))

/-- Packets of an operation (spec/26_fabric_ops.md R443). -/
def RemOp.count (r : RemOp) : Nat := if r.col = 4 then packetCount r.ra r.len else 1

/-- Every packet of the operation has been sent, or will never be. -/
def RemOp.allSent (r : RemOp) : Bool := r.dropped || decide (r.count ≤ r.sent)

/-- A remote operation has been sent whole. -/
def sentWhole (s : State) (o : Nat) : Bool :=
  match s.op o with
  | some x => (match x.k with
    | .remote r => r.allSent
    | _ => false)
  | none => false

/-- The device that a remote operation is sent to. -/
def Op.target (o : Op) : Option Nat :=
  match o.k with
  | .remote r => some r.target
  | _ => none

/-- An effect that has left its sequencer and is not PERFORMED is performed at the scope of that rank (R259). What waits for its
COMMIT without being an entry of R250 holds no fence back. -/
def Staged.reached (x : Staged) (r : Nat) : Bool :=
  match x.k with
  | .access _ => r == 0
  | .arrival _ => false
  | _ => true

/-- Every entry older than a fence, in one sequencer or in all, is performed at its scope (R259, R260): a pass sent to another device
at system scope once it is delivered. -/
def scopeReached (s : State) (n : Nat) (w : Wave) (q : Option Nat) (id : Nat) (sc : Scope) : Bool :=
  let r := scopeRank sc
  let es := match q with
    | some k => (w.seqAt k).entries
    | none => w.standing
  let other (k : Nat) := (q.map (fun j => j != k)).getD false
  es.all (fun e => decide (id ≤ e.id) || (match e.k with
    | .remote o => e.st == .handedOff && sentWhole s o && decide (r ≤ 3)
    | _ => false)) &&
  (w.buf ++ s.stagedOf n w).all (fun x => decide (id ≤ x.id) || other x.seq || x.reached r) &&
  (decide (r ≤ 3) || w.passed.all (fun x => decide (id ≤ x.1) || other x.2.1))

/-- RELEASE of the oldest taken slot (spec/18_copy.md R345, R347). -/
def CircReg.release (c : CircReg) : CircReg :=
  if c.slots = 0 then c else { c with ntak := c.ntak - 1, frep := (c.frep + 1) % c.slots }

/-- What else happens when a fence opens: an MRDY is open for the matrix operations issued behind it, and a CBFREE
releases its slot, whose bytes stay and are stale from then on (R345, notes/assumptions/47.md). -/
def fenceEffect (n : Nat) (w : Wave) (id : Nat) (ready : Bool) (fr : Option Nat) (s : State) : State :=
  let s := if ready then
      { s.modWave n (fun w => match w.mrdy with
          | some (m, _) => if m = id then { w with mrdy := some (m, true), wrote := [] } else w
          | none => w) with
        pairs := Tbl.mapVals (fun _ p => { p with
          queue := p.queue.map (fun o => if o.wave == n && o.rdy == some id then { o with opened := true } else o) }) s.pairs
        teams := Tbl.mapVals (fun _ t => { t with
          frozen := t.frozen.map (fun o => if o.wave == n && o.rdy == some id then { o with opened := true } else o) }) s.teams }
    else s
  match fr with
  | none => s
  | some c =>
    let b := ((s.team w.team).map (fun t => t.cbuf c)).getD {}
    s.modTeam w.team (fun t => { t with
      cbufs := NMap.set {} t.cbufs c (t.cbuf c).release
      stale := if b.slots = 0 then t.stale else t.stale.flatMap (without (b.at b.frep) b.slotb) ++ [(b.at b.frep, b.slotb)] })

/-- In deterministic mode an MRDY opens at the commit of its round, after the team's staged effects
(spec/20_matrix.md R379). -/
def readyMayOpen (s : State) (w : Wave) : Bool :=
  !(s.hdr w.kern).det || (match s.team w.team with
    | some t => t.stage.isEmpty && decide ((s.hdr w.kern).waves ≤ t.turn)
    | none => true)

/-- OPEN of a fence. -/
def fenceStep (n id : Nat) (s : State) : Option State :=
  match s.wave n with
  | none => none
  | some w =>
    match (w.seqs.find? (fun q => q.2.entries.any (fun e => e.id == id))), w.standing.find? (fun e => e.id == id) with
    | some q, some e =>
      (match e.k with
       | .fence sc every ready fr =>
         if buffersRun s w && scopeReached s n w (if every then none else some q.1) id sc && (!ready || readyMayOpen s w) then
           some (settleWave n (fenceEffect n w id ready fr (dropEntry n id s)))
         else none
       | _ => none)
    | _, _ => none

/-! ## Meanings of the steps -/

/-- DRAIN (R253). -/
def execDrain (w id : Nat) (s : State) : Host.Outcome State Fault Refusal := .next ((drainStep w id s).getD s)
/-- OPEN (R258). -/
def execOpenGate (w slot : Nat) (s : State) : Host.Outcome State Fault Refusal := .next ((openStep w slot s).getD s)
/-- FENCE_OPEN (R260). -/
def execFenceOpen (w id : Nat) (s : State) : Host.Outcome State Fault Refusal := .next ((fenceStep w id s).getD s)

end Sys2Proof.Machine
end

