-- ==== Sys2Proof/Machine/Barrier.lean ====
section
/-! DEFINITION. The meanings of major 0x34: named barriers (spec/12_barrier.md R243-R247). -/
namespace Sys2Proof.Machine

/-- Change a barrier of the wave's team, and what other waves still see of it. -/
def State.modBar (s : State) (w : Wave) (b : Nat) (g : Barrier → Barrier) : State :=
  s.modTeam w.team (fun t => { t.setBar b (g (t.bar b)) with
    freshB := t.freshB.map (fun x => if x.2.1 == b then (x.1, x.2.1, g x.2.2) else x) })

/-- The wave's own BINIT counts at once for its waits in the quantum. -/
def Wave.seePhase (b : Nat) (ph : BitVec 16) (w : Wave) : Wave :=
  { w with view := w.view.map (fun v => { v with phases := NMap.set 0 v.phases b ph }) }

/-- Set a barrier of the wave's team: in deterministic mode the other waves see it from the next round (R242). -/
def State.initBar (s : State) (n : Nat) (w : Wave) (b : Nat) (g : Barrier → Barrier) : State :=
  let s' := s.modTeam w.team (fun t => { t.setBar b (g (t.bar b)) with
    freshB := if (s.hdr w.kern).det then t.freshB ++ [(w.idx, b, t.bar b)] else t.freshB })
  s'.modWave n (·.seePhase b (s'.barOf w b).ph)

/-- The wave has an arrival at the barrier that is issued and not yet applied. -/
def arrivalOut (s : State) (n : Nat) (w : Wave) (b : Nat) : Bool :=
  w.standing.any (fun e => e.k == .arrival b) || (s.stagedOf n w).any (fun x => x.k == .arrival b)

/-- BARERR of an arrival (R245). -/
def arriveBad (s : State) (n : Nat) (w : Wave) (b : Nat) : Bool :=
  let x := s.barOf w b
  !x.st || !x.mm.getLsbD w.f1 || x.am.getLsbD w.f1 || arrivalOut s n w b

/-- The number of a barrier as a fault's argument. -/
def barArg (b : Nat) : Word := BitVec.ofNat 32 b

/-- A completion that wave i has not consumed (R245). -/
def Barrier.ready (x : Barrier) (i : Nat) : Bool := x.ph != NMap.get 0 x.w i

/-- Wave i consumes one completion, and its BSYNC is over. -/
def Barrier.consume (x : Barrier) (i : Nat) : Barrier :=
  { x with w := NMap.set 0 x.w i (NMap.get 0 x.w i + 1), ar := x.ar &&& ~~~(BitVec.ofNat 16 (2 ^ i)) }

/-- The wave passes its next phase of a barrier: it consumes the completion, and what the phase's members wrote is hidden from it no
more (spec/09_isa_memory.md R184). -/
def State.passBar (s : State) (n : Nat) (w : Wave) (b : Nat) : State :=
  (s.modTeam w.team (fun t => t.veilPass n b (NMap.get 0 (s.barOf w b).w w.f1))).modBar w b (fun x => x.consume w.f1)

/-- Append an arrival under a handle. -/
def pushArrival (n : Nat) (w : Wave) (h b : Nat) (s : State) : State :=
  s.modWave n (fun x => x.append (w.getH h).seq (.arrival b))

/-- The operation names a barrier; each slice of a collective copy that still gathers names its own (R246). -/
def Op.namesBar (o : Op) (b : Nat) : Bool :=
  o.bar == some b || (match o.k with
    | .copy _ _ _ _ xs => xs.any (fun x => x.mode.getD 1 0 == b + 1)
    | _ => false)

/-- The checks of BINIT. -/
def binitBad (s : State) (w : Wave) (b : Nat) (v : Word) : Bool :=
  let mm := uv v % 65536
  (s.barOf w b).am != 0 ||
  s.ops.any (fun o => o.2.team == w.team && o.2.namesBar b) ||
  decide (2 ^ (s.hdr w.kern).waves ≤ mm) || (decide (mm = 0) && decide (uv v / 65536 % 256 = 0))

/-- BINIT (R245): sets a barrier's member mask and external count. -/
def execBinit (n : SReg) (b : BReg) (s : State) : Host.Outcome State Fault Refusal :=
  issue (.binit n b) s
    (fun _ w s => if binitBad s w b.toNat (w.getS n.toNat) then .trap 7 (barArg b.toNat) else .ok)
    (fun i w s' =>
      let v := w.getS n.toNat
      s'.initBar i w b.toNat (fun x => { x with st := true, mm := v.extractLsb' 0 16, e := v.extractLsb' 16 8 }.eval))

/-- BARR (R245): arrives at a barrier under a handle. -/
def execBarr (h : HReg) (b : BReg) (s : State) : Host.Outcome State Fault Refusal :=
  issue (.barr h b) s
    (fun n w s => handleGate w h.toNat (if arriveBad s n w b.toNat then .trap 7 (barArg b.toNat) else .ok))
    (fun n w s' => pushArrival n w h.toNat b.toNat s')

/-- A barrier as a wave's wait tests it: in deterministic mode in the phase in which it stood as the quantum began (R242,
spec/11_group.md R231). -/
def State.waitBar (s : State) (w : Wave) (b : Nat) : Barrier :=
  match w.view with
  | some v => { s.barOf w b with ph := NMap.get 0 v.phases b }
  | none => s.barOf w b

/-- The wait half of BWAIT and BSYNC. -/
def barWait (s : State) (w : Wave) (b : Nat) : Gate := if (s.waitBar w b).ready w.f1 then .ok else .wait []

/-- BWAIT (R245): waits for a completed phase not yet consumed. -/
def execBwait (b : BReg) (s : State) : Host.Outcome State Fault Refusal :=
  issue (.bwait b) s
    (fun _ w s => if !(s.barOf w b.toNat).st then .trap 7 (barArg b.toNat) else barWait s w b.toNat)
    (fun n w s' => s'.passBar n w b.toNat)

/-- The checks of BSYNC: those of the arrival, unless the wave has arrived already, then the wait. -/
def bsyncGate (h b : Nat) (n : Nat) (w : Wave) (s : State) : Gate :=
  if (s.barOf w b).ar.getLsbD w.f1 then barWait s w b
  else
    match handleGate w h (if arriveBad s n w b then .trap 7 (barArg b) else .ok) with
    | .ok => barWait s w b
    | g => g

/-- The arrival half of BSYNC. -/
def bsyncArrive (h b : Nat) (n : Nat) (w : Wave) (s : State) : State :=
  if (s.barOf w b).ar.getLsbD w.f1 then s
  else (pushArrival n w h b s).modBar w b (fun x => { x with ar := x.ar ||| BitVec.ofNat 16 (2 ^ w.f1) })

/-- BSYNC (R245): arrives, then waits for the phase. -/
def execBsync (h : HReg) (b : BReg) (s : State) : Host.Outcome State Fault Refusal :=
  firstWait s (bsyncArrive h.toNat b.toNat)
    (issue (.bsync h b) s (bsyncGate h.toNat b.toNat)
      (fun n w s' => (bsyncArrive h.toNat b.toNat n w s').passBar n w b.toNat))

/-- BQRY (R245): reads a barrier's state into three S registers. -/
def execBqry (n : SReg) (b : BReg) (s : State) : Host.Outcome State Fault Refusal :=
  issue (.bqry n b) s free (fun i w s' =>
    let x := s.barOf w b.toNat
    s'.modWave i (fun y => y.setSs n.toNat [x.mm ++ x.am, NMap.get 0 x.w w.f1 ++ x.ph,
      (BitVec.ofBool x.st ++ x.e ++ BitVec.ofNat 16 x.xa).setWidth 32]))

end Sys2Proof.Machine
end

