-- ==== Sys2Proof/Machine/Fabric.lean ====
section
/-! DEFINITION. The sending side of the fabric: flits and their bytes, the route to a peer, the link's sequence numbers and
replay buffer, packets with their pair sequence, and the event ring (spec/25_link.md R417-R426, R430, R431, R435). -/
namespace Sys2Proof.Machine

/-! ## Flits -/

/-- One byte of CRC-32C, bit by bit from its least significant bit (notes/assumptions/13.md). -/
def crcByte (c b : Nat) : Nat :=
  (List.range 8).foldl (fun c _ => if c % 2 = 1 then (c / 2) ^^^ 0x82F63B78 else c / 2) (c ^^^ b)
/-- CRC-32C of a byte string. -/
def crc32c (bs : List Byte) : Nat := (bs.foldl (fun c b => crcByte c (uv b)) 0xFFFFFFFF) ^^^ 0xFFFFFFFF

/-- A string cut or filled with zeros to n bytes. -/
def fit (n : Nat) (bs : List Byte) : List Byte := bs.take n ++ List.replicate (n - bs.length) 0

/-- The header of a flit as a number (R417). -/
def Flit.header (f : Flit) (crc : Nat) : Nat :=
  crc + uv f.ackseq * 2 ^ 32 + uv f.lseq * 2 ^ 48 + uv f.pseq * 2 ^ 64 + uv f.epoch * 2 ^ 88 + uv f.vf * 2 ^ 92 +
  uv f.gen * 2 ^ 96 + uv f.tag * 2 ^ 104 + (if f.last then 2 ^ 114 else 0) + (if f.rly then 2 ^ 115 else 0) +
  uv f.dst * 2 ^ 116 + uv f.src * 2 ^ 120 + uv f.kind * 2 ^ 124
/-- The 128 bytes of a flit. -/
def flitBytes (f : Flit) (crc : Nat) : List Byte := bytesOf 16 (Flit.header f crc) ++ fit 112 f.payload
/-- The CRC a flit must carry: over all its bytes with the field taken as 0. -/
def flitCrc (f : Flit) : BitVec 32 := BitVec.ofNat 32 (crc32c (flitBytes f 0))
/-- A flit with nothing but a kind. -/
def bareFlit (kind : Nat) : Flit where
  kind := BitVec.ofNat 4 kind
  src := 0
  dst := 0
  rly := false
  last := true
  tag := 0
  gen := 0
  vf := 0
  epoch := 0
  pseq := 0
  lseq := 0
  ackseq := 0
  crc := 0
  payload := []

/-- The pieces of at most 112 bytes of a packet's data. -/
def pieces112 : Nat → List Byte → List (List Byte)
  | 0, _ => []
  | n + 1, bs => if bs.isEmpty then [] else bs.take 112 :: pieces112 n (bs.drop 112)

/-- The flits of a packet: its head, then its data; LAST marks the end (R417). -/
def Packet.flits (p : Packet) : List Flit :=
  let ds := pieces112 (p.data.length / 112 + 1) p.data
  let n := ds.length
  { p.head with last := n == 0 } ::
    ds.zipIdx.map (fun (b, i) => { p.head with kind := 3, last := i + 1 == n, payload := b })

/-- The flits a packet takes. -/
def Packet.size (p : Packet) : Nat := 1 + (p.data.length + 111) / 112

/-! ## Links and routes -/

def State.peer (s : State) (p : Nat) : Option Peer := Tbl.find s.peers p
def State.modPeer (s : State) (p : Nat) (g : Peer → Peer) : State := { s with peers := Tbl.modify g s.peers p }

/-- The link carries flits. -/
def Peer.carries (p : Peer) : Bool := p.link == .up || p.link == .narrow

/-- A, the active wavelengths of a direction. -/
def active64 (m : BitVec 64) : Nat := ((List.range 64).filter m.getLsbD).length

/-- The relay for a peer: the lowest device, other than the peer, whose links to both carry flits (R425). -/
def State.relay (s : State) (p : Nat) : Option Nat :=
  (Tbl.first? (fun j (x : Peer) => j != p && x.carries && x.far.getLsbD p) s.peers).map (·.1)

/-- The link on which a flit to a peer leaves: the direct one, else the relay's. -/
def State.route (s : State) (p : Nat) : Option Nat :=
  match s.peer p with
  | none => none
  | some x => if x.carries then some p else s.relay p

/-- A RESTRIPE: the link sequence number of the flit behind it, and the active mask (R419). -/
def restripeFlit (s : State) (link : Nat) (p : Peer) (next : BitVec 16) : Flit :=
  let f := { bareFlit 1 with
    src := BitVec.ofNat 4 s.dev, dst := BitVec.ofNat 4 link, lseq := p.txLseq, ackseq := p.rxLseq - 1
    payload := bytesOf 1 2 ++ bytesOf 2 (uv next) ++ bytesOf 5 0 ++ bytesOf 8 (uv p.tx) }
  { f with crc := flitCrc f }

/-- The wavelengths of a mask, ascending. -/
def lanes (m : BitVec 64) : List Nat := (List.range 64).filter m.getLsbD

/-- The wavelength of beat n under a mask: the (n mod A)-th of them (R420). -/
def laneOf (m : BitVec 64) (n : Nat) : Nat := (lanes m).getD (n % (lanes m).length) 0

/-- The wavelengths of the eight beats of flit number f under a mask. -/
def lanesOfFlit (m : BitVec 64) (f : Nat) : List Nat := (List.range 8).map (fun i => laneOf m (8 * f + i))

/-- The beats of a flit, 16 bytes each, with their wavelengths. DEDUCED: in the order of the flit's bytes (notes/assumptions/114.md). -/
def flitBeats (x : Flit) (m : BitVec 64) (f : Nat) : List (Nat × List Byte) :=
  (lanesOfFlit m f).zipIdx.map (fun w => (w.1, ((flitBytes x (uv x.crc)).drop (16 * w.2)).take 16))

/-- The beats of flits from number f on. -/
def beatsFrom (m : BitVec 64) (f : Nat) (fs : List Flit) : List (Nat × List Byte) :=
  fs.zipIdx.flatMap (fun x => flitBeats x.1 m (f + x.2))

/-- What a receiver makes of the next beats of each wavelength: the bytes of flit number f, and what is left of them (R420). -/
def reassemble (m : BitVec 64) (f : Nat) (light : List (Nat × List Byte)) : List Byte × List (Nat × List Byte) :=
  (lanesOfFlit m f).foldl (fun (a : List Byte × List (Nat × List Byte)) w =>
    match a.2.find? (fun b => b.1 == w) with
    | some b => (a.1 ++ b.2, a.2.erase b)
    | none => a) ([], light)

/-- Put flits on a link. Where its mask has changed, a RESTRIPE that names the first of them goes before it, still under the mask before;
the first flit under a mask has the number 0 (R420). -/
def State.emit (s : State) (link : Nat) (fs : List Flit) : State :=
  match s.peer link, fs with
  | some p, f :: _ =>
    let r := if p.striped then [restripeFlit s link p f.lseq] else []
    let m := if p.striped then p.tx else p.sending
    let i := if p.striped then 0 else p.txIndex
    let out := beatsFrom p.sending p.txIndex r ++ beatsFrom m i fs
    { s.modPeer link (fun x => { x with striped := false, sending := m, txIndex := i + fs.length }) with
      txs := s.txs ++ (r ++ fs).map (fun f => (link, f)), light := s.light ++ out.map (fun b => (link, b.1, b.2)) }
  | _, _ => s

/-- Send a flit that the link counts: it takes the next LSEQ and stays in the replay buffer; behind 4096 flits without an
acknowledgement it waits there (R421). -/
def State.xmit (s : State) (link : Nat) (f : Flit) : State :=
  match s.peer link with
  | none => s
  | some p =>
    let f := { f with lseq := p.txLseq, ackseq := p.rxLseq - 1 }
    let f := { f with crc := flitCrc f }
    let s := s.modPeer link (fun x => { x with txLseq := x.txLseq + 1, replay := x.replay ++ [f] })
    if p.replay.length < 4096 then s.emit link [f] else s

/-- Send a link control flit to the peer of a link, where it carries flits; the link does not count it
(notes/assumptions/14.md). -/
def State.xmitCtl (s : State) (link : Nat) (payload : List Byte) : State :=
  match s.peer link with
  | none => s
  | some p =>
    if p.carries then
      let f := { bareFlit 1 with
        src := BitVec.ofNat 4 s.dev, dst := BitVec.ofNat 4 link, lseq := p.txLseq, ackseq := p.rxLseq - 1, payload := payload }
      s.emit link [{ f with crc := flitCrc f }]
    else s

/-- Send an end-to-end flit that is kept nowhere (DONE, WAIT); without a route it is lost. -/
def State.xmitPair (s : State) (p : Nat) (f : Flit) : State :=
  match s.peer p, s.route p with
  | some x, some link => s.xmit link { f with src := BitVec.ofNat 4 s.dev, dst := BitVec.ofNat 4 p, epoch := x.epoch }
  | _, _ => s

/-! ## Packets -/

/-- The packets sent, from the oldest that is not DONE on. -/
def Peer.unsettled (p : Peer) : List (Nat × Nat) :=
  p.sizes.dropWhile (fun x => !(p.out.any (fun o => o.sent && o.pseq == x.1)))
/-- Flits sent with a pair sequence number beyond the oldest packet that is not DONE (R426). -/
def Peer.flying (p : Peer) : Nat := ((p.unsettled.drop 1).map (·.2)).sum
/-- The allowance left for a virtual function: 256 flits at first (R431). -/
def Peer.allowance (p : Peer) (vf : Nat) : Nat := NMap.get 256 p.allow vf

/-- The packet needs allowance: it is of no pair kind (R431). -/
def Packet.counts (p : Packet) : Bool := p.head.kind != 10

/-- Flits of the reply that a request expects: of an RLD its data, of a RATOM the head alone (spec/26_fabric_ops.md R452). -/
def Packet.replySize (p : Packet) : Nat :=
  let b (i n : Nat) := natOf ((p.head.payload.drop i).take n)
  if p.head.kind == 2 then (if b 0 1 = 1 then 1 + (b 4 4 + 111) / 112 else if b 0 1 = 3 then 1 else 0) else 0

/-- Room that is reserved for replies from a peer. -/
def Peer.kept (p : Peer) : Nat := (p.reserved.map (·.2)).sum

/-- The packet's outcome ends the reservation for its reply (R431). -/
def Peer.unreserve (p : Peer) (k : Packet) : Peer :=
  { p with reserved := NMap.set 0 p.reserved (uv k.head.vf) (NMap.get 0 p.reserved (uv k.head.vf) - k.replySize) }

/-- A packet may be sent now (R421, R426, R431). DEDUCED: replies find room among the 8192 flits of the reorder stage
(notes/assumptions/115.md). -/
def State.maySend (s : State) (p : Nat) (k : Packet) : Bool :=
  match s.peer p, s.route p with
  | some x, some link =>
    (x.reach == .direct || x.reach == .detour) &&
    (x.unsettled.isEmpty || decide (x.flying + k.size ≤ 8192)) &&
    (!k.counts || decide (k.size ≤ x.allowance (uv k.head.vf))) && decide (x.kept + k.replySize ≤ 8192) &&
    decide (((s.peer link).map (·.replay.length)).getD 0 + k.size ≤ 4096)
  | _, _ => false

/-- Send the flits of a packet under its pair sequence number. -/
def State.sendFlits (s : State) (p : Nat) (o : OutPkt) : State :=
  match s.peer p, s.route p with
  | some x, some link =>
    o.pkt.flits.foldl (fun s f => s.xmit link { f with
      src := BitVec.ofNat 4 s.dev, dst := BitVec.ofNat 4 p, epoch := x.epoch, pseq := BitVec.ofNat 24 o.pseq }) s
  | _, _ => s

/-- The first packet that is held for a peer. -/
def Peer.held? (p : Peer) : Option OutPkt := p.out.find? (fun o => !o.sent)

/-- Send the first held packet under the next pair sequence number. -/
def State.sendHeld (s : State) (p : Nat) : State :=
  match s.peer p with
  | none => s
  | some x =>
    match x.held? with
    | none => s
    | some o =>
      let o := { o with sent := true, pseq := x.nextPseq % 2 ^ 24 }
      (s.sendFlits p o).modPeer p (fun y => { y with
        out := y.out.filter (·.sent) ++ o :: (y.out.filter (fun z => !z.sent)).drop 1
        nextPseq := y.nextPseq + 1, sizes := y.unsettled ++ [(o.pseq, o.pkt.size)]
        reserved := NMap.set 0 y.reserved (uv o.pkt.head.vf) (NMap.get 0 y.reserved (uv o.pkt.head.vf) + o.pkt.replySize)
        allow := if o.pkt.counts then
            NMap.set 256 y.allow (uv o.pkt.head.vf) (y.allowance (uv o.pkt.head.vf) - o.pkt.size)
          else y.allow })

/-- Send held packets in their order while the first of them may be sent. -/
def flush (p : Nat) : Nat → State → State
  | 0, s => s
  | n + 1, s =>
    match (s.peer p).bind Peer.held? with
    | none => s
    | some o => if s.maySend p o.pkt then flush p n (s.sendHeld p) else s

/-- Send every held packet that may be sent. -/
def State.flush (s : State) (p : Nat) : State := Sys2Proof.Machine.flush p (((s.peer p).map (·.out.length)).getD 0) s

/-- The channel of a packet at this device: (source, virtual function, tag, generation), or the one channel of its source's halo
class (R249, R427). -/
def Packet.inChannel (k : Packet) (c : Channel) : Bool :=
  let halo := k.head.kind == 6 || k.head.kind == 7
  c.src == uv k.head.src && c.halo == halo &&
  (halo || (c.vf == uv k.head.vf && c.tag == uv k.head.tag && c.gen == k.head.gen))

/-- Put a packet at the end of its channel. -/
def State.toChannel (s : State) (k : Packet) : State :=
  match Tbl.first? (fun _ c => k.inChannel c) s.channels with
  | some (i, _) => { s with channels := Tbl.modify (fun c => { c with pkts := c.pkts ++ [k] }) s.channels i }
  | none =>
    let halo := k.head.kind == 6 || k.head.kind == 7
    let c : Channel := {
      src := uv k.head.src, halo := halo, vf := if halo then 0 else uv k.head.vf, tag := if halo then 0 else uv k.head.tag
      gen := if halo then 0 else k.head.gen, pkts := [k] }
    { s with channels := Tbl.put s.channels s.serial c, serial := s.serial + 1 }

/-- Send a packet: to the device itself through its own port, to a peer in the order of its pair. -/
def State.sendPacket (s : State) (p : Nat) (k : Packet) : State :=
  let k := { k with head := { k.head with src := BitVec.ofNat 4 s.dev, dst := BitVec.ofNat 4 p } }
  if p = s.dev then s.toChannel k
  else (s.modPeer p (fun x => { x with out := x.out ++ [{ pkt := k }] })).flush p

/-- A packet to a device would be sent at once, or is held for want of a route (R425, R430). -/
def State.accepts (s : State) (p : Nat) (k : Packet) : Bool :=
  if p = s.dev then true
  else match s.peer p with
    | none => false
    | some x =>
      match x.reach with
      | .noroute => true
      | .unreachable => true
      | .resync => false
      | _ => x.held?.isNone && s.maySend p k

/-- The generation of a virtual function's traffic (R434). -/
def State.genOf (s : State) (vf : Nat) : BitVec 8 := ((s.ctx vf).map (·.gen)).getD 0

/-! ## Halo traffic (spec/06_cell.md R127, R493) -/

/-- The cells of a wave that a device reads: those with a neighbour there. -/
def haloCells (h : Header) (w : Wave) (dev : Nat) : List Nat :=
  (List.range h.cells).filter (fun f =>
    [0, 1, 2].any (fun ax =>
      !(h.axisFields ax).isEmpty && [false, true].any (fun p =>
        match h.neighbour (w.wid h f) ax p with
        | .cell n => h.field n 5 == dev
        | _ => false)))

/-- The other devices that read a wave's cells. -/
def haloDevs (s : State) (h : Header) (w : Wave) : List Nat :=
  if h.width 5 = 0 then [] else
  (List.range (2 ^ h.width 5)).filter (fun d => d != s.dev && !(haloCells h w d).isEmpty)

/-- The flit heads of the halo class for a wave. -/
def haloHead (s : State) (w : Wave) (kind : Nat) (payload : List Byte) : Flit :=
  { bareFlit kind with gen := s.genOf (s.kernVf w.kern), vf := BitVec.ofNat 4 (s.kernVf w.kern), payload := payload }

/-- The bank values of cells as halo data: each cell's F0 value, then its published registers (notes/assumptions/15.md). -/
def haloData (h : Header) (w : Wave) (bank : Nat) (cells : List Nat) : List Byte :=
  cells.flatMap (fun f => bytesOf 4 f ++ h.pubs.flatMap (fun v => bytesOf 4 (uv (w.getBank f v bank))))

/-- The bank of a wave's cells as halo packets of at most 4096 bytes. -/
def haloPackets (s : State) (h : Header) (w : Wave) (step bank : Nat) (cells : List Nat) : List Packet :=
  if h.pubs.isEmpty then [] else
  let per := 4096 / (4 + 4 * h.pubs.length)
  (List.range ((cells.length + per - 1) / per)).map (fun i =>
    let cs := (cells.drop (i * per)).take per
    { head := haloHead s w 6 (bytesOf 8 w.idx ++ bytesOf 4 step ++ bytesOf 4 cs.length), data := haloData h w bank cs })

/-- A step notice (R418). -/
def noticePacket (s : State) (w : Wave) (step : Nat) (exited whole : Bool) (m : Mask) : Packet :=
  { head := haloHead s w 7 (bytesOf 8 w.idx ++ bytesOf 4 step ++
      bytesOf 4 ((if exited then 1 else 0) + (if whole then 2 else 0)) ++ bytesOf 64 (uv m)), data := [] }

/-- Send a wave's bank and a notice to every other device that reads its cells: the halo flits, then the notice. -/
def sendHalo (w : Wave) (step count bank : Nat) (exited whole : Bool) (m : Mask) (cells : List Nat) (s : State) : State :=
  let h := s.hdr w.kern
  (haloDevs s h w).foldl (fun s d =>
    let mine := (haloCells h w d).filter (fun f => cells.contains f)
    let s := (haloPackets s h w step bank mine).foldl (fun s k => s.sendPacket d k) s
    s.sendPacket d (noticePacket s w count exited whole m)) s

/-! ## Event records (R435, R436) -/

/-- Write an event record; a full ring counts a loss. -/
def State.logEv (s : State) (code peer dir vf count : Nat) : State :=
  if 512 ≤ s.evring.length then { s with evLost := s.evLost + 1 }
  else
    let m := ((s.peer peer).map (fun p => if dir == 1 then p.rx else p.tx)).getD 0
    { s with
      evring := s.evring ++ [⟨s.us * 1000, code, peer, dir, active64 m, vf, m, count, s.evLost⟩]
      evLost := 0 }

end Sys2Proof.Machine
end

