-- ==== Sys2Proof/Machine/Handle.lean ====
section
/-! DEFINITION. The meanings of major 0x35: order handles (spec/14_handle.md R269-R282). -/
namespace Sys2Proof.Machine

/-- A sequencer slot that no live sequencer has: a detached one frees its slot when it is empty (R271, R272). -/
def Wave.freeSlot (w : Wave) : Option Nat :=
  (List.range 32).find? (fun q => match Tbl.find w.seqs q with
    | none => true
    | some x => !x.live)

/-- What has left a detached sequencer and is not performed yet belongs to no slot from the moment the slot is used again. -/
def State.orphan (s : State) (n q : Nat) : State :=
  let off (xs : List Staged) := xs.map (fun x => if x.wave == n && x.seq == q then { x with seq := 32 } else x)
  match s.wave n with
  | none => s
  | some w => (s.modWave n (fun w => { w with
      buf := off w.buf, passed := w.passed.map (fun x => if x.2.1 == q then (x.1, 32, x.2.2) else x) })).modTeam w.team
        (fun t => { t with stage := off t.stage })

/-- The register's sequencer is detached (R271). -/
def Wave.detach (w : Wave) (h : Nat) : Wave :=
  if w.isOpen h then { w with seqs := Tbl.modify (fun q => { q with named := false }) w.seqs (w.getH h).seq } else w

/-- A register names a new sequencer whose head is a gate. -/
def Wave.newSeq (w : Wave) (h slot : Nat) (g : EntryKind) : Wave :=
  let w := w.detach h
  { w.setH h ⟨slot, .gated⟩ with seqs := Tbl.put w.seqs slot { entries := [⟨w.nextId, g, .queued⟩] }, nextId := w.nextId + 1 }

/-- The entries appended to a sequencer so far that are not PERFORMED: those that stand in it and those that have left it
for the perform buffer or the commit stage (R258). -/
def entriesOf (s : State) (n : Nat) (w : Wave) (q : Nat) : List Nat :=
  (w.seqAt q).entries.map (·.id) ++ ((w.buf ++ s.stagedOf n w).filter (fun x => x.seq == q)).map (·.id)

/-- A word that makes a sequencer waits for a slot (R272). -/
def slotGate (w : Wave) : Gate := if w.freeSlot.isSome then .ok else .pend

/-- HNDERR for a handle. -/
def hndErr (h : Nat) : Gate := .trap 6 (BitVec.ofNat 32 h)

/-- Make the new sequencer of a word. -/
def makeSeq (n d : Nat) (g : Wave → EntryKind) (s : State) : State :=
  match s.wave n with
  | none => s
  | some x =>
    match x.freeSlot with
    | none => s
    | some q => (s.orphan n q).modWave n (fun y => y.newSeq d q (g x))

/-- HFORK (R280): a new sequencer gated on one parent. -/
def execHfork (d h : HReg) (s : State) : Host.Outcome State Fault Refusal :=
  issue (.hfork d h) s
    (fun _ w _ => if !w.isOpen h.toNat then hndErr h.toNat else slotGate w)
    (fun n w s' => makeSeq n d.toNat (fun x => .gateFork (entriesOf s' n x (w.getH h.toNat).seq)) s')

/-- HJOIN (R280): a new sequencer gated on two parents. DESIGN CHOICE: of two RETIRED parents the first is the one that HNDERR names
(notes/assumptions/109.md). -/
def execHjoin (d h e : HReg) (s : State) : Host.Outcome State Fault Refusal :=
  issue (.hjoin d h e) s
    (fun _ w _ => if !w.isOpen h.toNat then hndErr h.toNat else if !w.isOpen e.toNat then hndErr e.toNat else slotGate w)
    (fun n w s' => makeSeq n d.toNat
      (fun x => .gateFork (entriesOf s' n x (w.getH h.toNat).seq ++ entriesOf s' n x (w.getH e.toNat).seq)) s')

/-- The checks of HPASS's receiver (R281). -/
def passGate (s : State) (w : Wave) (hh : Nat) (r : Nat) : Gate :=
  let h := s.hdr w.kern
  let dev := h.field (r * h.cells) 5
  if 2 ^ (h.widths.drop 1).sum ≤ r then hndErr hh
  else if h.onDev s.dev (r * h.cells) then .ok
  else if s.devs ≤ dev then hndErr hh
  else match s.peer dev with
    | none => hndErr hh
    | some p => if p.reach == .unreachable then .trap 18 (BitVec.ofNat 32 dev) else .ok

/-- HPASS (R280): sends a stream to another wave under a key. -/
def execHpass (h : HReg) (n : SReg) (s : State) : Host.Outcome State Fault Refusal :=
  issue (.hpass h n) s
    (fun _ w s => handleGate w h.toNat (passGate s w h.toNat (uv (w.getS64 n.toNat))))
    (fun i w s' => s'.modWave i (fun x => x.append (w.getH h.toNat).seq
      (.pass (uv (w.getS64 n.toNat)) ((w.getS (n.toNat + 2)).extractLsb' 0 16))))

/-- HRECV (R280): a new sequencer gated on a pass. -/
def execHrecv (d : HReg) (n : SReg) (s : State) : Host.Outcome State Fault Refusal :=
  issue (.hrecv d n) s (fun _ w _ => slotGate w)
    (fun i w s' => makeSeq i d.toNat (fun _ => .gateRecv ((w.getS n.toNat).extractLsb' 0 16)) s')

/-- The entries an HWAIT waits for: fixed when its wait began. -/
def hwaitIds (s : State) (n : Nat) (w : Wave) (h : Nat) : List Nat :=
  match w.hold with
  | some x => x.data
  | none => entriesOf s n w (w.getH h).seq

/-- An entry was PERFORMED as the wave's quantum began, in deterministic mode (spec/11_group.md R231). -/
def Wave.saw (w : Wave) (id : Nat) : Bool := (w.view.map (fun v => decide (id < v.next) && !v.out.contains id)).getD true

/-- The checks of HWAIT. -/
def hwaitGate (h : Nat) (ret : Bool) (n : Nat) (w : Wave) (s : State) : Gate :=
  if !w.isOpen h ∨ (ret ∧ h = 0) then hndErr h
  else
    let ids := hwaitIds s n w h
    if ids.all (fun id => performed s n w id && w.saw id) then .ok else .wait ids

/-- HWAIT (R280): waits for every entry of a handle. -/
def execHwait (h : HReg) (s : State) : Host.Outcome State Fault Refusal :=
  issue (.hwait h) s (hwaitGate h.toNat false) (fun _ _ s' => s')

/-- HWAIT.ret (R280): waits, then retires the handle register. -/
def execHwaitRet (h : HReg) (s : State) : Host.Outcome State Fault Refusal :=
  issue (.hwaitRet h) s (hwaitGate h.toNat true) (fun n _ s' =>
    s'.modWave n (fun x => (x.detach h.toNat).setH h.toNat {}))

/-- FENCE (R280): appends a fence to one handle. -/
def execFence (c : Scope) (h : HReg) (s : State) : Host.Outcome State Fault Refusal :=
  issue (.fence c h) s (fun _ w _ => handleGate w h.toNat .ok) (fun n w s' =>
    s'.modWave n (fun x => x.append (w.getH h.toNat).seq (.fence c false false none)))

/-- Every live sequencer has room. -/
def Wave.roomAll (w : Wave) : Bool := w.seqs.all (fun q => !q.2.live || decide (q.2.entries.length < 64))

/-- FENCE.all (R280): one fence on every sequencer of the wave. -/
def execFenceAll (c : Scope) (s : State) : Host.Outcome State Fault Refusal :=
  issue (.fenceAll c) s (fun _ w _ => if w.roomAll then .ok else .pend) (fun n _ s' =>
    s'.modWave n (fun x => x.appendAll (.fence c true false none)))

end Sys2Proof.Machine
end

