-- ==== Sys2Proof/Machine/Page.lean ====
section
/-! DEFINITION. Management commands and their replies; pages, what an access meets at them, their servicing, and the
extent table (spec/30_bringup.md R487, R491, spec/17_page.md R312-R331, spec/03_formats.md R49, R73). -/
namespace Sys2Proof.Machine

/-! ## Commands -/

/-- Hearth answers a command. -/
def State.answer (s : State) (box : Nat) (st : Status) (data : List Byte := []) : State :=
  { s with replies := s.replies ++ [⟨box, st, data⟩] }

/-- A command of a mailbox is not answered yet: a MEMWRITE or BIND that waits for a page, and of the device's mailbox an ATTEST that is being
signed or a BLKMOVE whose block is on its way (R491, notes/assumptions/55.md). -/
def State.awaits (s : State) (box : Nat) : Bool :=
  s.pendWrites.any (fun p => p.box == box) || s.pendBinds.any (fun p => p.box == box) ||
  (box == 16 && (s.hearth.attest.isSome || s.blocks.any (fun b => b.2.st != .owned)))

/-- A command of a mailbox that every stage with service carries out: MINIMAL answers it MINIMAL, and the stages before
service refuse it (R484, R487). While an earlier command of the mailbox is not answered it is not yet carried out (R491). -/
def command (box : Nat) (s : State) (f : State → State) : State :=
  if s.awaits box then s
  else match s.hearth.stage with
    | .minimal => s.answer box .minimal
    | .reduced => f s
    | .full => f s
    | _ => s.answer box .refused

/-- A command for a virtual function: another mailbox than its own gets NOTOWN (R491). -/
def vfCommand (box vf : Nat) (s : State) (f : State → State) : State :=
  command box s (fun s => if box = vf ∧ vf < 16 then f s else s.answer box .notown)

/-! ## What an access meets -/

/-- The pages of a range. -/
def pagesOf (va n : Nat) : List Nat :=
  if n = 0 then [] else (List.range ((va + n - 1) / 65536 - va / 65536 + 1)).map (fun i => va / 65536 + i)

def Ctx.page (c : Ctx) (p : Nat) : Page := (Tbl.find c.pages p).getD {}
def Ctx.setPage (c : Ctx) (p : Nat) (g : Page) : Ctx := { c with pages := Tbl.put c.pages p g }

/-- RESIDENT, PINNED or MIGRATING. -/
def Page.usable (p : Page) : Bool := p.st == .resident || p.st == .migrating

/-- What an engine's access meets: it may go on, it waits for a page that migrates, or it faults at a page. -/
inductive Meets where
  | ok | waits | fault (page : Nat)
deriving DecidableEq, Repr

/-- What an access of one range meets, its pages in ascending order (R315, R316). An engine's read of a running code segment
succeeds: R49 maps the segment execute-only and names an outcome for writes and fetches alone, so that the read's is the model's
choice (notes/assumptions/85.md). -/
def State.meet (s : State) (vf va n : Nat) (wr : Bool) : Meets :=
  match s.ctx vf with
  | none => .fault (va / 65536)
  | some c =>
    let look (p : Nat) : Meets :=
      match c.walk (65536 * p) wr with
      | .migrating => .waits
      | .fails _ => .fault p
      | .ok _ =>
        if wr && s.guarded vf (max va (65536 * p)) (min (va + n) (65536 * p + 65536) - max va (65536 * p)) then .fault p else .ok
    (((pagesOf va n).map look).find? (fun m => m != .ok)).getD .ok

/-- What an access by its code meets: one that does both reads first. -/
def State.meetAcc (s : State) (vf va n acc : Nat) : Meets :=
  match if acc % 2 = 1 then s.meet vf va n false else .ok with
  | .ok => if acc / 2 % 2 = 1 then s.meet vf va n true else .ok
  | m => m

/-- What a list of accesses (address, length, write) meets. -/
def State.meetAll (s : State) (vf : Nat) (xs : List (Nat × Nat × Bool)) : Meets :=
  ((xs.map (fun x => s.meet vf x.1 x.2.1 x.2.2)).find? (fun m => m != .ok)).getD .ok

/-! ## Services (R317, R318) -/

/-- The slice of a context on which its services are made: the lowest of its partition. -/
def Ctx.slice0 (c : Ctx) : Nat := ((List.range 4).find? c.part.getLsbD).getD 0

/-- Who services a fault: the guest, Hearth with the host hypervisor behind it, or the memory-management processor of the
slice. -/
inductive Servicer where | guest | hearth | processor
deriving DecidableEq, Repr

/-- The servicer of a fault of a stage, by the configuration of the slice (R317). -/
def State.servicer (s : State) (c : Ctx) (stage : Nat) : Servicer :=
  if s.hearth.managed.getLsbD c.slice0 then .processor else if stage = 1 then .guest else .hearth

/-- Who owns the frame allocator and the device tables of a context: the host through Hearth, or the processor (R312, R317). -/
def State.allocator (s : State) (c : Ctx) : Servicer := s.servicer c 2

/-- The requests in the page service queue of a slice (R325). -/
def State.servicing (s : State) (slice : Nat) : Nat :=
  (s.svc.filter (fun r => ((s.ctx r.1).map Ctx.slice0) == some slice)).length

/-- The stage of a page's fault: 1 when the guest's entry is missing or forbids the access, else 2. -/
def Ctx.faultStage (c : Ctx) (p acc : Nat) : Nat :=
  match c.stages p acc with
  | .error st => st
  | .ok _ => 2

/-- The record of a fault at a page; `acc` is 1 for a read, 2 for a write, 3 for both. -/
def Ctx.record (c : Ctx) (p : Nat) (kid : Word) (src kind ext acc : Nat) : SvcRec where
  va := 65536 * p
  kid := kid
  src := src
  kind := kind
  acc := acc
  stage := c.faultStage p acc
  ext := ext
  gen := c.extgen

/-- A record finds room: in the guest's fault queue of 256, or in the slice's page service queue of 1024 (R318, R325). -/
def State.hasRoom (s : State) (vf p acc : Nat) : Bool :=
  match s.ctx vf with
  | none => true
  | some c =>
    (c.page p).st == .fetching ||
    (if s.servicer c (c.faultStage p acc) = .guest then decide (c.faultq.length < 256) else decide (s.servicing c.slice0 < 1024))

/-- A fault or a request at a page: an ABSENT page becomes FETCHING with a record; a page that forbids the access gives a
record; a page that is FETCHING has its service already (R316, R318). -/
def State.service (s : State) (vf p : Nat) (kid : Word) (src kind ext acc : Nat) : State :=
  match s.ctx vf with
  | none => s
  | some c =>
    if (c.page p).st == .fetching then s
    else
      let r := c.record p kid src kind ext acc
      let c' := if (c.page p).st == .absent then c.setPage p { c.page p with st := .fetching } else c
      if s.servicer c r.stage = .guest then { s with ctxs := Tbl.put s.ctxs vf { c' with faultq := c'.faultq ++ [r] } }
      else { s with ctxs := Tbl.put s.ctxs vf c', svc := s.svc ++ [(vf, r)] }

/-- A record of the page has not been dealt with. -/
def State.recorded (s : State) (vf p : Nat) : Bool :=
  s.svc.any (fun r => r.1 == vf && r.2.va == 65536 * p) ||
  ((s.ctx vf).map (fun c => c.faultq.any (fun r => r.va == 65536 * p))).getD false

/-- A page's service is over: its records are gone. -/
def State.dropService (s : State) (vf p : Nat) : State :=
  { s.modCtx vf (fun c => { c with faultq := c.faultq.filter (fun r => r.va != 65536 * p) }) with
    svc := s.svc.filter (fun r => r.1 != vf || r.2.va != 65536 * p) }

/-- The state of a page of a virtual function. -/
def State.pageOf (s : State) (vf p : Nat) : Page := ((s.ctx vf).map (fun c => c.page p)).getD {}

/-- Request the pages of a list that are ABSENT, in order, while there is room for their records; the pages not reached yet. -/
def requestPages (vf : Nat) (kid : Word) (kind : Nat) (ext acc : Nat → Nat) : List Nat → State → List Nat × State
  | [], s => ([], s)
  | g :: gs, s =>
    if (s.pageOf vf g).st != .absent then requestPages vf kid kind ext acc gs s
    else if s.hasRoom vf g (acc g) then requestPages vf kid kind ext acc gs (s.service vf g kid s.dev kind (ext g) (acc g))
    else (g :: gs, s)

/-- The pages of a list that are ABSENT although their last service did not end in NOBACK: their service ended before both stages
had an entry, or the page has been reclaimed since, so that they are requested again (notes/assumptions/86.md). -/
def State.unmapped (s : State) (vf : Nat) (gs : List Nat) : List Nat :=
  gs.filter (fun g => (s.pageOf vf g).st == .absent && !(s.pageOf vf g).noback)

/-! ## Extents and their runs (R299, R313, R314) -/

/-- The extent of a kernel that holds an address, with its index. -/
def Header.extOf (h : Header) (va : Nat) : Option (Nat × Extent) :=
  (h.exts.zipIdx.find? (fun x => decide (x.1.va ≤ va) && decide (va < x.1.va + 65536 * x.1.npages))).map
    (fun x => (x.2, x.1))

/-- The extent index that a record gives for an address. -/
def Header.extIndex (h : Header) (va : Nat) : Nat := ((h.extOf va).map (·.1)).getD 0xFF

/-- A run of one page. -/
def runOf (ext : Nat) (e : Extent) (gen : BitVec 16) (off pfn : Nat) : Run :=
  { ext := ext, gen := gen, len := 0, off := BitVec.ofNat 24 off, pfn := BitVec.ofNat 36 pfn, sparse := e.sparse, wr := e.wr, rd := e.rd }

/-- Add a page to the runs of an extent: it joins the run before it where frames follow one another. -/
def addRun (ext : Nat) (e : Extent) (gen : BitVec 16) (off pfn : Nat) (rs : List Run) : List Run :=
  match rs.getLast? with
  | some r =>
    if r.ext = ext ∧ uv r.off + uv r.len + 1 = off ∧ uv r.pfn + uv r.len + 1 = pfn ∧ uv r.len + 1 < 2 ^ 24 then
      rs.dropLast ++ [{ r with len := r.len + 1 }]
    else rs ++ [runOf ext e gen off pfn]
  | none => [runOf ext e gen off pfn]

/-- The runs of a kernel's extents as the tables stand: every page that is usable has one. -/
def runsOf (c : Ctx) (h : Header) : List Run :=
  h.exts.zipIdx.foldl (fun rs x =>
    (List.range x.1.npages).foldl (fun rs i =>
      let n := x.1.va / 65536 + i
      match c.frame n with
      | some f => if (c.page n).usable then addRun x.2 x.1 c.extgen i f rs else rs
      | none => rs) rs) []

/-- The runs of a kernel after a change of the tables: those that did not change keep their generation. -/
def Kernel.rerun (k : Kernel) (c : Ctx) : List Run :=
  (runsOf c k.hdr).map (fun r =>
    match k.runs.find? (fun o => o == { r with gen := o.gen }) with
    | some o => o
    | none => r)

/-- The extent tables are written again after a change of the tables; a kernel that then needs more than 4096 runs ends FAILED
with BADEXT (R313). -/
def State.rerun (s : State) (vf : Nat) : State :=
  match s.ctx vf with
  | none => s
  | some c =>
    (s.kernels.filter (fun k => k.2.vf == vf && k.2.st.runs)).foldl (fun s k =>
      let rs := k.2.rerun c
      if 4096 < rs.length then s.failKernel k.1 3 else s.modKern k.1 (fun x => { x with runs := rs })) s

/-! ## MEMWRITE and BIND (spec/03_formats.md R73, spec/15_queue.md R285) -/

/-- Every page of a management write may be written now. -/
def State.writable (s : State) (p : PendWrite) : Bool :=
  (pagesOf p.va p.bytes.length).all (fun g => (s.ctx p.vf).any (fun c => c.walk (65536 * g) true matches .ok _)) &&
  !s.guarded p.vf p.va p.bytes.length

/-- A page of the list is being serviced, or migrates. -/
def State.unsettled (s : State) (vf : Nat) (gs : List Nat) : Bool :=
  gs.any (fun g => (s.pageOf vf g).st == .fetching || (s.pageOf vf g).st == .migrating)

/-- Carry out a management write whose pages are settled, or refuse it. -/
def State.finishWrite (s : State) (p : PendWrite) : State :=
  if s.writable p then (s.userWrite p.vf p.va p.bytes).answer p.box .ok else s.answer p.box .badaddr

/-- A management write looks at its pages and requests them; it is carried out once each is settled. -/
def State.tryWrite (s : State) (p : PendWrite) : State :=
  let gs := pagesOf p.va p.bytes.length
  let (left, s) := requestPages p.vf 0 0 (fun _ => 0xFF) (fun _ => 2) p.todo s
  if !left.isEmpty || s.unsettled p.vf gs then { s with pendWrites := s.pendWrites ++ [{ p with todo := left }] }
  else if s.unmapped p.vf gs = [] then s.finishWrite p
  else
    let (left, s) := requestPages p.vf 0 0 (fun _ => 0xFF) (fun _ => 2) (s.unmapped p.vf gs) s
    { s with pendWrites := s.pendWrites ++ [{ p with todo := left }] }

/-- Bytes of a queue's ring. -/
def ringBytes (logcap : Nat) : Nat := 2048 * 2 ^ logcap

/-- Carry out a BIND whose pages are settled: every page of the ring is pinned and the queue is OPEN
(spec/15_queue.md R285). -/
def State.finishBind (s : State) (p : PendBind) : State :=
  let gs := pagesOf p.base (ringBytes p.logcap)
  match s.ctx p.vf with
  | none => s.answer p.box .qbadarg
  | some c =>
    if (s.queue p.q).st != .unbound then s.answer p.box .qbusy
    else if gs.all (fun g => (c.page g).usable && (c.stages g 2 matches .ok _)) then
      ((s.modCtx p.vf (fun c => gs.foldl Ctx.pin c)).modQueue p.q (fun _ =>
        { base := p.base, st := .opened, logcap := p.logcap, vf := p.vf, prio := p.prio })
        ).answer p.box .ok
    else s.answer p.box .qbadarg

/-- A BIND looks at the pages of its ring and requests them; it is carried out once none is being serviced. -/
def State.tryBind (s : State) (p : PendBind) : State :=
  let gs := pagesOf p.base (ringBytes p.logcap)
  let fetching (s : State) := gs.any (fun g => (s.pageOf p.vf g).st == .fetching)
  let (left, s) := requestPages p.vf 0 2 (fun _ => 0xFF) (fun _ => 2) p.todo s
  if !left.isEmpty || fetching s then { s with pendBinds := s.pendBinds ++ [{ p with todo := left }] }
  else if s.unmapped p.vf gs = [] then s.finishBind p
  else
    let (left, s) := requestPages p.vf 0 2 (fun _ => 0xFF) (fun _ => 2) (s.unmapped p.vf gs) s
    { s with pendBinds := s.pendBinds ++ [{ p with todo := left }] }

/-- Carry out the management writes and the BINDs that no page service holds back any more. -/
def State.finishWrites (s : State) : State :=
  s.pendBinds.foldl State.tryBind (s.pendWrites.foldl State.tryWrite { s with pendWrites := [], pendBinds := [] })

/-- The effect of MEMWRITE. One of more than 4096 bytes, for which R73 gives no status, is answered BADADDR
(notes/assumptions/87.md). -/
def memwriteStep (box vf va : Nat) (bytes : List Byte) (s : State) : State :=
  let pages := pagesOf va bytes.length
  let forbidden (c : Ctx) (g : Nat) : Bool := (c.page g).usable && !(c.stages g 2 matches .ok _)
  match s.ctx vf with
  | none => s.answer box .badaddr
  | some c =>
    if 4096 < bytes.length ∨ 2 ^ 57 < va + bytes.length ∨ c.st = .free ∨ s.guarded vf va bytes.length ∨
        pages.any (forbidden c) then s.answer box .badaddr
    else s.tryWrite ⟨box, vf, va, bytes, pages⟩

/-- MEMWRITE (R73): writes bytes through a context's translation. -/
def execMemwrite (box vf va : Nat) (bytes : List Byte) (s : State) : Host.Outcome State Fault Refusal :=
  .next (vfCommand box vf s (memwriteStep box vf va bytes))

/-! ## The tables (R312, R316, R327) -/

/-- The large page that a page stands in is broken up: each of its 32 pages has an entry of its own. -/
def splitLarge (t : Tbl TableEnt) (n : Nat) : Tbl TableEnt :=
  let b := n - n % 32
  match Tbl.find t b with
  | some e =>
    if e.large then
      (List.range 32).foldl (fun t i => Tbl.put t (b + i) { e with tgt := BitVec.ofNat 36 (entPage e (b + i)), large := false }) t
    else t
  | none => t

/-- Write an entry: a large page takes the place of the entries of its 32 pages. -/
def setEntry1 (t : Tbl TableEnt) (n : Nat) (e : TableEnt) : Tbl TableEnt :=
  let b := n - n % 32
  if e.large then Tbl.put ((List.range 32).foldl (fun t i => Tbl.del t (b + i)) t) b e
  else Tbl.put (splitLarge t n) n e

/-- The virtual pages that the guest's table maps. -/
def Ctx.mapped (c : Ctx) : List Nat :=
  c.stage1.flatMap (fun e => if e.2.large then (List.range 32).map (fun i => e.1 + i) else [e.1])

/-- Every page that the context's tables or page states know. -/
def Ctx.known (c : Ctx) : List Nat := (c.mapped ++ c.pages.map (·.1)).eraseDups

/-- RESIDENT is what both stages map and ABSENT what they do not, of the pages that are neither serviced nor migrate. -/
def Ctx.refresh (c : Ctx) : Ctx :=
  c.known.foldl (fun c n =>
    match (c.page n).st, (c.frame n).isSome with
    | .absent, true => c.setPage n { c.page n with st := .resident, noback := false }
    | .resident, false => c.setPage n { c.page n with st := .absent }
    | _, _ => c) c

/-- The new tables leave every usable page its frame and permit at least what it permitted: no shoot-down is needed. -/
def Ctx.keeps (c d : Ctx) : Bool :=
  c.known.all (fun n => !(c.page n).usable || (d.frame n == c.frame n &&
    [1, 2].all (fun a => !(c.stages n a matches .ok _) || (d.stages n a matches .ok _))))

/-! ## Frames (R317, spec/23_context.md R400, R401) -/

/-- The partition that owns a block from boot on: that of the slice whose stack it stands in. PRESUMED: blocks are numbered by their physical
addresses, 24 to a stack (notes/assumptions/117.md). Twelve blocks serve reduced service and a context that comes from it, DESIGN
CHOICE: the lowest of the slice (spec/30_bringup.md R485, notes/assumptions/118.md). -/
def State.bootOwner (s : State) (b : Nat) : BitVec 4 :=
  let lent := decide (b % 48 < 12)
  let kept (p : BitVec 4) : Bool := !s.hearth.shape.contains p && s.ctxs.any (fun c => c.2.part == p && c.2.st != .free)
  if s.hearth.stage == .reduced && !lent then 0
  else
    let on := s.hearth.parts.filter (fun p => p.getLsbD (b / 48))
    (((if lent then on.find? kept else none).or on.head?).getD 0)

/-- A block as Hearth has it. -/
def State.blockAt (s : State) (b : Nat) : Block := (Tbl.find s.blocks b).getD { owner := s.bootOwner b }

/-- A frame stands in a block that the partition owns. -/
def State.inPool (s : State) (part : BitVec 4) (pfn : Nat) : Bool :=
  decide (pfn < 192 * 32768) && (s.blockAt (pfn / 32768)).st == .owned && (s.blockAt (pfn / 32768)).owner == part

/-- Hearth holds the frame for a save area (spec/23_context.md R396). -/
def State.inArea (s : State) (pfn : Nat) : Bool := s.ctxs.any (fun c => c.2.area.contains pfn)

/-- The frames that an entry of the second stage names. -/
def framesOf (e : TableEnt) : List Nat :=
  if e.large then (List.range 32).map (fun i => entPage e i) else [uv e.tgt]

/-- The frames of a context. -/
def Ctx.frames (c : Ctx) : List Nat := c.stage2.flatMap (fun e => framesOf e.2)

/-- The frames to which a context's pages migrate. -/
def Ctx.dests (c : Ctx) : List Nat := (c.pages.filter (fun g => g.2.st == .migrating)).map (·.2.dest)

/-- The allocator may give a context the frames of an entry: they stand in its partition's pool, and no other context has them. -/
def State.mayMap (s : State) (vf : Nat) (c : Ctx) (e : Option TableEnt) : Bool :=
  match e with
  | none => true
  | some e => (framesOf e).all (fun f => s.inPool c.part f && !s.inArea f && s.ctxs.all (fun x =>
      !x.2.dests.contains f && (x.1 == vf || !x.2.frames.contains f)))

/-- Zero a frame of HBM (spec/23_context.md R401). -/
def State.zeroFrame (s : State) (pfn : Nat) : State :=
  State.dropLines { s with mem := s.mem.filter (fun x => x.1 / 65536 != pfn) } (fun l => l.n / 512 == pfn)

/-! ## The servicer (R318, R327-R329) -/

/-- The servicer's reply for a context whose tables the host keeps; a processor's action has none. -/
def State.svcAnswer (s : State) (vf : Nat) (st : Status) : State :=
  match s.ctx vf with
  | some c => if s.allocator c = .processor then s else s.answer vf st
  | none => s.answer vf st

/-- The tables of a context with the entries of a page written: the guest's, then the one behind the page's intermediate page. -/
def Ctx.write (c : Ctx) (p : Nat) (e1 e2 : Option TableEnt) : Ctx :=
  let c := match e1 with
    | some e => { c with stage1 := setEntry1 c.stage1 p e }
    | none => c
  match e2, c.ipn p with
  | some e, some i => { c with stage2 := setEntry1 c.stage2 i e }
  | _, _ => c

/-- Frames that an entry of the context named and none names any more go back to the pool zeroed (spec/23_context.md R401). -/
def State.freeFrom (s : State) (c d : Ctx) : State := (c.frames.filter (fun f => !d.frames.contains f)).foldl (fun s f => s.zeroFrame f) s

/-- FILLED: the servicer has written the page's entry of the stages that it serves. The page is RESIDENT once both stages map it,
and ABSENT while one does not (notes/assumptions/86.md). With `asked` it ends the page's service; without, the servicer maps the
page, or widens what it permits, through its tables. The new tables take no frame from a usable page and none that stands outside
the pool. Of a page that is not FETCHING it ends no service; the records of accesses that the page forbids are then taken as read
(notes/assumptions/17.md). With `host` it is a command of the host, which a processor has called for the page (R317). -/
def filledStep (vf p : Nat) (e1 e2 : Option TableEnt) (asked host : Bool) (s : State) : State :=
  let reply (st : Status) (s : State) := if host then s.answer vf st else s.svcAnswer vf st
  match s.ctx vf with
  | none => reply .notpend s
  | some c =>
    let d := c.write p e1 e2
    if asked && (c.page p).st != .fetching then reply .notpend (s.dropService vf p)
    else if 2 ^ 41 ≤ p ∨ c.st = .free ∨ !s.mayMap vf c e2 ∨ !c.keeps d then s
    else
      let d := (if asked then d.setPage p { d.page p with st := .absent, noback := false, lastNo := false } else d).refresh
      let s := s.freeFrom c d
      let s := ({ s with ctxs := Tbl.put s.ctxs vf d }.dropService vf p)
      let s := (s.rerun vf).finishWrites
      if asked then reply .ok s else s

/-- FILLED or NOBACK as a servicer gives it. As a management command it is answered MINIMAL in that stage (spec/30_bringup.md R487), and one for
another virtual function than its mailbox's, the operand then being that virtual function and 16 times the mailbox's number plus one,
is answered NOTOWN (R491). It need not wait for a MEMWRITE or a BIND of its mailbox, which waits for it (notes/assumptions/55.md). -/
def servicer (vf : Nat) (host : Bool) (s : State) (f : State → State) : State :=
  let byHost := host || ((s.ctx vf).map (fun c => s.allocator c != .processor)).getD true
  if vf < 16 then
    if s.hearth.stage = .minimal then (if byHost then s.answer vf .minimal else s) else f s
  else s.answer (vf / 16 - 1) (if s.hearth.stage = .minimal then .minimal else .notown)

/-- FILLED (R318): the servicer ends a page service with a frame. -/
def execFilled (vf page : Nat) (e1 e2 : Option TableEnt) (asked host : Bool) (s : State) : Host.Outcome State Fault Refusal :=
  .next (servicer vf host s (filledStep vf page e1 e2 asked host))

/-- NOBACK: the page has none. -/
def nobackStep (vf p : Nat) (s : State) : State :=
  match s.ctx vf with
  | none => s.svcAnswer vf .notpend
  | some c =>
    if (c.page p).st == .fetching then
      let s := { s with ctxs := Tbl.put s.ctxs vf (c.setPage p { c.page p with st := .absent, noback := true, lastNo := true }) }
      ((s.dropService vf p).finishWrites).svcAnswer vf .ok
    else ((s.dropService vf p).finishWrites).svcAnswer vf .notpend

/-- NOBACK (R318): the servicer ends a page service without a frame. -/
def execNoback (vf page : Nat) (s : State) : Host.Outcome State Fault Refusal :=
  .next (servicer vf false s (nobackStep vf page))

/-- The generations under which the requests of an operation that are in flight have translated. -/
def Op.flying (o : Op) : List (BitVec 16) :=
  match o.k with
  | .swage r => r.inflight.map (·.2)
  | _ => if o.words.isEmpty then [] else [o.gen]

/-- A request of the context that translated before a generation is in flight (R327): generations wrap, so that the older of two
is the one at a negative difference. -/
def State.oldInFlight (s : State) (vf : Nat) (gen : BitVec 16) : Bool :=
  s.ops.any (fun o => o.2.vf == vf && o.2.flying.any (fun g => decide (sv (g - gen) < 0)))

/-- The shoot-down of a page has run, and no older request is left. -/
def State.drained (s : State) (vf p : Nat) : Bool :=
  match (s.ctx vf).bind (fun c => c.shootdown.find? (fun x => x.1 == p)) with
  | some x => !s.oldInFlight vf x.2
  | none => false

/-- A request of the context that is in flight, under whatever generation, still has a byte to write in one of some frames, or moves bytes of a
page for Swage. -/
def State.stillUses (s : State) (vf p : Nat) (fs : List Nat) : Bool :=
  let on (va n : Nat) : Bool := decide (va / 65536 ≤ p) && decide (65536 * p < va + n)
  s.ops.any (fun o => o.2.vf == vf && ((!o.2.wwin && o.2.words.any (fun w => w.any (fun x => fs.contains (x.1 / 65536)))) ||
    (match o.2.k with
     | .swage r => (match Tbl.find s.plans r.plan with
       | some q => r.inflight.any (fun x => let g := (q.ownSeg x.1); on g.1.src g.1.len || (g.2 == s.dev && on g.1.dst g.1.len))
       | none => false)
     | _ => false)))

/-- The extent generation of a context rises, and the runs of the pages are written again with it. -/
def State.bumpExt (s : State) (vf : Nat) (pages : List Nat) : State :=
  match s.ctx vf with
  | none => s
  | some c =>
    { s.modCtx vf (fun c => { c with extgen := c.extgen + 1 }) with
      kernels := Tbl.mapVals (fun _ k =>
        if k.vf == vf then
          { k with runs := k.runs.map (fun r =>
              let base := ((k.hdr.exts[r.ext]?).map (·.va)).getD 0 / 65536 + uv r.off
              if pages.any (fun p => decide (base ≤ p) && decide (p ≤ base + uv r.len)) then { r with gen := c.extgen + 1 } else r) }
        else k) s.kernels }

/-- SHOOTDOWN (R327): the extent generation rises with the runs of the pages, and the servicer waits for older requests. -/
def execShootdown (vf : Nat) (pages : List Nat) (s : State) : Host.Outcome State Fault Refusal :=
  .next ((s.bumpExt vf pages).modCtx vf (fun c => { c with
    shootdown := c.shootdown.filter (fun x => !pages.contains x.1) ++ pages.map (fun p => (p, c.extgen)) }))

/-- The shoot-down of a page is over. -/
def Ctx.acted (c : Ctx) (p : Nat) : Ctx := { c with shootdown := c.shootdown.filter (fun x => x.1 != p) }

/-- The tables once a servicer has acted on a page. -/
def Ctx.act (c : Ctx) (p : Nat) (a : PageAct) : Ctx :=
  let ipn := c.ipn p
  match a with
  | .remove s1 s2 =>
    let c' := if s1 then { c with stage1 := Tbl.del (splitLarge c.stage1 p) p } else c
    match s2, ipn with
    | true, some i => { c' with stage2 := Tbl.del (splitLarge c.stage2 i) i }
    | _, _ => c'
  | .narrow s1 rd wr =>
    let cut (t : Tbl TableEnt) (n : Nat) : Tbl TableEnt :=
      Tbl.modify (fun e => { e with rd := e.rd && rd, wr := e.wr && wr }) (splitLarge t n) n
    if s1 then { c with stage1 := cut c.stage1 p }
    else match ipn with
      | some i => { c with stage2 := cut c.stage2 i }
      | none => c

/-- The pages that lose their frame in a change of the tables are RESIDENT and not pinned (R316). -/
def Ctx.mayLose (c d : Ctx) : Bool :=
  c.known.all (fun n => d.frame n == c.frame n || ((c.page n).st == .resident && (c.page n).pins == 0) || !(c.page n).usable)

/-- RECLAIM: after the drain the servicer takes the page's entries out, which makes it ABSENT, or narrows them. It acts once no request that
is in flight uses the page any more, one that has started since the shoot-down among them; a frame that no entry of the context names any
more goes back to the pool zeroed (spec/23_context.md R401). -/
def reclaimStep (vf p : Nat) (a : PageAct) (s : State) : Option State :=
  match s.ctx vf with
  | none => none
  | some c =>
    let d := c.act p a
    if s.drained vf p && (c.page p).usable && c.mayLose d && !s.stillUses vf p (c.frames.filter (fun f => !d.frames.contains f)) then
      let s := s.freeFrom c d
      some (State.rerun { s with ctxs := Tbl.put s.ctxs vf (d.acted p).refresh } vf)
    else none

/-- RECLAIM (R327). -/
def execReclaim (vf : Nat) (task : PageTask) (s : State) : Host.Outcome State Fault Refusal :=
  .next ((reclaimStep vf task.page task.act s).getD s)

/-- MOVE (R329): a RESIDENT or PINNED page migrates to a frame of the pool that no context has; the shoot-down that MOVED waits for is one that
comes behind it. -/
def execMove (vf page pfn : Nat) (s : State) : Host.Outcome State Fault Refusal :=
  .next (s.modCtx vf (fun c =>
    if (c.page page).st == .resident && s.inPool c.part pfn && !s.inArea pfn &&
        s.ctxs.all (fun x => !x.2.frames.contains pfn && !x.2.dests.contains pfn) then
      (c.acted page).setPage page { c.page page with st := .migrating, dest := pfn }
    else c))

/-- The bytes of a frame stand in another frame, and the first is zeroed. -/
def State.copyFrame (s : State) (a b : Nat) : State :=
  if a = b then s
  else
    let xs := s.mem.filter (fun x => x.1 / 65536 == a)
    let s := (s.zeroFrame a).zeroFrame b
    { s with mem := xs.foldl (fun m x => NMap.set memDefault m (65536 * b + x.1 % 65536) x.2) s.mem }

/-- MOVED: the page's shoot-down has drained, the frame is copied, its new number stands in the table and in the runs, and the
page leaves MIGRATING. -/
def movedStep (vf p : Nat) (s : State) : Option State :=
  match s.ctx vf with
  | none => none
  | some c =>
    match (c.page p).st == .migrating && s.drained vf p, c.ipn p, c.frame p with
    | true, some i, some old =>
      let g := c.page p
      let d := { (c.acted p) with
        stage2 := Tbl.modify (fun m => { m with tgt := BitVec.ofNat 36 g.dest }) (splitLarge c.stage2 i) i }
      let s := s.copyFrame old g.dest
      some ((State.rerun { s with ctxs := Tbl.put s.ctxs vf (d.setPage p { g with st := .resident, dest := 0 }) } vf).finishWrites)
    | _, _, _ => none

/-- MOVED (R329). -/
def execMoved (vf page : Nat) (s : State) : Host.Outcome State Fault Refusal := .next ((movedStep vf page s).getD s)

end Sys2Proof.Machine
end

