-- ==== Sys2Proof/Machine/Engine.lean ====
section
/-! DEFINITION. Operations of the engines: issuing one under a handle, its markers, its end, its faults, its page services,
and the token buckets (spec/13_ordering.md R250-R256, spec/24_traps.md R414, spec/18_copy.md R349, R350). -/
namespace Sys2Proof.Machine

/-! ## Issue -/

/-- Append an operation at a sequencer under a handle: its entry, its record with the marker, its pending registers. -/
def pushOpAt (n : Nat) (w : Wave) (q hnd : Nat) (remote : Bool) (k : OpKind) (bar : Option Nat) (rs : List RegRef) (s : State) :
    State :=
  let (o, s) := s.take
  let id := ((s.wave n).map (·.nextId)).getD 0
  let op : Op := {
    kern := w.kern, team := w.team, vf := s.kernVf w.kern, k := k, marks := [⟨n, q, id, hnd⟩], bar := bar }
  { s.modWave n (fun x => (x.append q (if remote then .remote o else .op o)).addPend rs id) with
    ops := Tbl.put s.ops o op }

/-- Append an operation under the handle that it names. -/
def pushOp (n : Nat) (w : Wave) (hnd : Nat) (remote : Bool) (k : OpKind) (bar : Option Nat) (rs : List RegRef) (s : State) : State :=
  pushOpAt n w (w.getH hnd).seq hnd remote k bar rs s

/-- BARERR of an operation that names a barrier: UNSET, or no external arrivals (spec/12_barrier.md R246). -/
def opBarBad (s : State) (w : Wave) (b : Option BReg) : Bool :=
  match b with
  | none => false
  | some b => let x := s.barOf w b.toNat; !x.st || x.e == 0

/-- The checks of an operation in the order of their table: those of its options, HNDERR, BARERR, those of its addresses,
and the sequencer's room. -/
def opGate (s : State) (w : Wave) (o : FxOp) (first : Gate) (rest : Gate) : Gate :=
  match first with
  | .ok =>
    if !w.isOpen o.hnd.toNat then hndErr o.hnd.toNat
    else if opBarBad s w o.bar then .trap 7 (BitVec.ofNat 32 ((o.bar.map (·.toNat)).getD 0))
    else match rest with
      | .ok => if w.room o.hnd.toNat then .ok else .pend
      | g => g
  | g => g

/-- The local barrier an operation names. -/
def barNum (o : FxOp) : Option Nat := o.bar.map (·.toNat)

/-! ## Entries and markers -/

/-- The sequencer that holds an entry, and the entry. -/
def Wave.placeOf (w : Wave) (id : Nat) : Option (Nat × Entry) :=
  (w.seqs.find? (fun q => q.2.entries.any (fun e => e.id == id))).bind (fun q =>
    (q.2.entries.find? (fun e => e.id == id)).map (fun e => (q.1, e)))

/-- Change the state of an entry. -/
def setEntry (n id : Nat) (st : EntrySt) (s : State) : State :=
  s.modWave n (fun w => { w with seqs := Tbl.mapVals (fun _ q =>
    { q with entries := q.entries.map (fun e => if e.id == id then { e with st := st } else e) }) w.seqs })

/-- Change the state of every marker of an operation. -/
def setMarks (o : Op) (st : EntrySt) (s : State) : State := o.marks.foldl (fun s m => setEntry m.wave m.id st s) s

/-- The entry stands at the head of its sequencer. -/
def Wave.atHead (w : Wave) (q id : Nat) : Bool := ((w.seqAt q).entries.head?.map (·.id)) == some id

/-- Every older entry of the wave that touches the bytes is PERFORMED; in deterministic mode STAGED accesses count as such,
because COMMIT performs them first (R254, R266). -/
def opClear (s : State) (n : Nat) (w : Wave) (id : Nat) (rs : List (Nat × Nat)) : Bool :=
  w.standing.all (fun e => !(decide (e.id < id) && meets (touched s n w e.k) rs)) && !behindBuffered s n w id rs

/-- An operation's slice may be handed off: at the head, its bytes clear. -/
def sliceReady (s : State) (m : Mark) (o : Op) : Bool :=
  match s.wave m.wave with
  | none => false
  | some w => match s.team w.team with
    | none => false
    | some t => w.atHead m.seq m.id && opClear s m.wave w m.id (o.ranges t m.wave)

/-- The marker's entry has been handed off. -/
def handed (s : State) (m : Mark) : Bool :=
  match (s.wave m.wave).bind (fun w => w.placeOf m.id) with
  | some (_, e) => e.st == .handedOff
  | none => false

/-! ## The end of an operation -/

/-- The logical index of the wave whose operation it is: of a collective copy the lowest (spec/12_barrier.md R242). -/
def Op.source (o : Op) (s : State) : Nat :=
  match o.marks.filterMap (fun m => (s.wave m.wave).map (·.idx)) with
  | [] => 0
  | x :: xs => xs.foldl min x

/-- Every marker is removed; then a completed operation makes its barrier arrival (R255). -/
def endOp (i : Nat) (o : Op) (arrive : Bool) (s : State) : State :=
  let s := o.marks.foldl (fun s m => (dropEntry m.wave m.id s).modWave m.wave (·.clearPend m.id))
    { s with ops := Tbl.del s.ops i }
  let s := match arrive, o.bar with
    | true, some b => extArrive (o.source s) o.team b s
    | _, _ => s
  o.marks.foldl (fun s m => settleWave m.wave s) s

/-! ## Faults of operations (R414) -/

/-- The live wave of a team with the lowest logical index. -/
def liveWave (s : State) (t : Nat) : Option Nat :=
  ((sortBy (fun p => p.2.idx) ((s.teamWaves t).filter (fun p => p.2.live != 0))).head?).map (·.1)

/-- A fault found after ACCEPT is delivered to each live wave with a marker, else to the lowest live wave of the team; with
no live wave the kernel escalates. -/
def opFault (o : Op) (cause : Nat) (arg : Nat → Word) (s : State) : State :=
  let live := o.marks.filter (fun m => ((s.wave m.wave).map (fun w => w.live != 0)).getD false)
  let first := ((o.marks.head?).map (·.hnd)).getD 0
  if live.isEmpty then
    match liveWave s o.team with
    | some n => pendFault n cause (arg first) s
    | none =>
      match o.marks.head? with
      | some m => escalate m.wave (((s.wave m.wave).map (·.pc)).getD 0) (arg first) (s.modWave m.wave (·.mark cause))
      | none => s
  else live.foldl (fun s m => pendFault m.wave cause (arg m.hnd) s) s

/-- An operation word (R414): the kind and the handle. -/
def opWord (kind hnd : Nat) : Word := BitVec.ofNat 32 (16 * kind + hnd)

/-- The operation pauses at its segment with PAGEFLT: the page's service, the markers, the delivery. -/
def pauseOp (i : Nat) (o : Op) (kind : Nat) (page : Nat) (wr : Bool) (fslice foff : Nat) (s : State) : State :=
  let h := s.hdr o.kern
  let kid := ((s.kern o.kern).map (·.kid)).getD 0
  let s := s.service o.vf page kid s.dev 1 (h.extIndex (65536 * page)) (accOf wr)
  let s := s.modOp i (fun o => { o with st := .paused, cause := 17, fslice := fslice, foff := foff })
  opFault o 17 (opWord kind) (setMarks o .paused s)

/-- An operation of the context that is HANDED OFF goes on: through a halt it completes into the image
(spec/13_ordering.md R267). -/
def State.handedRuns (s : State) (vf : Nat) : Bool :=
  match ((s.ctx vf).map (·.st)).getD .free with
  | .parked | .restoring | .running | .yielding | .halting => true
  | _ => false

/-- The context's engines start segments (spec/23_context.md R393, R395). -/
def State.engineRuns (s : State) (vf : Nat) : Bool :=
  match s.ctx vf with
  | none => false
  | some c => c.st == .running || c.st == .yielding

/-- A declared extent forbids an access of the range (spec/17_page.md R315). -/
def Header.forbids (h : Header) (va n : Nat) (wr : Bool) : Bool :=
  h.exts.any (fun e => overlaps e.va (65536 * e.npages) (va / 65536 * 65536) (va + max n 1 - va / 65536 * 65536) &&
    !(if wr then e.wr else e.rd))

/-! ## Token buckets (R349, R350) -/

/-- Tokens for bytes written: one for each started KiB. -/
def tokensFor (n : Nat) : Nat := (n + 1023) / 1024

/-- The balance, priority tokens first, is positive. -/
def Ctx.affords (c : Ctx) : Bool := decide (0 < c.balance + c.prioTok)

/-- Spend tokens: priority tokens before ordinary ones. -/
def Ctx.spend (c : Ctx) (n : Nat) : Ctx :=
  let p := max 0 (min c.prioTok n)
  { c with prioTok := c.prioTok - p, balance := c.balance - (n - p) }

/-- A Tongs operation. -/
def OpKind.isTongs : OpKind → Bool
  | .copy _ _ _ _ _ => true
  | .gath _ _ _ _ _ => true
  | .scat _ _ _ _ => true
  | _ => false

/-- A Tongs operation of the virtual function is QUEUED or RUNNING. -/
def State.tongsActive (s : State) (vf : Nat) : Bool :=
  s.ops.any (fun o => o.2.vf == vf && o.2.k.isTongs && (o.2.st == .queued || o.2.st == .running))

/-- An idle virtual function becomes active: what it lent in the last 10 µs comes back as priority tokens, and the debt of each
borrower is set to what it borrowed; older records are forgiven. -/
def State.wakeTongs (s : State) (vf : Nat) : State :=
  if s.tongsActive vf then s
  else match s.ctx vf with
    | none => s
    | some c =>
      let recent := c.lent.filter (fun r => decide (s.us ≤ r.1 + 10))
      let s := s.modCtx vf (fun c => { c with prioTok := c.prioTok + (recent.map (fun r => r.2.2)).sum, lent := [] })
      ((recent.map (fun r => r.2.1)).eraseDups).foldl (fun s v =>
        s.modCtx v (fun b => { b with tdebt := ((recent.filter (fun r => r.2.1 == v)).map (fun r => r.2.2)).sum })) s

/-- A virtual function has a Tongs operation that waits for tokens. -/
def State.tokenBusy (s : State) (vf : Nat) : Bool :=
  s.tongsActive vf && !((s.ctx vf).map Ctx.affords).getD false

/-- Refill and payment of one virtual function. -/
def Ctx.refill (c : Ctx) : Ctx :=
  let pay := min c.tdebt ((c.allowance / 4 : Nat) : Int)
  { c with balance := min (2 * (c.allowance : Int)) (c.balance + c.allowance - pay), tdebt := c.tdebt - pay }

/-- An idle virtual function lends half of its balance, rounded down; a negative one moves half of its deficit. -/
def State.lend (s : State) (v u : Nat) : State :=
  match s.ctx u with
  | none => s
  | some c =>
    let b := c.balance / 2
    if v = u ∨ c.st = .free ∨ s.tongsActive u ∨ b = 0 then s
    else
      let s := s.modCtx u (fun c => { c with balance := c.balance - b, lent := c.lent ++ [(s.us, v, b)] })
      s.modCtx v (fun c => { c with balance := c.balance + b })

/-- Once per 1 ms the packets discarded for an old generation are reported, by source and virtual function (spec/25_link.md
R436). -/
def State.reportGens (s : State) : State :=
  if s.us % 1000 = 0 then
    let s' := s.peers.foldl (fun s p => p.2.gendisc.foldl (fun s x => s.logEv 13 p.1 1 x.1 x.2) s) s
    { s' with peers := Tbl.mapVals (fun _ p => { p with gendisc := [] }) s'.peers }
  else s

/-- The lowest clock among a partition's dies (spec/30_bringup.md R492). -/
def State.lowestClock (s : State) (part : BitVec 4) : Nat :=
  (s.dies.zipIdx.filter (fun d => part.getLsbD d.2)).foldl (fun m d => min m d.1.mhz) 4000

/-- A microsecond of a turn in full service at a lowered clock adds thermal credit, at most the slice length
(spec/23_context.md R402). -/
def State.accrue (s : State) : State :=
  if s.hearth.stage == .full then
    { s with ctxs := Tbl.mapVals (fun _ c =>
        if c.st == .running || c.st == .yielding || c.st == .halting then
          { c with credit := min (1000 * c.slice) (c.credit + (1000 - s.lowestClock c.part / 4)) }
        else c) s.ctxs }
  else s

/-- The tick of a microsecond (R350). -/
def State.tokenTick (s : State) : State :=
  let s := State.accrue (State.reportGens { s with us := s.us + 1 })
  let s := { s with ctxs := Tbl.mapVals (fun _ c => if c.st == .free then c else c.refill) s.ctxs }
  (List.range 16).foldl (fun s v =>
    if s.tokenBusy v && decide (((s.ctx v).map (·.balance)).getD 1 ≤ 0) then
      (List.range 16).foldl (fun s u => s.lend v u) s
    else s) s

/-- TOKEN_TICK (R350). -/
def execTokenTick (s : State) : Host.Outcome State Fault Refusal := .next s.tokenTick

/-- ALLOWANCE_SET (R349): from 1 to 37 500 tokens per µs; the balance is capped at twice the allowance. -/
def execAllowanceSet (box vf amount : Nat) (s : State) : Host.Outcome State Fault Refusal :=
  .next (vfCommand box vf s (fun s =>
    match s.ctx vf with
    | none => s.answer box .ctxbadarg
    | some c =>
      if amount = 0 ∨ 37500 < amount ∨ c.st = .free then s.answer box .ctxbadarg
      else (s.modCtx vf (fun c => { c with allowance := amount, balance := min c.balance (2 * (amount : Int)) })).answer box .ok))

end Sys2Proof.Machine
end

