-- ==== Sys2Proof/Machine/Tongs.lean ====
section
/-! DEFINITION. The Tongs: copies, tensor copies, gathers, scatters and circular buffers, from issue to completion
(spec/18_copy.md R332-R352). Acceptance and the order of the steps are in Steps.lean. -/
namespace Sys2Proof.Machine

/-! ## Address and options words (R332, R333) -/

/-- The place that a copy address names. -/
def placeAt (x : BitVec 64) : Place := ⟨x.getLsbD 63, uv x % 2 ^ 57⟩
/-- A reserved bit of a copy address is set. -/
def placeBad (x : BitVec 64) : Bool :=
  x.extractLsb' 57 6 != 0 || (x.getLsbD 63 && x.extractLsb' 21 36 != 0)
/-- LEN of an options word. -/
def optLen (o : Word) : Nat := uv o / 64
/-- CIX. -/
def optCix (o : Word) : Nat := uv o % 8
/-- DIR. -/
def optDir (o : Word) : Bool := o.getLsbD 5
/-- CBE. -/
def optCbe (o : Word) : Bool := o.getLsbD 4

/-- CPYERR of an options word of CPY or TCPY (R333, R352). -/
def optBad (s : State) (w : Wave) (o : Word) : Bool :=
  o.getLsbD 3 || (!optCbe o && optCix o != 0) ||
  (optCbe o && (s.cbufOf w (optCix o)).slots == 0)

/-- The circular buffer that an options word names. -/
def optBuf (s : State) (w : Wave) (o : Word) : CircReg := s.cbufOf w (optCix o)

/-- The range runs past the end of the wave's window. -/
def pastWindow (s : State) (w : Wave) (a n : Nat) : Bool := decide ((s.hdr w.kern).window < a + n)

/-! ## Team-collective operations (R335) -/

/-- A copy or a tensor copy. -/
def OpKind.isCopy : OpKind → Bool
  | .copy _ _ _ _ _ => true
  | _ => false

/-- A wave's slice joins the team's k-th copy, which the first slice makes. -/
def joinCopy (n : Nat) (w : Wave) (f : FxOp) (tensor dir cbe : Bool) (cix : Nat) (sl : Slice) (s : State) : State :=
  let k := ((s.team w.team).map (fun t => NMap.get 0 t.copies w.f1)).getD 0
  let s := s.modTeam w.team (fun t => { t with copies := NMap.set 0 t.copies w.f1 (k + 1) })
  let sl := { sl with
    wave := n, f1 := w.f1
    mode := [if tensor then 1 else 0, ((barNum f).map (· + 1)).getD 0, if dir then 1 else 0, if cbe then 1 else 0, cix] }
  match s.ops.find? (fun o => o.2.team == w.team && o.2.nth == k && o.2.k.isCopy && o.2.st == .gathering) with
  | some (i, _) =>
    let q := (w.getH f.hnd.toNat).seq
    let id := ((s.wave n).map (·.nextId)).getD 0
    (s.modWave n (fun x => x.append q (.op i))).modOp i (fun o => { o with
      marks := o.marks ++ [⟨n, q, id, f.hnd.toNat⟩]
      k := match o.k with
        | .copy a b c d xs => .copy a b c d (xs ++ [sl])
        | x => x })
  | none =>
    let i := s.serial
    (pushOp n w f.hnd.toNat false (.copy tensor dir cbe cix [sl]) (barNum f) [] s).modOp i (fun o => { o with nth := k })

/-! ## CPY (R336) -/

/-- ADDRERR of a slice. -/
def cpyAddrBad (s : State) (w : Wave) (o : Word) (src dst : BitVec 64) : Bool :=
  let a := placeAt src
  let d := placeAt dst
  let n := optLen o
  placeBad src || placeBad dst || a.addr % 4 != 0 || d.addr % 4 != 0 || n % 4 != 0 ||
  (a.win && pastWindow s w a.addr n) ||
  (if optCbe o then decide ((optBuf s w o).slotb < d.addr + n) else d.win && pastWindow s w d.addr n)

/-- EXTFLT of a slice. -/
def cpyExtBad (s : State) (w : Wave) (o : Word) (src dst : BitVec 64) : Bool :=
  let a := placeAt src
  let d := placeAt dst
  let h := s.hdr w.kern
  (!a.win && h.forbids a.addr (optLen o) false) || (!d.win && h.forbids d.addr (optLen o) true)

/-- The checks of CPY. -/
def cpyGate (f : FxOp) (s : State) (w : Wave) : Gate :=
  let o := w.getS f.sparm.toNat
  let src := w.getS64 f.sbase.toNat
  let dst := w.getS64 (f.sbase.toNat + 2)
  opGate s w f
    (if optBad s w o || optDir o || (optCbe o && !dst.getLsbD 63) then .trap 14 s.slotArg else .ok)
    (if cpyAddrBad s w o src dst then .trap 5 s.slotArg
     else if cpyExtBad s w o src dst then .trap 16 s.slotArg
     else .ok)

/-- CPY (R336): issues this wave's slice of a team-collective copy. -/
def execCpy (f : FxOp) (s : State) : Host.Outcome State Fault Refusal :=
  issue (.cpy f) s (fun _ w s => cpyGate f s w) (fun n w s' =>
    let o := w.getS f.sparm.toNat
    joinCopy n w f false false (optCbe o) (optCix o)
      { wave := n, f1 := w.f1, src := placeAt (w.getS64 f.sbase.toNat), dst := placeAt (w.getS64 (f.sbase.toNat + 2))
        len := optLen o } s')

/-! ## TCPY (R339-R342) -/

/-- bb, the bytes of a stored block (R341). -/
def storedBytes (f : Nat) : Nat := [128, 64, 64, 34, 18, 35, 19, 32, 32, 16].getD f 0
/-- Bytes of a stored block's head. -/
def headBytes (f : Nat) : Nat := [0, 0, 0, 2, 2, 3, 3].getD f 0

/-- The offset of stored block (r, β) from the base (R341). -/
def blockOff (d : List Byte) (r β : Nat) : Nat :=
  let bb := storedBytes (dSfmt d)
  match dLayout d with
  | 0 => r * dStride d + β * bb
  | 1 => β * dStride d + r * bb
  | _ => r * dStride d + β * ((bb + 15) / 16 * 16)

/-- A stored block: its row and column, its address and the address of its MX scale. -/
structure Stored where
  row : Nat
  col : Nat
  addr : Nat
  scale : Option Nat
deriving DecidableEq, Repr

/-- The stored blocks that a descriptor names, from a base address. -/
def storedBlocks (d : List Byte) (base : Nat) : List Stored :=
  let n := dCols d / 32
  (List.range (dRows d)).flatMap (fun r => (List.range n).map (fun β =>
    { row := r, col := β, addr := (base + blockOff d r β) % 2 ^ 57
      scale := if 7 ≤ dSfmt d then some ((dScaddr d + r * n + β) % 2 ^ 57) else none }))

/-- The descriptor's elements are converted. -/
def converts (t : TileReg) (d : List Byte) : Bool := dSfmt d != t.fmt.toNat

/-- CPYERR of a descriptor (R342). -/
def descBad (s : State) (w : Wave) (o : Word) (d : List Byte) : Bool :=
  let t := w.getD (dReg d % 8)
  let side := fmtSided t.fmt
  let sl := optBuf s w o
  decide (9 < dSfmt d) || decide (2 < dLayout d) || decide (8 ≤ dReg d) || natAt d 3 1 != 0 || natAt d 40 8 != 0 ||
  t.fmt == 7 || dRows d == 0 || dCols d == 0 || dCols d % 32 != 0 ||
  decide (t.rows.toNat < dRow0 d + dRows d) || decide (t.er < dCols d) || dSide d % 4 != 0 ||
  (decide (dSfmt d < 7) && dScaddr d != 0) || decide (2 ^ 57 ≤ dScaddr d) || (optDir o && decide (7 ≤ dSfmt d)) ||
  (converts t d && (decide (128 < dRows d) || decide (128 < dCols d))) ||
  (if optCbe o then
     decide (sl.slotb < t.rows.toNat * uv t.pitch) || (side && decide (sl.slotb < dSide d + 4 * (t.rows.toNat * t.er / 32)))
   else side && pastWindow s w (dSide d) (4 * (t.rows.toNat * t.er / 32))) ||
  (((s.ctx (s.kernVf w.kern)).map (·.reduced)).getD false && decide (1 < dSfmt d))

/-- The pages of the stored blocks and scales, and whether each is written. -/
def tcpyPages (d : List Byte) (base : Nat) (dir : Bool) : List (Nat × Nat × Bool) :=
  (storedBlocks d base).flatMap (fun b => (b.addr, storedBytes (dSfmt d), dir) :: (match b.scale with
    | some a => [(a, 1, false)]
    | none => []))

/-- Entries of the wave, not PERFORMED, that touch window bytes. -/
def olderOn (s : State) (n : Nat) (w : Wave) (rs : List (Nat × Nat)) : List Nat :=
  (w.standing.filter (fun e => meets (touched s n w e.k) rs)).map (·.id) ++
  ((w.buf ++ s.stagedOf n w).filter (fun x => meets (touched s n w x.k) rs)).map (·.id)

/-- The descriptor that TCPY reads. -/
def tcpyDesc (f : FxOp) (s : State) (w : Wave) : List Byte := readWin s w.team (uv (w.getS (f.sbase.toNat + 2))) 48

/-- The checks of TCPY from the reading of its descriptor on. -/
def tcpyLate (f : FxOp) (s : State) (w : Wave) : Gate :=
  let o := w.getS f.sparm.toNat
  let d := tcpyDesc f s w
  let base := (placeAt (w.getS64 f.sbase.toNat)).addr
  if descBad s w o d then .trap 14 s.slotArg
  else if (tcpyPages d base (optDir o)).any (fun x => (s.hdr w.kern).forbids x.1 x.2.1 x.2.2) then .trap 16 s.slotArg
  else .ok

/-- The checks of TCPY: it waits in its word until the older entries that touch its descriptor are PERFORMED. -/
def tcpyGate (f : FxOp) (n : Nat) (w : Wave) (s : State) : Gate :=
  let o := w.getS f.sparm.toNat
  let m := w.getS64 f.sbase.toNat
  let off := uv (w.getS (f.sbase.toNat + 2))
  let ids := match w.hold with
    | some x => x.data
    | none => olderOn s n w [(off, 48)]
  opGate s w f
    (if optBad s w o || optLen o != 0 || (optCbe o && optDir o) then .trap 14 s.slotArg else .ok)
    (if placeBad m || m.getLsbD 63 || off % 16 != 0 || pastWindow s w off 48 then .trap 5 s.slotArg
     else if !ids.all (performed s n w) then .wait ids
     else tcpyLate f s w)

/-- TCPY (R342): issues a slice of a team-collective tensor copy, reading its descriptor. -/
def execTcpy (f : FxOp) (s : State) : Host.Outcome State Fault Refusal :=
  issue (.tcpy f) s (tcpyGate f) (fun n w s' =>
    let o := w.getS f.sparm.toNat
    let d := tcpyDesc f s' w
    joinCopy n w f true (optDir o) (optCbe o) (optCix o)
      { wave := n, f1 := w.f1, src := ⟨false, 0⟩, dst := ⟨false, 0⟩, len := 0
        tmem := (placeAt (w.getS64 f.sbase.toNat)).addr, desc := d, tile := w.getD (dReg d % 8) } s')

/-! ## GATH and SCAT (R343) -/

/-- The element size of an options word. -/
def optSize (o : Word) : Nat := 2 ^ (uv o / 16 % 4)
/-- The flag register that a gather writes. -/
def optFlag (o : Word) : Option Nat := if o.getLsbD 3 then some (optCix o) else none
/-- CPYERR of the options word of a gather or a scatter. -/
def elemOptBad (gath : Bool) (o : Word) : Bool :=
  uv o / 64 != 0 || (!gath && o.getLsbD 3) || (!o.getLsbD 3 && optCix o != 0)

/-- The elements that a word names: a page reference in Vk, an offset in Vk+1 (spec/17_page.md R322). -/
def elemsOf (w : Wave) (k : Nat) (paired : Bool) : List Elem :=
  (cellsOf w.active).map (fun f =>
    let r := uv (w.getV f k)
    { f := f, ext := r / 2 ^ 26, page := r % 2 ^ 26, off := if paired then uv (w.getV f (k + 1)) else 0 })

/-- The reference names a page of a declared extent with a permission. -/
def refOk (h : Header) (ok : Extent → Bool) (e : Elem) : Bool :=
  match h.exts[e.ext]? with
  | none => false
  | some x => decide (e.page < x.npages) && ok x

/-- EXTFLT of a list of references: the slot, with the lowest failing cell (spec/24_traps.md R407). -/
def extFlt (s : State) (h : Header) (ok : Extent → Bool) (els : List Elem) : Option Gate :=
  (els.find? (fun e => !refOk h ok e)).map (fun e => .trap 16 (BitVec.ofNat 32 (s.chain.slot + 2 ^ 15 + 2 ^ 16 * e.f)))

/-- The checks of GATH and SCAT. -/
def elemGate (gath : Bool) (f : FxOp) (s : State) (w : Wave) : Gate :=
  let o := w.getS f.sparm.toNat
  let k := uv (w.getS f.sbase.toNat) % 64
  let org := uv (w.getS (f.sbase.toNat + 1))
  let sz := optSize o
  let h := s.hdr w.kern
  let flag : List RegRef := match optFlag o with
    | some p => if gath then [.p p] else []
    | none => []
  if w.hold.isNone && w.holdsUp (flag ++ [.v k, .v (k + 1)]) then .pend
  else if k < 63 ∧ 32 ≤ k + 1 ∧ !w.ext then .trap 2 s.slotArg
  else
    opGate s w f
      (if elemOptBad gath o || k == 63 then .trap 14 s.slotArg else .ok)
      (match extFlt s h (fun x => if gath then x.rd else x.wr) (elemsOf w k true) with
       | some g => g
       | none =>
         if (elemsOf w k true).any (fun e => e.off % sz != 0 || decide (65536 < e.off + sz)) ||
            pastWindow s w org (sz * s.lanesOf w) then .trap 5 s.slotArg
         else .ok)

/-- GATH (R343): issues a per-wave gather of one element per active cell. -/
def execGath (f : FxOp) (s : State) : Host.Outcome State Fault Refusal :=
  issue (.gath f) s (fun _ w s => elemGate true f s w) (fun n w s' =>
    let o := w.getS f.sparm.toNat
    let k := uv (w.getS f.sbase.toNat) % 64
    pushOp n w f.hnd.toNat false
      (.gath k (uv (w.getS (f.sbase.toNat + 1))) (optSize o) (optFlag o) (elemsOf w k true)) (barNum f)
      (match optFlag o with
       | some p => [.p p]
       | none => []) s')

/-- SCAT (R343): issues a per-wave scatter of one element per active cell. -/
def execScat (f : FxOp) (s : State) : Host.Outcome State Fault Refusal :=
  issue (.scat f) s (fun _ w s => elemGate false f s w) (fun n w s' =>
    let o := w.getS f.sparm.toNat
    let k := uv (w.getS f.sbase.toNat) % 64
    pushOp n w f.hnd.toNat false
      (.scat k (uv (w.getS (f.sbase.toNat + 1))) (optSize o) (elemsOf w k true)) (barNum f) [] s')

/-! ## Segments (R337, R342, R343) -/

/-- What a segment moves. -/
inductive Moved where
  | bytes (src dst : Place) (n : Nat)
  | blocks (x : Slice) (dir : Bool) (origin side : Nat) (bs : List Stored)
  | elems (o sz : Nat) (es : List (Nat × Nat))

/-- A segment: its place in the operation's order, the slice's F1, its offset within the slice, the memory it uses and the
bytes it writes. -/
structure Seg where
  key : Nat
  f1 : Nat
  off : Nat
  need : List (Nat × Nat × Bool)
  writes : Nat
  moved : Moved

/-- The pieces of a slice, cut at every 64 KiB of its destination: (offset, length). -/
def cut (dst : Nat) : Nat → Nat → Nat → List (Nat × Nat)
  | 0, _, _ => []
  | n + 1, off, len =>
    if len ≤ off then []
    else
      let m := min (len - off) (65536 - (dst + off) % 65536)
      (off, m) :: cut dst n (off + m) len

/-- The segments of a CPY slice whose window destinations lie from a base. -/
def Slice.cpySegs (base : Nat) (x : Slice) : List Seg :=
  let d := if x.dst.win then base + x.dst.addr else x.dst.addr
  (cut d (x.len / 65536 + 2) 0 x.len).map (fun p => {
    key := ((if x.dst.win then 2 ^ 64 else 0) + d + p.1) * 16 + x.f1, f1 := x.f1, off := p.1
    need := (if x.src.win then [] else [(x.src.addr + p.1, p.2, false)]) ++ (if x.dst.win then [] else [(d + p.1, p.2, true)])
    writes := p.2, moved := .bytes ⟨x.src.win, x.src.addr + p.1⟩ ⟨x.dst.win, d + p.1⟩ p.2 })

/-- The segments of a TCPY slice: the stored blocks that begin in each page. -/
def Slice.tcpySegs (dir : Bool) (base : Option Nat) (x : Slice) : List Seg :=
  let bs := storedBlocks x.desc x.tmem
  let bb := storedBytes (dSfmt x.desc)
  let n := 4 * fmtBits x.tile.fmt + (if fmtSided x.tile.fmt then 4 else 0)
  ((bs.map (fun b => b.addr / 65536)).eraseDups).map (fun p =>
    let here := bs.filter (fun b => b.addr / 65536 == p)
    { key := p * 16 + x.f1, f1 := x.f1, off := bb * (bs.filter (fun b => decide (b.addr / 65536 < p))).length
      need := here.flatMap (fun b => (b.addr, bb, dir) :: (match b.scale with
        | some a => [(a, 1, false)]
        | none => []))
      writes := (if dir then bb else n) * here.length
      moved := .blocks x dir (base.getD (uv x.tile.base)) (base.getD 0 + dSide x.desc) here })

/-- The address of an element. -/
def Header.elemAddr (h : Header) (e : Elem) : Nat := ((h.exts[e.ext]?).map (·.va)).getD 0 + 65536 * e.page + e.off

/-- The segments of an operation, in their order. A copy into a circular buffer has none before its RESERVE. -/
def Op.segs (s : State) (o : Op) : List Seg :=
  match o.k with
  | .copy tensor dir cbe cix xs =>
    let buf : CircReg := ((s.team o.team).map (fun t => t.cbuf cix)).getD {}
    let base := o.slot.map buf.at
    if cbe && o.slot.isNone then []
    else sortBy (·.key) (xs.flatMap (fun x => if tensor then x.tcpySegs dir base else x.cpySegs (base.getD 0)))
  | .scat _ org sz els =>
    let h := s.hdr o.kern
    let es := els.map (fun e => (e.f, h.elemAddr e))
    sortBy (·.key) (((es.map (fun e => e.2 / 65536)).eraseDups).map (fun p =>
      let here := es.filter (fun e => e.2 / 65536 == p)
      { key := p, f1 := ((o.marks.head?.bind (fun m => s.wave m.wave)).map (·.f1)).getD 0, off := sz * (es.filter (fun e => decide (e.2 / 65536 < p))).length
        need := here.map (fun e => (e.2, sz, true)), writes := sz * here.length, moved := .elems org sz here }))
  | _ => []

/-- The segments of an operation: a gather is one, and those of a tensor copy are the pages of its memory side (R342). -/
def Op.segCount (s : State) (o : Op) : Nat :=
  match o.k with
  | .gath _ _ _ _ _ => 1
  | .copy true dir _ _ xs => (xs.flatMap (fun x => x.tcpySegs dir none)).length
  | _ => (o.segs s).length

/-! ## What a segment does -/

/-- Read a place. -/
def readPlace (s : State) (o : Op) (p : Place) (n : Nat) : List Byte :=
  if p.win then readWin s o.team p.addr n else (s.vread o.vf p.addr n).getD []
/-- The 32 values of a block in a format code of R341, widened to FP32 (R342). An MX element whose value times its scale lies
beyond the FP32 range has no FP32 value to be widened to; the model rounds it to an infinity (notes/assumptions/88.md). -/
def blockVals (f : Nat) (bs : List Byte) (scale : Nat) : List FVal :=
  let narrow (m : NFmt) := (List.range 32).map (fun e => m.val bs e)
  let raw := match f with
    | 0 => (List.range 32).map (fun e => f32.decode (natAt bs (4 * e) 4))
    | 1 => (List.range 32).map (fun e => bf16.decode (natAt bs (2 * e) 2))
    | 2 => (List.range 32).map (fun e => f16.decode (natAt bs (2 * e) 2))
    | 3 => narrow .tx8
    | 4 => narrow .tx4
    | 5 => narrow .ob8
    | 6 => narrow .ob4
    | 7 => (List.range 32).map (fun e => mxVal e4m3 scale (natAt bs e 1))
    | 8 => (List.range 32).map (fun e => mxVal e5m2 scale (natAt bs e 1))
    | _ => (List.range 32).map (fun e => mxVal e2m1 scale (elAt false bs e))
  raw.map (fun x => f32.decode (f32.roundNE x))

/-- 32 values as a block in a format code. -/
def blockBytes (f : Nat) (xs : List FVal) (z : Nat → BitVec 64) : List Byte :=
  let narrow (m : NFmt) := m.bytes (m.quant xs z)
  match f with
  | 0 => xs.flatMap (fun x => bytesOf 4 (f32.roundNE x))
  | 1 => xs.flatMap (fun x => bytesOf 2 (bf16.roundNE x))
  | 2 => xs.flatMap (fun x => bytesOf 2 (f16.roundNE x))
  | 3 => narrow .tx8
  | 4 => narrow .tx4
  | 5 => narrow .ob8
  | _ => narrow .ob4

/-- The draws of a moved block (R342). -/
def tcpyDraw (h : Header) (d : List Byte) (b : Stored) (e : Nat) : BitVec 64 :=
  draw domTile h.seed (BitVec.ofNat 64 (dRB d * 2 ^ 32 + dCB d * 2 ^ 16 + b.row)) (BitVec.ofNat 64 (32 * b.col + e))

/-- The window addresses of the tile words of a block. -/
def blockWords (x : Slice) (origin : Nat) (b : Stored) : List Nat :=
  let n := fmtBits x.tile.fmt
  (List.range n).map (fun i => x.tile.word origin (dRow0 x.desc + b.row) (b.col * n + i))

/-- What a stored block leaves in the window: bytes by their offsets. -/
def loadBlock (o : Op) (x : Slice) (origin side : Nat) (b : Stored) (s : State) : List (Nat × List Byte) :=
  let bs := (s.vread o.vf b.addr (storedBytes (dSfmt x.desc))).getD []
  let sc := match b.scale with
    | some a => natOf ((s.vread o.vf a 1).getD [])
    | none => 0
  let f := x.tile.fmt.toNat
  let blk := if converts x.tile x.desc then blockBytes f (blockVals (dSfmt x.desc) bs sc) (tcpyDraw (s.hdr o.kern) x.desc b) else bs
  let hd := headBytes f
  (blockWords x origin b).zipIdx.map (fun a => (a.1, (blk.drop (hd + 4 * a.2)).take 4)) ++
  (if fmtSided x.tile.fmt then
    [(x.tile.sideWord side (dRow0 x.desc + b.row) b.col, blk.take hd ++ List.replicate (4 - hd) 0)]
   else [])

/-- What a block of the tile leaves in memory. -/
def saveBlock (o : Op) (x : Slice) (origin side : Nat) (b : Stored) (s : State) : List (Nat × List Byte) :=
  let f := x.tile.fmt.toNat
  let head := readWin s o.team (x.tile.sideWord side (dRow0 x.desc + b.row) b.col) (headBytes f)
  let blk := (if fmtSided x.tile.fmt then head else []) ++
    (blockWords x origin b).flatMap (fun a => readWin s o.team a 4)
  [(b.addr, if converts x.tile x.desc then
      blockBytes (dSfmt x.desc) (blockVals f blk 0) (tcpyDraw (s.hdr o.kern) x.desc b)
    else blk)]

/-- Bytes by address. -/
def spread (x : Nat × List Byte) : List (Nat × Byte) := x.2.zipIdx.map (fun y => (x.1 + y.2, y.1))

/-- The bytes of writes in their order, by rising address: a later one stands over an earlier. -/
def overlay (xs : List (Nat × List Byte)) : List (Nat × Byte) :=
  (xs.flatMap spread).foldl (fun m y => NMap.put m y.1 y.2) []

/-- The window is what a segment writes. -/
def Moved.toWin : Moved → Bool
  | .bytes _ dst _ => dst.win
  | .blocks _ dir _ _ _ => !dir
  | .elems _ _ _ => false

/-- What a segment of a copy writes, from its source as it stands: bytes by rising address. -/
def Moved.out (m : Moved) (o : Op) (s : State) : List (Nat × Byte) :=
  match m with
  | .bytes src dst n => spread (dst.addr, readPlace s o src n)
  | .blocks x dir org side bs =>
    overlay (bs.flatMap (fun b => if dir then saveBlock o x org side b s else loadBlock o x org side b s))
  | .elems _ _ _ => []

/-- Bytes of rising addresses, by the aligned 4-byte words that they stand in. -/
def byWord : List (Nat × Byte) → List (List (Nat × Byte))
  | [] => []
  | x :: xs =>
    match byWord xs with
    | (y :: ys) :: rest => if x.1 / 4 = y.1 / 4 then (x :: y :: ys) :: rest else [x] :: (y :: ys) :: rest
    | rest => [x] :: rest

/-- The addresses of memory bytes as their pages stand now; a byte without a frame is left out. -/
def State.located (s : State) (vf : Nat) (xs : List (Nat × Byte)) : List (Nat × Byte) :=
  xs.filterMap (fun x => ((s.ctx vf).bind (fun c => c.phys x.1)).map (fun pa => (pa, x.2)))

/-! ## Steps of a Tongs operation -/

/-- The words that a segment writes, by physical address or window offset: a scatter's element by element, in ascending F0 (R343), any
other's by rising address. -/
def Moved.wordsOf (m : Moved) (o : Op) (s : State) : List (List (Nat × Byte)) :=
  match m with
  | .elems org sz es =>
    (sortBy (fun e => e.1) es).flatMap (fun e => byWord (s.located o.vf (spread (e.2, readWin s o.team (org + sz * e.1) sz))))
  | _ => byWord (if m.toWin then m.out o s else s.located o.vf (m.out o s))

/-- The operation waits in a Tongs queue or runs there. -/
def Op.active (o : Op) : Bool := o.st == .queued || o.st == .running

/-- A segment of the operation has started and not ended: words are left to write, or elements to gather. -/
def Op.within (o : Op) : Bool :=
  !o.words.isEmpty || (match o.k with
    | .gath _ _ _ _ _ => o.st == .running && o.seg == 0
    | _ => false)

/-- The operation goes on to its next segment; at the end of its context's slice it is QUEUED there (R351). -/
def nextSegment (i : Nat) (o : Op) (s : State) : State :=
  s.modOp i (fun x => { x with seg := x.seg + 1, words := [], st := if s.engineRuns o.vf then .running else .queued })

/-- The memory that an operation's segment uses: its team's cluster asks the slices for the lines, and what it reads comes through
them. -/
def askAll (o : Op) (need : List (Nat × Nat × Bool)) (s : State) : State :=
  let cluster := clusterOf (((s.team o.team).map (·.core)).getD 0)
  need.foldl (fun s x =>
    let s := s.askLines o.vf cluster x.2.2 x.1 x.2.1
    if x.2.2 then s else s.useRange o.vf false x.1 x.2.1) s

/-- A segment starts: it reads its source, under the translation of this moment, and what it is to write is fixed. -/
def startSegment (i : Nat) (o : Op) (g : Seg) (s : State) : State :=
  let ws := g.moved.wordsOf o s
  let s := askAll o g.need s
  let s := s.modOp i (fun x => { x with
    st := .running, words := ws, wwin := g.moved.toWin, gen := ((s.ctx o.vf).map (·.extgen)).getD 0 })
  if ws.isEmpty then nextSegment i o s else s

/-- One aligned word is written, in one step (R255, R264); memory's through its line. -/
def writeWord (o : Op) (xs : List (Nat × Byte)) (s : State) : State :=
  let s := xs.foldl (fun s x => if o.wwin then writeWin o.team x.1 [x.2] s else s.setHbm x.1 [x.2]) s
  match o.wwin, xs with
  | false, x :: _ => (s.tamper none (xs.map (·.1))).useLine o.vf true (x.1 / 128)
  | _, _ => s

/-- The word of a segment that may be written next under a number: any of them, but for a scatter's, whose words come in their order
(R337, R343). -/
def Op.wordAt (o : Op) (k : Nat) : Nat :=
  match o.k with
  | .scat _ _ _ _ => 0
  | _ => k

/-- A word of a segment that has started is written. -/
def wordStep (i : Nat) (o : Op) (k : Nat) (s : State) : Option State :=
  match o.words[o.wordAt k]? with
  | none => none
  | some w =>
    let ws := o.words.eraseIdx (o.wordAt k)
    some (if ws.isEmpty then nextSegment i o (writeWord o w s) else (writeWord o w s).modOp i (fun x => { x with words := ws }))

/-- One element of a gather, by the state of its page alone: the memory value, or zero and a flag while it has no frame; it waits
while the page migrates (R319). -/
def gatherElem (i : Nat) (o : Op) (org sz : Nat) (flag : Option Nat) (count : Nat) (e : Elem) (s : State) : Option State :=
  let va := (s.hdr o.kern).elemAddr e
  let st := (s.pageOf o.vf (va / 65536)).st
  if st = .migrating then none
  else
    let bad := st != .resident
    let s := askAll o [(va, sz, false)] s
    let s := writeWin o.team (org + sz * e.f) (if bad then List.replicate sz 0 else (s.vread o.vf va sz).getD []) s
    let s := match flag, o.marks.head? with
      | some p, some k => s.modWave k.wave (fun w => w.setP e.f p bad)
      | _, _ => s
    let s := s.modOp i (fun o => { o with st := .running, nth := o.nth + 1 })
    some (if count ≤ o.nth + 1 then nextSegment i o s else s)

/-- SEGMENT of a Tongs operation: a segment that has started goes on; else the next one starts, while there are tokens and its
pages can be used. -/
def tongsSegment (i : Nat) (o : Op) (s : State) : Option State :=
  let affords := ((s.ctx o.vf).map Ctx.affords).getD false
  let pay (n : Nat) (s : State) := s.modCtx o.vf (fun c => c.spend (tokensFor n))
  if !o.active || !s.handedRuns o.vf then none
  else if !o.words.isEmpty then wordStep i o 0 s
  else if !o.within && !(s.engineRuns o.vf && affords) then none
  else match o.k with
    | .gath _ org sz flag els =>
      (match els[o.nth]? with
       | none => if o.seg = 0 then some (nextSegment i o s) else none
       | some e =>
         if o.seg = 0 then gatherElem i o org sz flag els.length e (if o.nth = 0 then pay (sz * els.length) s else s) else none)
    | _ =>
      match (o.segs s)[o.seg]? with
      | none => none
      | some g => if s.meetAll o.vf g.need == .ok then some (startSegment i o g (pay g.writes s)) else none

/-- FAULT of a Tongs segment before it writes (R348). -/
def tongsFault (i : Nat) (o : Op) (s : State) : Option State :=
  if !o.active || o.within || !s.engineRuns o.vf then none
  else match (o.segs s)[o.seg]? with
    | none => none
    | some g =>
      match s.meetAll o.vf g.need with
      | .fault p =>
        let wr := match g.need.find? (fun x => (s.meet o.vf x.1 x.2.1 x.2.2) == .fault p) with
          | some x => x.2.2
          | none => false
        if s.hasRoom o.vf p (accOf wr) then some (pauseOp i o 1 p wr g.f1 g.off s) else none
      | _ => none

/-! ## Circular buffers (R344-R347) -/

/-- Free slots. -/
def CircReg.room (c : CircReg) : Nat := c.slots - c.nres - c.ntak - c.nfil

/-- FILLED, as often as the oldest reserved slot's copy is complete. -/
def promote (c : Nat) : Nat → Team → Team
  | 0, t => t
  | n + 1, t =>
    let b := t.cbuf c
    let slot := (b.filp + b.slots - b.nres) % b.slots
    if 0 < b.nres ∧ t.filled.contains (c, slot) then
      promote c n { t with
        filled := t.filled.filter (fun x => x != (c, slot))
        cbufs := NMap.set {} t.cbufs c { b with nres := b.nres - 1, nfil := b.nfil + 1 } }
    else t

/-- FILLED in every buffer of a team. -/
def Team.promoteAll (t : Team) : Team := (List.range 8).foldl (fun t c => promote c 64 t) t

/-- A copy leaves its slot complete; in deterministic mode the slot is FULL from the round boundary on (R351). -/
def fillSlot (o : Op) (s : State) : State :=
  match o.k, o.slot with
  | .copy _ _ true cix _, some k =>
    s.modTeam o.team (fun t =>
      let t := { t with filled := t.filled ++ [(cix, k)] }
      if (s.hdr o.kern).det then t else t.promoteAll)
  | _, _ => s

/-- COMPLETE of a Tongs operation; a halt of its context does not hold it back (spec/13_ordering.md R267). -/
def tongsComplete (i : Nat) (o : Op) (s : State) : Option State :=
  let unreserved := match o.k with
    | .copy _ _ cbe _ _ => cbe && o.slot.isNone
    | _ => false
  if o.active && !o.within && !unreserved && o.seg == o.segCount s && s.handedRuns o.vf then some (endOp i o true (fillSlot o s))
  else none

/-- ABANDONED: the newest reservation returns its slot, another leaves it FULL (R345). -/
def abandonTongs (i : Nat) (o : Op) (s : State) : State :=
  let s := match o.k, o.slot with
    | .copy _ _ true cix _, some k =>
      let b := ((s.team o.team).map (fun t => t.cbuf cix)).getD {}
      if 0 < b.nres ∧ (b.filp + b.slots - 1) % b.slots = k then
        s.modTeam o.team (fun t => { t with cbufs := NMap.set {} t.cbufs cix { b with nres := b.nres - 1, filp := k } })
      else fillSlot o s
    | _, _ => s
  endOp i o false s

/-- RESERVE: the earliest accepted copy of its buffer that has no slot takes the next free one. -/
def reserveStep (i : Nat) (s : State) : Option State :=
  match s.op i with
  | none => none
  | some o =>
    match o.k with
    | .copy _ _ true cix _ =>
      let b := ((s.team o.team).map (fun t => t.cbuf cix)).getD {}
      let first := s.ops.all (fun x => x.1 == i || x.2.team != o.team || decide (o.acc < x.2.acc) || x.2.st != .queued ||
        x.2.slot.isSome || (match x.2.k with
          | .copy _ _ true c _ => c != cix
          | _ => true))
      if o.st == .queued && o.slot.isNone && first && decide (0 < b.room) && s.engineRuns o.vf then
        some ((s.modOp i (fun o => { o with slot := some b.filp })).modTeam o.team (fun t => { t with
          cbufs := NMap.set {} t.cbufs cix { b with nres := b.nres + 1, filp := (b.filp + 1) % b.slots } }))
      else none
    | _ => none

/-- RESERVE (R345). -/
def execReserve (op : Nat) (s : State) : Host.Outcome State Fault Refusal := .next ((reserveStep op s).getD s)

/-- CBERR of CBINIT (R346). -/
def cbinitBad (s : State) (w : Wave) (c : Nat) (base slotb slots : Nat) : Bool :=
  let b := s.cbufOf w c
  b.nres != 0 || b.ntak != 0 || b.nfil != 0 ||
  s.ops.any (fun o => o.2.team == w.team && (match o.2.k with
    | .copy _ _ _ _ xs => xs.any (fun x => x.mode.drop 3 == [1, c])
    | _ => false)) ||
  base % 256 != 0 || slotb == 0 || slotb % 256 != 0 || slots == 0 || decide (64 < slots) ||
  pastWindow s w base (slots * slotb)

/-- CBINIT (R346): sets a circular-buffer register with every count zero; in deterministic mode the other waves see it from the next
round. -/
def execCbinit (c : CReg) (n : SReg) (s : State) : Host.Outcome State Fault Refusal :=
  let val (w : Wave) (i : Nat) := uv (w.getS (n.toNat + i))
  issue (.cbinit c n) s
    (fun _ w s => if cbinitBad s w c.toNat (val w 0) (val w 1) (val w 2 % 256) then .trap 15 (BitVec.ofNat 32 c.toNat) else .ok)
    (fun _ w s' => s'.modTeam w.team (fun t => { t with
      cbufs := NMap.set {} t.cbufs c.toNat { base := val w 0, slotb := val w 1, slots := val w 2 % 256 }
      freshC := if (s'.hdr w.kern).det then t.freshC ++ [(w.idx, c.toNat, t.cbuf c.toNat)] else t.freshC }))

/-- CBTAKE (R347): waits for a full slot and takes it; what the copy has left of the slot's bytes is its reader's again. -/
def execCbtake (d : AReg) (c : CReg) (s : State) : Host.Outcome State Fault Refusal :=
  issue (.cbtake d c) s
    (fun _ w s =>
      let b := s.cbufOf w c.toNat
      if b.slots = 0 then .trap 15 (BitVec.ofNat 32 c.toNat) else if 0 < b.nfil then .ok else .wait [])
    (fun n w s' =>
      let b := s'.cbufOf w c.toNat
      (s'.modWave n (fun x => x.setA d.toNat (BitVec.ofNat 32 (b.at b.takp)))).modTeam w.team (fun t => { t with
        cbufs := NMap.set {} t.cbufs c.toNat { b with takp := (b.takp + 1) % b.slots, nfil := b.nfil - 1, ntak := b.ntak + 1 }
        stale := t.stale.flatMap (without (b.at b.takp) b.slotb) }))

/-- Releases of the team's buffer that are issued and not yet done. -/
def releasesOut (s : State) (w : Wave) (c : Nat) : Nat :=
  ((s.teamWaves w.team).map (fun p =>
    ((p.2.standing.filterMap (fun e => match e.k with
      | .fence _ _ _ (some d) => if d = c then some e.id else none
      | _ => none)).eraseDups).length)).sum

/-- CBFREE (R347): appends a team fence and release of the oldest taken slot. -/
def execCbfree (c : CReg) (s : State) : Host.Outcome State Fault Refusal :=
  issue (.cbfree c) s
    (fun _ w s =>
      let b := s.cbufOf w c.toNat
      if b.slots = 0 ∨ b.ntak ≤ releasesOut s w c.toNat then .trap 15 (BitVec.ofNat 32 c.toNat)
      else if w.roomAll then .ok else .pend)
    (fun n _ s' => s'.modWave n (fun x => x.appendAll (.fence .team true false (some c.toNat))))

/-! ## CPYQ (R348) -/

/-- The Tongs operation whose marker is at the head of a handle's sequencer. -/
def tongsAtHead (s : State) (w : Wave) (h : Nat) : Option (Nat × Op) :=
  match (w.seqAt (w.getH h).seq).entries with
  | [] => none
  | e :: _ =>
    match e.k with
    | .op o => (s.op o).bind (fun x => if e.st != .queued && x.k.isTongs && x.st != .gathering then some (o, x) else none)
    | _ => none

/-- The operation's segments are not fixed yet: those of a CPY into a circular buffer depend on the slot that its RESERVE gives it. -/
def Op.uncut (o : Op) : Bool :=
  match o.k with
  | .copy false _ true _ _ => o.slot.isNone
  | _ => false

/-- The words of the query. -/
def cpyqWords (s : State) (w : Wave) (h : Nat) : List Word :=
  match tongsAtHead s w h with
  | none => [0, 0, 0, 0]
  | some (_, o) =>
    let paused := o.st == .paused
    let done := if (s.hdr w.kern).det && !paused then 0 else o.seg
    [BitVec.ofNat 32 (if paused then 2 + 256 * o.cause + 65536 * o.fslice else 1), BitVec.ofNat 32 done,
     BitVec.ofNat 32 (o.segCount s), BitVec.ofNat 32 (if paused then o.foff else 0)]

/-- CPYQ (R348): queries the Tongs operation at the head of a handle. DESIGN CHOICE: the segments of a copy that has no slot yet are a free
value (notes/assumptions/110.md). -/
def execCpyq (n : SReg) (h : HReg) (s : State) : Host.Outcome State Fault Refusal :=
  issue (.cpyq n h) s (fun _ w _ => if w.isOpen h.toNat then .ok else hndErr h.toNat)
    (fun i w s' =>
      let s1 := s'.modWave i (fun x => x.setSs n.toNat (cpyqWords s' w h.toNat))
      if ((tongsAtHead s' w h.toNat).map (fun o => o.2.uncut)).getD false then
        let (x, s1) := s1.freeWord
        s1.modWave i (fun y => y.setS (n.toNat + 2) x)
      else s1)

/-- CPYERR of CPYQ.res and CPYQ.abn: no PAUSED marker at the head. -/
def pausedGate (h : Nat) (w : Wave) (s : State) : Gate :=
  if !w.isOpen h then hndErr h
  else match tongsAtHead s w h with
    | some (_, o) => if o.st == .paused then .ok else .trap 14 s.slotArg
    | none => .trap 14 s.slotArg

/-- CPYQ.res (R348): resumes a paused Tongs operation at its faulting segment. -/
def execCpyqRes (h : HReg) (s : State) : Host.Outcome State Fault Refusal :=
  issue (.cpyqRes h) s (fun _ w s => pausedGate h.toNat w s) (fun _ w s' =>
    match tongsAtHead s' w h.toNat with
    | some (i, o) => ((setMarks o .handedOff s').wakeTongs o.vf).modOp i (fun o => { o with st := .queued, cause := 0 })
    | none => s')

/-- CPYQ.abn (R348): abandons a paused Tongs operation. -/
def execCpyqAbn (h : HReg) (s : State) : Host.Outcome State Fault Refusal :=
  issue (.cpyqAbn h) s (fun _ w s => pausedGate h.toNat w s) (fun _ w s' =>
    match tongsAtHead s' w h.toNat with
    | some (i, o) => abandonTongs i o s'
    | none => s')

/-! ## RESQ and PAGEREQ (spec/17_page.md R321-R324) -/

/-- The status word of a page (R324). -/
def pageStatus (s : State) (o : Op) (e : Elem) : Word :=
  let h := s.hdr o.kern
  let p := (h.elemAddr e) / 65536
  let g := ((s.ctx o.vf).map (fun c => c.page p)).getD {}
  let sparse := ((h.exts[e.ext]?).map (·.sparse)).getD false
  BitVec.ofNat 32 ((if g.lastNo then 16 else 0) + (if sparse then 8 else 0) + (if g.st == .fetching then 4 else 0) +
    (if g.pins != 0 && g.usable then 2 else 0) + (if g.usable then 1 else 0))

/-- The checks of RESQ and PAGEREQ. -/
def pageGate (s : State) (w : Wave) (d h : Nat) : Gate :=
  if !w.isOpen h then hndErr h
  else match extFlt s (s.hdr w.kern) (fun _ => true) (elemsOf w d false) with
    | some g => g
    | none => if w.room h then .ok else .pend

/-- RESQ (R323): queries the residency of each cell's page. -/
def execResq (d : VReg) (h : HReg) (s : State) : Host.Outcome State Fault Refusal :=
  issue (.resq d h) s (fun _ w s => pageGate s w d.toNat h.toNat)
    (fun n w s' => pushOp n w h.toNat false (.resq d.toNat (elemsOf w d.toNat false)) none [.v d.toNat] s')

/-- PAGEREQ (R323): requests absent pages of sparse extents. -/
def execPagereq (d : VReg) (h : HReg) (s : State) : Host.Outcome State Fault Refusal :=
  issue (.pagereq d h) s (fun _ w s => pageGate s w d.toNat h.toNat)
    (fun n w s' => pushOp n w h.toNat false (.pagereq (elemsOf w d.toNat false)) none [] s')

/-- The distinct pages that a PAGEREQ names, with their extents. -/
def requests (s : State) (o : Op) (els : List Elem) : List (Nat × Nat) :=
  (els.map (fun e => ((s.hdr o.kern).elemAddr e / 65536, e.ext))).eraseDups

/-- A PAGEREQ asks for a page: it is ABSENT and of a sparse extent, outside deterministic mode. -/
def pageAsks (s : State) (o : Op) (x : Nat × Nat) : Bool :=
  let h := s.hdr o.kern
  !h.det && ((h.exts[x.2]?).map (·.sparse)).getD false && (s.pageOf o.vf x.1).st == .absent

/-- The pages of a PAGEREQ that it asks for again: their service is over, and has not ended in NOBACK (R318). -/
def pagesAgain (s : State) (o : Op) (els : List Elem) : List (Nat × Nat) :=
  (requests s o els).filter (fun x => pageAsks s o x && !(s.pageOf o.vf x.1).noback)

/-- A PAGEREQ requests a page. -/
def pageRequest (s : State) (o : Op) (x : Nat × Nat) : State :=
  s.service o.vf x.1 (((s.kern o.kern).map (·.kid)).getD 0) s.dev 0 x.2 1

/-- SEGMENT of a PAGEREQ: its next page is requested when it is to be; behind the last, one whose service has left a stage without an entry is
requested again. It waits for room in the queue of the records (R325). -/
def pageSegment (i : Nat) (o : Op) (els : List Elem) (s : State) : Option State :=
  if !o.active || !s.handedRuns o.vf then none
  else match (requests s o els)[o.nth]? with
    | some x =>
      if pageAsks s o x && !s.hasRoom o.vf x.1 1 then none
      else some ((if pageAsks s o x then pageRequest s o x else s).modOp i (fun o => { o with st := .running, nth := o.nth + 1 }))
    | none => ((pagesAgain s o els).find? (fun x => s.hasRoom o.vf x.1 1)).map (pageRequest s o)

/-- COMPLETE of a RESQ or a PAGEREQ; a halt does not hold it back (R267, R325). -/
def pageComplete (i : Nat) (o : Op) (s : State) : Option State :=
  if !o.active || !s.handedRuns o.vf then none
  else match o.k, o.marks.head? with
    | .pagereq els, _ =>
      let ps := requests s o els
      if o.nth == ps.length && ps.all (fun p => (s.pageOf o.vf p.1).st != .fetching) && (pagesAgain s o els).isEmpty then some (endOp i o false s) else none
    | .resq d els, some m =>
      let s1 := s.modWave m.wave (fun w => els.foldl (fun w e => w.setV e.f d (pageStatus s o e)) w)
      some (endOp i o false (if 32 ≤ d then raWrite m.wave (els.map (·.f)) s1 else s1))
    | _, _ => none

end Sys2Proof.Machine
end

