-- ==== Sys2Proof/Machine/Remote.lean ====
section
/-! DEFINITION. Remote operations at their source: issue, the packets they send, and their completion; RWAIT
(spec/26_fabric_ops.md R437-R453). What the target does is in Target.lean. -/
namespace Sys2Proof.Machine

/-! ## Issue (R437-R441) -/

/-- The operation that a word names: its column and its registers, but for the operands of RATOM, which are read at the ACCEPT. -/
def remOf (col : Nat) (f : FxOp) (w : Wave) : RemOp :=
  let n := f.sbase.toNat
  let o := w.getS f.sparm.toNat
  let atom := col == 3
  { col := col, target := uv (w.getS n), ra := uv (w.getS64 (n + 1)) % 2 ^ 57
    src := if col = 4 then placeAt (w.getS64 (n + 3)) else ⟨true, uv (w.getS (n + 3))⟩
    len := if atom then 0 else optLen o, flg := if atom then 0 else uv o / 16 % 4, opts := uv o % 64
    flag := if col = 0 then w.getS64 (n + 4) else if col = 2 ∨ col = 4 then w.getS64 (n + 5) else 0
    round := if col = 2 then w.getS (n + 4) else 0, aop := if atom then uv o % 16 else 0, ret := atom && o.getLsbD 4
    a := 0, b := 0, dreg := n + 3 }

/-- The target is a device of the run (notes/assumptions/48.md). -/
def State.isDevice (s : State) (t : Nat) : Bool := t == s.dev || (decide (t < s.devs) && (s.peer t).isSome)

/-- The teams of a run, and the device of a team (spec/16_kernel.md R307). -/
def Header.teams (h : Header) : Nat := 2 ^ (h.widths.drop 2).sum
/-- The F5 value of a team's cells. -/
def Header.teamDev (h : Header) (t : Nat) : Nat := t / 2 ^ (h.width 2 + h.width 3 + h.width 4)

/-- The team and the barrier of a barrier flag (R439). -/
def flagTeam (f : BitVec 64) : Nat := uv f % 2 ^ 32 + uv f / 2 ^ 36 * 2 ^ 32
/-- The barrier of a barrier flag. -/
def flagBar (f : BitVec 64) : Nat := uv f / 2 ^ 32 % 16

/-- ADDRERR of a flag. Bits 62:57 of an address are reserved and ignored (spec/00_scope.md R9). -/
def flagBad (h : Header) (r : RemOp) : Bool :=
  match r.flg with
  | 0 => false
  | 1 => r.flag.getLsbD 63 || uv r.flag % 8 != 0
  | 2 => decide (h.teams ≤ flagTeam r.flag) || (h.width 5 != 0 && h.teamDev (flagTeam r.flag) != r.target)
  | _ => true

/-- ADDRERR of an operation (R441). -/
def remBad (s : State) (w : Wave) (r : RemOp) (o : Word) (ra : BitVec 64) : Bool :=
  !s.isDevice r.target || ra.getLsbD 63 || r.ra % 4 != 0 ||
  (if r.col = 3 then decide (32 ≤ uv o) || decide (13 ≤ r.aop)
   else
     uv o / 4 % 4 != 0 || flagBad (s.hdr w.kern) r || (r.col == 1 && r.flg != 0) || (r.col != 2 && uv o % 4 != 0) ||
     r.len % 4 != 0 || (r.col != 4 && decide (4096 < r.len)) || (r.col == 2 && uv r.round / 16 % 16 != 0) ||
     (r.src.win && pastWindow s w r.src.addr r.len))

/-- The checks of a remote operation, in the order of R441. A compare and swap whose run passes S31 is ILLOP (R65); one reads a register
more, which must be complete as well (spec/01_device.md R14). -/
def remGate (col : Nat) (f : FxOp) (s : State) (w : Wave) : Gate :=
  let r := remOf col f w
  let o := w.getS f.sparm.toNat
  if col = 3 ∧ r.aop = 12 ∧ 27 < f.sbase.toNat then .trap 0 s.slotArg
  else if col = 3 ∧ r.aop = 12 ∧ w.holdsUp [.s (f.sbase.toNat + 4)] then .pend
  else if remBad s w r o (w.getS64 (f.sbase.toNat + 1)) then .trap 5 s.slotArg
  else if col == 4 && !r.src.win && (s.hdr w.kern).forbids r.src.addr r.len false then .trap 16 s.slotArg
  else
    opGate s w f .ok
      (if r.target != s.dev && ((s.peer r.target).map (·.reach)) == some .unreachable then .trap 18 (BitVec.ofNat 32 r.target)
       else .ok)

/-- A remote operation's word. -/
def remWord (i : Instr) (col : Nat) (f : FxOp) (s : State) : Host.Outcome State Fault Refusal :=
  issue i s (fun _ w s => remGate col f s w) (fun n w s' =>
    let r := remOf col f w
    pushOp n w f.hnd.toNat true (.remote r) (barNum f) (if r.ret then [.s r.dreg] else []) s')

/-- RST (R443): issues a remote store with optional flag. -/
def execRst (f : FxOp) (s : State) : Host.Outcome State Fault Refusal := remWord (.rst f) 0 f s
/-- RLD (R443): issues a remote load into the window. -/
def execRld (f : FxOp) (s : State) : Host.Outcome State Fault Refusal := remWord (.rld f) 1 f s
/-- RRED (R450): issues a contribution to a fabric reduction round. -/
def execRred (f : FxOp) (s : State) : Host.Outcome State Fault Refusal := remWord (.rred f) 2 f s
/-- RATOM (R449): issues a remote atomic on a 32-bit word. -/
def execRatom (f : FxOp) (s : State) : Host.Outcome State Fault Refusal := remWord (.ratom f) 3 f s
/-- RCPY (R443): issues a remote bulk copy of up to 64 MiB. -/
def execRcpy (f : FxOp) (s : State) : Host.Outcome State Fault Refusal := remWord (.rcpy f) 4 f s

/-! ## RWAIT (R451) -/

/-- The remote entries that a handle's sequencer holds. -/
def remoteIds (w : Wave) (h : Nat) : List Nat :=
  (w.seqAt (w.getH h).seq).entries.filterMap (fun e => match e.k with
    | .remote _ => some e.id
    | _ => none)

/-- The checks of RWAIT: it waits for the remote entries it found at issue, in deterministic mode as the quantum began. -/
def rwaitGate (h : Nat) (n : Nat) (w : Wave) (s : State) : Gate :=
  if !w.isOpen h then hndErr h
  else
    let ids := match w.hold with
      | some x => x.data
      | none => remoteIds w h
    if ids.all (fun id => performed s n w id && w.saw id) then .ok else .wait ids

/-- The words of RWAIT.st. -/
def RemAcc.words (a : RemAcc) : List Word :=
  [BitVec.ofNat 32 (uv a.n + uv a.x * 2 ^ 16 + a.code * 2 ^ 24), BitVec.ofNat 32 a.bytes]

/-- RWAIT (R451): waits for a handle's remote operations and, with `st`, reads and clears their status. -/
def execRwait (t : Bool) (n : SReg) (h : HReg) (s : State) : Host.Outcome State Fault Refusal :=
  issue (.rwait t n h) s (rwaitGate h.toNat) (fun i w s' =>
    if t then s'.modWave i (fun x =>
      let q := (w.getH h.toNat).seq
      let a := (x.seqAt q).acc
      { x.setSs n.toNat a.words with seqs := Tbl.modify (fun y => { y with acc := {} }) x.seqs q })
    else s')

/-! ## Packets (R417, R452) -/

/-- Offset and length of a packet. -/
def RemOp.piece (r : RemOp) (i : Nat) : Nat × Nat := if r.col = 4 then packetPiece r.ra r.len i else (0, r.len)

/-- The options byte of a packet's head. DEDUCED: of the packets of an RCPY the last alone has its FLG (notes/assumptions/112.md). -/
def RemOp.optsAt (r : RemOp) (i : Nat) : Nat := if r.col = 4 ∧ i + 1 ≠ r.count then r.opts % 16 else r.opts

/-- The head flit of a packet (R452). -/
def RemOp.head (r : RemOp) (vf tag : Nat) (gen : BitVec 8) (i : Nat) : Flit :=
  let p := r.piece i
  { bareFlit 2 with
    tag := BitVec.ofNat 10 tag, gen := gen, vf := BitVec.ofNat 4 vf
    payload := bytesOf 1 r.col ++ bytesOf 1 (r.optsAt i) ++
      bytesOf 1 (r.aop + (if r.ret then 16 else 0)) ++ bytesOf 1 0 ++ bytesOf 4 p.2 ++ bytesOf 8 (r.ra + p.1) ++
      bytesOf 8 (uv r.flag) ++ bytesOf 4 (uv r.round) ++ bytesOf 4 (uv r.a) ++ bytesOf 4 (uv r.b) }

/-- The packet of an operation. -/
def Op.packet (o : Op) (r : RemOp) (n : Nat) (tag : Nat) (gen : BitVec 8) (i : Nat) (data : List Byte) : Packet where
  head := r.head o.vf tag gen i
  data := data
  kern := some o.kern
  op := some (n, i)

/-! ## Fabric tags (spec/14_handle.md R272) -/

/-- Tags that a context has in use: those of its sequencers, and those of its packets without an acknowledgement. -/
def State.tagsUsed (s : State) (vf : Nat) : List Nat :=
  (s.waves.filter (fun w => s.kernVf w.2.kern == vf)).flatMap (fun w =>
    w.2.seqs.filterMap (fun q => if q.2.live then q.2.tag else none)) ++
  (s.teams.filter (fun t => t.2.vf == vf)).flatMap (fun t => t.2.passes.filterMap (·.tag)) ++
  s.peers.flatMap (fun p => (p.2.out.filter (fun o => uv o.pkt.head.vf == vf && (o.pkt.head.kind == 2 || o.pkt.head.kind == 5))).map
    (fun o => uv o.pkt.head.tag)) ++
  (s.channels.filter (fun c => c.2.src == s.dev && !c.2.halo && c.2.vf == vf)).flatMap (fun c => c.2.pkts.map (fun p => uv p.head.tag))

/-- The tag of a sequencer, or the first one that is free. -/
def State.tagFor (s : State) (vf : Nat) (q : Seq) : Option Nat :=
  match q.tag with
  | some t => some t
  | none =>
    let used := s.tagsUsed vf
    (List.range 1024).find? (fun t => !used.contains t)

/-- A sequencer takes its tag. -/
def takeTag (n q t vf : Nat) (s : State) : State :=
  s.modWave n (fun w => { w with seqs := Tbl.modify (fun x =>
    if x.tag.isSome then x else { x with tag := some t, gen := s.genOf vf }) w.seqs q })

/-- The generation under which a sequencer sends. DESIGN CHOICE: under a tag that a pass from another device has brought it is the one that
came with it (notes/assumptions/111.md). -/
def State.seqGen (s : State) (vf : Nat) (q : Seq) : BitVec 8 := if q.tag.isSome then q.gen else s.genOf vf

/-! ## Acceptance (R442, R443) -/

/-- The device of a wave of a run. -/
def State.waveDev (s : State) (h : Header) (idx : Nat) : Nat :=
  if h.width 5 = 0 then s.dev else h.field (idx * h.cells) 5

/-- An entry is the marker of a remote operation, or of a pass, that has been sent whole to a device. -/
def sentTo (s : State) (h : Header) (d : Nat) (e : Entry) : Bool :=
  e.st == .handedOff && (match e.k with
    | .remote o => sentWhole s o && (match s.op o with
      | some x => x.target == some d
      | none => false)
    | .pass r _ => s.waveDev h r == d
    | _ => false)

/-- Every entry ahead of an entry in its sequencer satisfies a test. -/
def aheadAll (w : Wave) (q id : Nat) (f : Entry → Bool) : Bool :=
  (w.seqAt q).entries.all (fun e => decide (id ≤ e.id) || f e)

/-- The port would send the operation's first packet now. An unreachable peer's operation ends at once. -/
def remoteMaySend (s : State) (i : Nat) (o : Op) (r : RemOp) (q : Seq) : Bool :=
  match s.tagFor o.vf q with
  | none => false
  | some t =>
    s.accepts r.target (o.packet r i t (s.seqGen o.vf q) 0 (List.replicate (if r.col = 4 then min (r.piece 0).2 4096 else if r.col = 1 ∨ r.col = 3 then 0 else r.len) 0))

/-- The peer of an operation is UNREACHABLE. -/
def unreachable (s : State) (t : Nat) : Bool := t != s.dev && ((s.peer t).map (·.reach)) == some .unreachable

/-- The operands of RATOM, as its registers hold them at the ACCEPT (R443, notes/assumptions/113.md). -/
def RemOp.operands (r : RemOp) (w : Wave) : RemOp :=
  if r.col = 3 then { r with a := w.getS r.dreg, b := if r.aop = 12 then w.getS (r.dreg + 1) else 0 } else r

/-- ACCEPT of a remote operation sends it at once (SEND): its data is read in one step; an RCPY is read as it is sent. -/
def acceptRemote (i : Nat) (o : Op) (r : RemOp) (m : Mark) (s : State) : State :=
  match s.wave m.wave with
  | none => s
  | some w =>
    let q := w.seqAt m.seq
    match s.tagFor o.vf q with
    | none => s
    | some t =>
      let r := r.operands w
      let s := takeTag m.wave m.seq t o.vf (setMarks o .handedOff s)
      let n := s.serial + 1
      let s := { s with serial := n }
      let run (r : RemOp) (s : State) := s.modOp i (fun o => { o with st := .running, acc := n, k := .remote r })
      if unreachable s r.target then
        run { r with sent := r.count, done := (List.range r.count).map (fun j => (j, some 7)) } s
      else if r.col = 4 then run r s
      else
        let data := if r.col = 0 ∨ r.col = 2 then readWin s o.team r.src.addr r.len else []
        (run { r with sent := 1 } s).sendPacket r.target (o.packet r i t (s.seqGen o.vf q) 0 data)

/-- What the port meets as it reads bytes of an RCPY's source. -/
def sourceMeets (o : Op) (r : RemOp) (a n : Nat) (s : State) : Meets := if r.src.win || n == 0 then .ok else s.meet o.vf a n false

/-- The port reads bytes of an RCPY's source. -/
def readSource (o : Op) (r : RemOp) (a n : Nat) (s : State) : List Byte × State :=
  if r.src.win then (readWin s o.team a n, s) else ((s.vread o.vf a n).getD [], s.useRange o.vf false a n)

/-- The RCPY whose packets the port is to send on, with the tag and the generation of its sequencer. -/
def sending (o : Op) (s : State) : Option (RemOp × Nat × BitVec 8) :=
  match o.k, o.marks.head? with
  | .remote r, some m =>
    if r.col != 4 || o.st != .running || r.allSent || !s.handedRuns o.vf then none
    else
      let q := ((s.wave m.wave).map (fun w => w.seqAt m.seq)).getD {}
      some (r, q.tag.getD 0, s.seqGen o.vf q)
  | _, _ => none

/-- Change a remote operation. -/
def State.modRem (s : State) (i : Nat) (g : RemOp → RemOp) : State :=
  s.modOp i (fun o => match o.k with
    | .remote r => { o with k := .remote (g r) }
    | _ => o)

/-- The port reads the next word of the packet that it is to send; the last word it reads as it sends it (R443). -/
def readWord (i : Nat) (o : Op) (s : State) : Option State :=
  match sending o s with
  | none => none
  | some (r, t, g) =>
    let p := r.piece r.sent
    let a := r.src.addr + p.1 + r.data.length
    let n := 4 - a % 4
    if !unreachable s r.target && decide (r.data.length + n < p.2) && sourceMeets o r a n s == .ok &&
        s.accepts r.target (o.packet r i t g r.sent (List.replicate p.2 0)) then
      let (bs, s) := readSource o r a n s
      some (s.modRem i (fun x => { x with data := r.data ++ bs }))
    else none

/-- The source page of an RCPY cannot be read: it has a record, and the operation ends at this packet (R443). -/
def sourceFault (i : Nat) (o : Op) (g : Nat) (s : State) : Option State :=
  if s.hasRoom o.vf g 1 then
    let h := s.hdr o.kern
    let kid := ((s.kern o.kern).map (·.kid)).getD 0
    some ((s.service o.vf g kid s.dev 1 (h.extIndex (65536 * g)) 1).modRem i (fun x => { x with dropped := true, data := [] }))
  else none

/-- RCPY_PACKET: the port reads what is left of the next packet and sends it, through a halt too (spec/13_ordering.md R267); it waits at a
page that migrates, and ends the operation at a page that it cannot read (R443). -/
def rcpyStep (i : Nat) (s : State) : Option State :=
  match s.op i with
  | none => none
  | some o =>
    match sending o s with
    | none => none
    | some (r, t, g) =>
      let p := r.piece r.sent
      let a := r.src.addr + p.1 + r.data.length
      let n := p.2 - r.data.length
      if unreachable s r.target then
        some (s.modRem i (fun x => { x with sent := r.sent + 1, data := [], done := NMap.put r.done r.sent (some 7) }))
      else match sourceMeets o r a n s with
        | .waits => none
        | .fault pg => sourceFault i o pg s
        | .ok =>
          let (bs, s1) := readSource o r a n s
          let k := o.packet r i t g r.sent (r.data ++ bs)
          if s.accepts r.target k then
            some ((s1.modRem i (fun x => { x with sent := r.sent + 1, data := [] })).sendPacket r.target k)
          else none

/-- RCPY_PACKET (R443). -/
def execRcpyPacket (op : Nat) (s : State) : Host.Outcome State Fault Refusal := .next ((rcpyStep op s).getD s)

/-! ## Completion (R444-R446) -/

/-- Note the outcome of a packet of an operation, and the reply's bytes. -/
def packetDone (i j st : Nat) (reply : List Byte) (s : State) : State :=
  s.modOp i (fun o => match o.k with
    | .remote r => { o with k := .remote { r with
        done := NMap.put r.done j (some st), reply := if reply.isEmpty then r.reply else reply } }
    | _ => o)

/-- The outcomes of the packets, in packet order. -/
def RemOp.statuses (r : RemOp) : List Nat :=
  (List.range r.sent).map (fun j => (NMap.get none r.done j).getD 0) ++ (if r.dropped then [1] else [])

/-- Every packet sent has its outcome, and no more will be sent. -/
def RemOp.past (r : RemOp) : Bool := r.allSent && (List.range r.sent).all (fun j => (NMap.get none r.done j).isSome)

/-- The outcome of the operation (R446): FAULT, GONE, INDET, then an RRED's own, then NOFLAG. -/
def RemOp.outcome (r : RemOp) : Nat := ([1, 2, 7, 4, 5, 3].find? (fun c => r.statuses.contains c)).getD 0

/-- Bytes of the packets before the first that did not complete OK or NOFLAG. -/
def RemOp.performed (r : RemOp) : Nat :=
  let n := (r.statuses.takeWhile (fun c => c == 0 || c == 3)).length
  ((List.range (min n r.count)).map (fun j => (r.piece j).2)).sum

/-- The accumulator of the sequencer (R445). -/
def RemAcc.add (a : RemAcc) (code bytes : Nat) : RemAcc :=
  { n := a.n + 1
    x := if code = 0 ∨ a.x = 255 then a.x else a.x + 1
    code := if code ≠ 0 ∧ a.code = 0 then code else a.code
    bytes := if code ≠ 0 ∧ a.code = 0 then bytes else a.bytes }

/-- What an operation's outcome does at its source (R444). -/
def outcomeEffect (o : Op) (r : RemOp) (m : Mark) (s : State) : State :=
  let code := r.outcome
  let s := s.modWave m.wave (fun w => { w with seqs := Tbl.modify (fun q => { q with acc := q.acc.add code r.performed }) w.seqs m.seq })
  let s := if r.statuses.contains 7 then s.modWave m.wave (·.mark 51) else s
  match code with
  | 0 =>
    if r.col = 1 then writeWin o.team r.src.addr r.reply s
    else if r.col = 3 ∧ r.ret then s.modWave m.wave (fun w => w.setS r.dreg (BitVec.ofNat 32 (natOf r.reply)))
    else s
  | 1 => opFault o 17 (opWord 3) s
  | 2 => opFault o 18 (fun _ => BitVec.ofNat 32 r.target) s
  | _ => s

/-- In deterministic mode the data of an RLD stand in the window from a round boundary of its team on (R453). -/
def loadHeld (s : State) (o : Op) (r : RemOp) : Bool :=
  let h := s.hdr o.kern
  h.det && r.col == 1 && ((s.team o.team).map (fun t => t.turn != h.waves + 1)).getD false

/-- ACK: the operation completes with its outcome. -/
def ackStep (i : Nat) (s : State) : Option State :=
  match s.op i with
  | none => none
  | some o =>
    match o.k, o.marks.head? with
    | .remote r, some m =>
      if o.st == .running && r.past && !loadHeld s o r then
        some (endOp i o (r.outcome != 1 && r.outcome != 2) (outcomeEffect o r m s))
      else none
    | _, _ => none

end Sys2Proof.Machine
end

