-- ==== Sys2Proof/Machine/Swage.lean ====
section
/-! DEFINITION. Swage: layout records, plans, their execution, and the five instructions (spec/28_swage.md R458-R478). -/
namespace Sys2Proof.Machine

/-! ## Layout records (R458-R460) -/

/-- eb, the bytes of an element (R459). -/
def elemBytes (f : Nat) : Nat := [4, 2, 2, 34, 18, 35, 19, 1, 8].getD f 0

/-- A layout record, field by field. -/
structure Layout where
  rank : Nat
  efmt : Nat
  ms : List Nat
  next : List Nat
  bs : List Nat
  map : List Nat
  xi : List Nat
  dm : List Nat
deriving DecidableEq, Repr

/-- Read a record. -/
def readLayout (b : List Byte) : Layout where
  rank := natAt b 1 1
  efmt := natAt b 2 1
  ms := (List.range 3).map (fun i => natAt b (4 + i) 1)
  next := (List.range 4).map (fun i => natAt b (8 + 4 * i) 4)
  bs := (List.range 4).map (fun i => natAt b (0x18 + 4 * i) 4)
  map := (List.range 4).map (fun i => natAt b (0x28 + i) 1)
  xi := (List.range 16).map (fun i => natAt b (0x30 + i) 1)
  dm := (List.range 16).map (fun i => natAt b (0x40 + i) 1)

/-- P, the mesh indices. -/
def Layout.count (l : Layout) : Nat := l.ms.getD 0 1 * l.ms.getD 1 1 * l.ms.getD 2 1
/-- M of a tensor axis. -/
def Layout.past (l : Layout) (a : Nat) : Nat := l.ms.getD (l.map.getD a 0xFF) 1
/-- The axis is sharded. -/
def Layout.sharded (l : Layout) (a : Nat) : Bool := l.map.getD a 0xFF != 0xFF
/-- LEXT of an axis. -/
def Layout.lext (l : Layout) (a : Nat) : Nat :=
  let n := l.next.getD a 0
  let b := l.bs.getD a 0
  if l.sharded a then ((n + b - 1) / b + l.past a - 1) / l.past a * b else n
/-- The stride of an axis in elements. -/
def Layout.stride (l : Layout) (a : Nat) : Nat :=
  ((List.range l.rank).filter (fun x => decide (a < x))).foldl (fun p x => p * l.lext x) 1
/-- The bytes of a shard. -/
def Layout.shard (l : Layout) : Nat := elemBytes l.efmt * (List.range l.rank).foldl (fun p x => p * l.lext x) 1

/-- A record that keeps R458 to R460, whose extents the task declares and which hold its shards (R471). -/
def layoutOk (s : State) (exts : List Extent) (b : List Byte) : Bool :=
  let l := readLayout b
  let mr := natAt b 3 1
  let used := (List.range l.rank).filterMap (fun a => if l.sharded a then some (l.map.getD a 0) else none)
  natAt b 0 1 == 1 && decide (1 ≤ l.rank) && decide (l.rank ≤ 4) && decide (l.efmt ≤ 8) && decide (1 ≤ mr) && decide (mr ≤ 3) &&
  natAt b 7 1 == 0 && natAt b 0x2C 4 == 0 && natAt b 0x50 48 == 0 &&
  (List.range 3).all (fun m => let x := l.ms.getD m 0; if m < mr then decide (1 ≤ x) && decide (x ≤ 16) else x == 1) &&
  decide (l.count ≤ 16) &&
  (List.range 4).all (fun a =>
    let n := l.next.getD a 0
    let z := l.bs.getD a 0
    let m := l.map.getD a 0
    if l.rank ≤ a then n == 0 && z == 0 && m == 0xFF
    else decide (1 ≤ n) && (if m = 0xFF then z == 0 else decide (m < mr) && decide (1 ≤ z))) &&
  used.eraseDups.length == used.length &&
  (List.range 16).all (fun i =>
    if l.count ≤ i then l.xi.getD i 0 == 0xFF && l.dm.getD i 1 == 0
    else s.isDevice (l.dm.getD i 0) && (match exts[l.xi.getD i 0]? with
      | some e => decide (l.shard ≤ 65536 * e.npages)
      | none => false))

/-- The mesh coordinate of an index. -/
def Layout.coord (l : Layout) (i : Nat) : List Nat :=
  let a := l.ms.getD 0 1
  let b := l.ms.getD 1 1
  [i % a, i / a % b, i / (a * b)]
/-- The mesh index of a coordinate. -/
def Layout.index (l : Layout) (c : List Nat) : Nat :=
  c.getD 0 0 + l.ms.getD 0 1 * c.getD 1 0 + l.ms.getD 0 1 * l.ms.getD 1 1 * c.getD 2 0

/-- The positions of an axis that a shard holds, ascending in Loc: (Loc, global coordinate). -/
def Layout.held (l : Layout) (c : List Nat) (a : Nat) : List (Nat × Nat) :=
  let n := l.next.getD a 0
  let b := l.bs.getD a 0
  if l.sharded a then
    ((List.range (l.lext a)).map (fun x => (x, (x / b * l.past a + c.getD (l.map.getD a 0) 0) * b + x % b))).filter
      (fun p => decide (p.2 < n))
  else (List.range n).map (fun x => (x, x))

/-- Every choice of one position for each axis, row-major. -/
def choices : List (List (Nat × Nat)) → List (List (Nat × Nat))
  | [] => [[]]
  | xs :: rest => xs.flatMap (fun x => (choices rest).map (fun y => x :: y))

/-- The offset of local positions in elements. -/
def Layout.offset (l : Layout) (ps : List Nat) : Nat := (ps.zipIdx.map (fun p => p.1 * l.stride p.2)).sum

/-- The mesh index and the offset in elements at which the source replica holds an element (R460). -/
def Layout.source (l : Layout) (xs : List Nat) : Nat × Nat :=
  let own := xs.zipIdx.map (fun p =>
    let b := l.bs.getD p.2 0
    if l.sharded p.2 then (some (l.map.getD p.2 0, p.1 / b % l.past p.2), p.1 / b / l.past p.2 * b + p.1 % b) else (none, p.1))
  let c := (List.range 3).map (fun m => ((own.filterMap (·.1)).find? (fun o => o.1 == m)).elim 0 (·.2))
  (l.index c, l.offset (own.map (·.2)))

/-! ## Plan generation (R461, R462) -/

/-- The pieces of an element, split at every 64 KiB of either address. -/
def splitElem : Nat → Nat → Nat → Nat → List Move
  | 0, _, _, _ => []
  | n + 1, sa, da, len =>
    if len = 0 then []
    else
      let m := min len (min (65536 - sa % 65536) (65536 - da % 65536))
      ⟨sa, da, m⟩ :: splitElem n (sa + m) (da + m) (len - m)

/-- Bytes join the last segment of their group where both addresses follow on and no 64 KiB boundary lies between; the list
is kept newest first. -/
def joinMove (xs : List Move) (m : Move) : List Move :=
  match xs with
  | [] => [m]
  | g :: rest =>
    if g.src + g.len = m.src ∧ g.dst + g.len = m.dst ∧ g.len + m.len ≤ 65536 ∧
        g.src / 65536 = (m.src + m.len - 1) / 65536 ∧ g.dst / 65536 = (m.dst + m.len - 1) / 65536 then
      { g with len := g.len + m.len } :: rest
    else m :: xs

/-- The moves of all elements of the target record: (source device, target device, move), in the order of R461. -/
def allMoves (exts : List Extent) (src dst : Layout) : List (Nat × Nat × Move) :=
  let eb := elemBytes dst.efmt
  let va (l : Layout) (i : Nat) := ((exts[l.xi.getD i 0]?).map (·.va)).getD 0
  (List.range dst.count).flatMap (fun j =>
    (choices ((List.range dst.rank).map (dst.held (dst.coord j)))).flatMap (fun ps =>
      let o := src.source (ps.map (·.2))
      (splitElem 3 (va src o.1 + eb * o.2) (va dst j + eb * dst.offset (ps.map (·.1))) eb).map
        (fun m => (src.dm.getD o.1 0, dst.dm.getD j 0, m))))

/-- The groups of a plan in their order, each with its segments. -/
def planGroups (exts : List Extent) (src dst : Layout) : List ((Nat × Nat) × List Move) :=
  let ms := allMoves exts src dst
  ((List.range 256).map (fun g => (g / 16, g % 16))).filterMap (fun g =>
    let xs := (ms.filter (fun m => m.1 == g.1 && m.2.1 == g.2)).foldl (fun l m => joinMove l m.2.2) []
    if xs.isEmpty then none else some (g, xs.reverse))

/-- The segments of a plan with their group, in plan order. -/
def flatGroups (gs : List ((Nat × Nat) × List Move)) : List (Nat × (Nat × Nat) × Move) :=
  gs.zipIdx.flatMap (fun g => g.1.2.map (fun m => (g.2, g.1.1, m)))

/-- The bytes of the group table and the segment entries. -/
def planBytes (gs : List ((Nat × Nat) × List Move)) : List Byte :=
  let firsts := gs.foldl (fun (a : List Nat × Nat) g => (a.1 ++ [a.2], a.2 + g.2.length)) ([], 0)
  fit 4096 ((gs.zip firsts.1).flatMap (fun g =>
    bytesOf 1 g.1.1.1 ++ bytesOf 1 g.1.1.2 ++ bytesOf 2 0 ++ bytesOf 4 g.2 ++ bytesOf 4 g.1.2.length ++
    bytesOf 4 ((g.1.2.map (·.len)).sum))) ++
  (flatGroups gs).flatMap (fun x =>
    bytesOf 8 x.2.2.src ++ bytesOf 8 x.2.2.dst ++ bytesOf 4 x.2.2.len ++ bytesOf 1 x.2.1.1 ++ bytesOf 1 x.2.1.2 ++
    bytesOf 2 x.1 ++ bytesOf 8 0)

/-- The plan of two records on a device. -/
def makePlan (s : State) (exts : List Extent) (src dst : Layout) : Plan :=
  let gs := planGroups exts src dst
  let all := flatGroups gs
  let own := all.zipIdx.filter (fun x => x.1.2.1.1 == s.dev)
  { vf := 0, st := 1, cause := 0xFF, self := s.dev, nsrc := ((gs.map (fun g => g.1.1)).eraseDups).length, nseg := all.length
    firstown := ((own.head?).map (·.2)).getD 0, nown := own.length, ownbytes := (own.map (fun x => x.1.2.2.len)).sum
    ngrp := gs.length, tdevs := ((List.range dst.count).map (fun i => dst.dm.getD i 0)).eraseDups, bytes := planBytes gs }

/-! ## Plans in memory -/

/-- A plan's key. -/
def planKey (vf pa : Nat) : Nat := vf * 2 ^ 57 + pa

/-- A header that is read from memory. -/
def readHeader (vf : Nat) (b : List Byte) : Plan where
  vf := vf
  st := natAt b 0 1
  cause := natAt b 1 1
  self := natAt b 2 1
  nsrc := natAt b 3 1
  nseg := natAt b 4 4
  firstown := natAt b 8 4
  nown := natAt b 12 4
  cursor := natAt b 16 4
  faultseg := natAt b 20 4
  donemask := BitVec.ofNat 64 (natAt b 24 8)
  ownbytes := natAt b 32 8
  ngrp := natAt b 40 4

/-- The units hold the plan's live header. -/
def Plan.live (p : Plan) : Bool := p.st == 2 || p.st == 3 || p.st == 6

/-- The header of a plan: the live one, else the one in memory. -/
def planHeader (s : State) (key : Nat) : Option Plan :=
  match Tbl.find s.plans key with
  | some p => if p.live then some p else (s.vread p.vf (planAddr key) 64).map (readHeader p.vf)
  | none => (s.vread (key / 2 ^ 57) (planAddr key) 64).map (readHeader (key / 2 ^ 57))

/-- Change the live header of a plan. -/
def State.modPlan (s : State) (key : Nat) (g : Plan → Plan) : State := { s with plans := Tbl.modify g s.plans key }

/-- Change a live header and write it to memory. -/
def State.putPlan (s : State) (key : Nat) (g : Plan → Plan) : State :=
  let s := s.modPlan key g
  match Tbl.find s.plans key with
  | some p => s.saveHeader key p
  | none => s

/-- The headers of the plans that a context runs are written to memory (R464). -/
def State.savePlans (s : State) (vf : Nat) : State :=
  (s.plans.filter (fun p => p.2.vf == vf && p.2.st == 2)).foldl (fun s p => s.saveHeader p.1 p.2) s

/-- The devices of the target record: those kept, else those of the group table in memory. -/
def targetDevs (s : State) (key : Nat) (p : Plan) : List Nat :=
  match Tbl.find s.plans key with
  | some q => q.tdevs
  | none =>
    match s.vread p.vf (planAddr key + 0x40) (16 * min p.ngrp 256) with
    | some b => ((List.range (min p.ngrp 256)).map (fun i => natAt b (16 * i + 1) 1)).eraseDups
    | none => []

/-! ## SWPLAN (R471) -/

/-- ADDRERR of a plan address. -/
def planAddrBad (x : BitVec 64) : Bool := decide (2 ^ 57 ≤ uv x) || uv x % 4096 != 0

/-- The bytes lie in one extent that is not sparse and has both permissions. -/
def planArea (h : Header) (pa n : Nat) : Bool :=
  match h.extOf pa with
  | some (_, e) => e.rd && e.wr && !e.sparse && decide (pa + n ≤ e.va + 65536 * e.npages)
  | none => false

/-- The window offsets of the two records of SWPLAN. -/
def recordAt (n i : Nat) (w : Wave) : Nat := uv (w.getS (n + i))
/-- The plan address of SWPLAN. -/
def swplanAddr (n : Nat) (w : Wave) : Nat := uv (w.getS64 (n + 2)) % 2 ^ 57
/-- The key of SWPLAN's plan. -/
def swplanKey (n : Nat) (s : State) (w : Wave) : Nat := planKey (s.kernVf w.kern) (swplanAddr n w)

/-- What SWPLAN answers once its records can be read: a status, a second word, and the plan where there is one. -/
def swplanAnswer (n size : Nat) (s : State) (w : Wave) : Nat × Option Nat × Option Plan :=
  let a := readWin s w.team (recordAt n 0 w) 128
  let b := readWin s w.team (recordAt n 1 w) 128
  let x := readLayout a
  let y := readLayout b
  let exts := (s.hdr w.kern).exts
  let places (l : Layout) := (List.range l.count).map (fun i => (l.dm.getD i 0, l.xi.getD i 0))
  let busy := match planHeader s (swplanKey n s w) with
    | some p => p.live
    | none => false
  if busy then (6, none, none)
  else if !layoutOk s exts a || !layoutOk s exts b then (1, none, none)
  else if x.rank != y.rank || x.next != y.next || x.efmt != y.efmt then (2, none, none)
  else if (places x).any (fun p => (places y).contains p) then (4, none, none)
  else
    let p := makePlan s exts x y
    let need := 0x1040 + 32 * p.nseg
    if 2 ^ 24 < p.nseg then (5, none, none)
    else if size < need then (3, some need, none)
    else (0, some need, some { p with vf := s.kernVf w.kern, size := size, kern := w.kern })

/-- The plan that a wave generates. -/
def ownPlan (n : Nat) (i : Nat) (s : State) (w : Wave) : Option Plan :=
  match Tbl.find s.plans (swplanKey n s w) with
  | some p => if p.st == 6 && p.wave == some i then some p else none
  | none => none

/-- The bytes of the plan that the wave's SWPLAN has written, once it is WRITTEN. -/
def planWritten (w : Wave) : Option Nat :=
  match w.hold with
  | some h => if h.pkt.isEmpty then none else some (natOf h.pkt)
  | none => none

/-- Entries that SWPLAN still waits for. -/
def swplanIds (n : Nat) (s : State) (i : Nat) (w : Wave) : List Nat :=
  match w.hold with
  | some x => x.data
  | none => olderOn s i w [(recordAt n 0 w, 128), (recordAt n 1 w, 128)]

/-- The checks of SWPLAN. A plan that has been written lets the wave go on; one that is generated makes it wait. -/
def swplanGate (n p : SReg) (i : Nat) (w : Wave) (s : State) : Gate :=
  let k := n.toNat
  let size := uv (w.getS p.toNat)
  let bad (o : Nat) := o % 16 != 0 || pastWindow s w o 128
  if planAddrBad (w.getS64 (k + 2)) || bad (recordAt k 0 w) || bad (recordAt k 1 w) then .trap 5 s.slotArg
  else if !planArea (s.hdr w.kern) (swplanAddr k w) (max size 1) then .trap 16 s.slotArg
  else
    let ids := swplanIds k s i w
    if (planWritten w).isSome then .ok
    else if (ownPlan k i s w).isSome || !ids.all (fun id => performed s i w id && w.saw id) then .wait ids
    else match (swplanAnswer k size s w).2.2 with
      | some _ => .wait ids
      | none => .ok

/-- A wave that waits at SWPLAN begins to generate its plan as soon as its records can be read. -/
def swplanBegin (n p : SReg) (i : Nat) (w : Wave) (s : State) : State :=
  if (ownPlan n.toNat i s w).isSome || (planWritten w).isSome || !(swplanIds n.toNat s i w).all (fun id => performed s i w id && w.saw id) then s
  else match (swplanAnswer n.toNat (uv (w.getS p.toNat)) s w).2.2 with
    | some x => { s with plans := Tbl.put s.plans (swplanKey n.toNat s w) { x with st := 6, wave := some i } }
    | none => s

/-- What SWPLAN writes to its registers. -/
def swplanEffect (n p : SReg) (i : Nat) (w : Wave) (s : State) : State :=
  match planWritten w with
  | some x => s.modWave i (fun y => y.setSs n.toNat [0, BitVec.ofNat 32 x])
  | none =>
    let a := swplanAnswer n.toNat (uv (w.getS p.toNat)) s w
    s.modWave i (fun y =>
      let y := y.setS n.toNat (BitVec.ofNat 32 a.1)
      match a.2.1 with
      | some x => y.setS (n.toNat + 1) (BitVec.ofNat 32 x)
      | none => y)

/-- SWPLAN (R471): reads two layout records and writes a re-sharding plan. -/
def execSwplan (n p : SReg) (s : State) : Host.Outcome State Fault Refusal :=
  match s.curWave, issue (.swplan n p) s (swplanGate n p) (swplanEffect n p) with
  | some (i, w), .next t =>
    (match t.chain.verdict with
     | .wait _ => .next (if s.chain.phase == .direct then swplanBegin n p i w t else t)
     | _ => .next t)
  | _, o => o

/-- WRITTEN: the plan is in memory and PLANNED, and its wave's SWPLAN has what it answers. -/
def writtenStep (i : Nat) (s : State) : Option State :=
  match s.plans.find? (fun p => p.2.st == 6 && p.2.wave == some i) with
  | none => none
  | some (key, p) =>
    let q := { p with st := 1, wave := none, bytes := [] }
    let s := State.hwWrite { s with plans := Tbl.put s.plans key q } p.vf (planAddr key) (q.header ++ p.bytes)
    some (s.modWave i (fun w => { w with hold := w.hold.map (fun h => { h with pkt := bytesOf 4 (0x1040 + 32 * p.nseg) }) }))

/-- WRITTEN (R464, R471). -/
def execWritten (w : Nat) (s : State) : Host.Outcome State Fault Refusal := .next ((writtenStep w s).getD s)

/-! ## SWGO and SWRESUME (R472, R473) -/

/-- The plan's key. -/
def swgoKey (f : FxOp) (s : State) (w : Wave) : Nat := planKey (s.kernVf w.kern) (uv (w.getS64 f.sbase.toNat) % 2 ^ 57)

/-- The Swage operation whose marker is at the head of a handle's sequencer. -/
def swageAtHead (s : State) (w : Wave) (q : Nat) : Option (Nat × Op × SwRun) :=
  match (w.seqAt q).entries with
  | [] => none
  | e :: _ =>
    match e.k with
    | .op o =>
      if e.st == .queued then none
      else (s.op o).bind (fun x => match x.k with
        | .swage r => some (o, x, r)
        | _ => none)
    | _ => none

/-- The operation at the head that a SWRESUME resumes in place. -/
def resumedOp (f : FxOp) (s : State) (w : Wave) : Option (Nat × Op × SwRun) :=
  match swageAtHead s w (w.getH f.hnd.toNat).seq with
  | some (i, o, r) => if o.st == .paused && r.plan == swgoKey f s w then some (i, o, r) else none
  | none => none

/-- The checks of SWGO and SWRESUME. An operation resumed in place needs no room. -/
def swgoGate (resume : Bool) (f : FxOp) (s : State) (w : Wave) : Gate :=
  let a := w.getS64 f.sbase.toNat
  let g := opGate s w f
    (if planAddrBad a || uv (w.getS f.sparm.toNat) / 2 != 0 then .trap 5 s.slotArg
     else if !planArea (s.hdr w.kern) (uv a % 2 ^ 57) 0x1040 then .trap 16 s.slotArg
     else .ok) .ok
  if g == .pend && resume && (resumedOp f s w).isSome then .ok else g

/-- The run that a word names. -/
def swRunOf (resume : Bool) (f : FxOp) (s : State) (w : Wave) : SwRun where
  plan := swgoKey f s w
  resume := resume
  rflg := (w.getS f.sparm.toNat).getLsbD 0
  fteam := w.getS64 (f.sbase.toNat + 2)

/-- The plan is RUNNING: afresh, or from its recorded progress and with what others have spoiled of it. -/
def Plan.begin (fresh : Bool) (k : Nat) (p : Plan) : Plan :=
  let p := if fresh then { p with cursor := 0, donemask := 0, cause := 0xFF, dirty := [], spoiled := [] } else p
  { p with st := 2, faultseg := 0xFFFFFFFF, kern := k }

/-- SWGO (R472): starts this device's part of a plan. -/
def execSwgo (f : FxOp) (s : State) : Host.Outcome State Fault Refusal :=
  issue (.swgo f) s (fun _ w s => swgoGate false f s w) (fun n w s' =>
    pushOp n w f.hnd.toNat false (.swage (swRunOf false f s' w)) (barNum f) [] s')

/-- SWRESUME at a sequencer: a PAUSED operation goes on in place of its marker, with the barrier and the flag of the SWRESUME; one that
has been abandoned before the commit gets an operation entry of its own (R473). -/
def resumeAt (hnd q plan : Nat) (bar : Option Nat) (rflg : Bool) (fteam : BitVec 64) (n : Nat) (s : State) : State :=
  match s.wave n with
  | none => s
  | some w =>
    let again := pushOpAt n w q hnd false (.swage { plan := plan, resume := true, rflg := rflg, fteam := fteam }) bar [] s
    match swageAtHead s w q with
    | some (i, o, r) =>
      if o.st == .paused && r.plan == plan then
        ((setMarks o .handedOff s).modPlan plan (Plan.begin false o.kern)).modOp i (fun o => { o with
          st := .running, bar := bar, cause := 0, k := .swage { r with rflg := rflg, fteam := fteam, stat := [] } })
      else again
    | none => again

/-- SWRESUME (R473): resumes a paused or stopped plan from its recorded progress; in deterministic mode it is staged (R478). -/
def execSwresume (f : FxOp) (s : State) : Host.Outcome State Fault Refusal :=
  issue (.swresume f) s (fun _ w s => swgoGate true f s w) (fun n w s' =>
    let r := swRunOf true f s' w
    let q := (w.getH f.hnd.toNat).seq
    if (resumedOp f s' w).isNone then pushOp n w f.hnd.toNat false (.swage r) (barNum f) [] s'
    else if (s'.hdr w.kern).det then
      (s'.modTeam w.team (fun t => { t with stage := t.stage ++
        [(⟨n, 32, ((s'.wave n).map (·.nextId)).getD 0, .resume f.hnd.toNat q r.plan (barNum f) r.rflg r.fteam⟩ : Staged)] })).modWave n
        (fun x => { x with nextId := x.nextId + 1 })
    else resumeAt f.hnd.toNat q r.plan (barNum f) r.rflg r.fteam n s')

/-- ACCEPT of a Swage operation: its plan is RUNNING, and a paused operation on it is ABANDONED; a plan in another state
gives SWGERR. -/
def acceptSwage (i : Nat) (o : Op) (r : SwRun) (s : State) : State :=
  let n := s.serial + 1
  let s := { s with serial := n }
  match planHeader s r.plan with
  | none => endOp i o false (opFault o 19 (opWord 2) s)
  | some p =>
    if (if r.resume then p.st == 3 || p.st == 4 else p.st == 1 || p.st == 5) then
      let old := s.ops.filter (fun x => x.1 != i && x.2.st == .paused && (match x.2.k with
        | .swage q => q.plan == r.plan
        | _ => false))
      let s := old.foldl (fun s x => endOp x.1 x.2 false s) s
      let was := (Tbl.find s.plans r.plan).getD p
      let p := { p with
        tdevs := targetDevs s r.plan p, dirty := was.dirty, spoiled := was.spoiled
        segs := if p.live then p.segs else readSegs s p.vf (planAddr r.plan) p.nseg }
      let s := { s with plans := Tbl.put s.plans r.plan (p.begin (!r.resume) o.kern) }
      (setMarks o .handedOff s).modOp i (fun o => { o with st := .running, acc := n })
    else endOp i o false (opFault o 19 (opWord 2) s)

/-! ## Execution (R465, R466) -/

/-- Segments in flight on the units of a partition. -/
def unitsBusy (s : State) (part : BitVec 4) : Nat :=
  (s.ops.map (fun o => match o.2.k with
    | .swage r => if ((s.ctx o.2.vf).map (·.part)) == some part then r.inflight.length else 0
    | _ => 0)).sum

/-- The slices of a partition, each with one Swage unit. -/
def unitCount (part : BitVec 4) : Nat := ((List.range 4).filter part.getLsbD).length

/-- The own segment that starts next. -/
def nextOwn (p : Plan) (r : SwRun) : Option Nat :=
  ((List.range 64).map (fun j => p.cursor + j)).find? (fun k =>
    decide (k < p.nown) && !p.donemask.getLsbD (k - p.cursor) && r.inflight.all (fun x => x.1 != k))

/-- The operation pauses for a failed segment once those in flight have ended; a stop that was asked for stays. -/
def failOwn (i k cause : Nat) (s : State) : State :=
  s.modOp i (fun o =>
    if o.st = .stopping ∧ o.cause = 0 then o
    else if o.st = .stopping then (if k < o.fslice then { o with fslice := k, cause := cause } else o)
    else { o with st := .stopping, fslice := k, cause := cause })

/-- The packets of a remote segment (R417). -/
def segPieces (m : Move) : List (Nat × Nat) := (List.range (packetCount m.dst m.len)).map (packetPiece m.dst m.len)

/-- The index of a packet of an own segment. -/
def segKey (k j : Nat) : Nat := 32 * k + j
/-- The index of an arrival packet to a device. -/
def arrivalKey (d : Nat) : Nat := 2 ^ 40 + d

/-- The head of a packet of a Swage operation. -/
def swageHead (o : Op) (tag : Nat) (gen : BitVec 8) (col flg len va : Nat) (flag : BitVec 64) : Flit :=
  { bareFlit 2 with
    tag := BitVec.ofNat 10 tag, gen := gen, vf := BitVec.ofNat 4 o.vf
    payload := bytesOf 1 col ++ bytesOf 1 (16 * flg) ++ bytesOf 2 0 ++ bytesOf 4 len ++ bytesOf 8 va ++ bytesOf 8 (uv flag) ++
      bytesOf 12 0 }

/-- Note a packet's status at once: its peer is UNREACHABLE. -/
def swageStat (i key st : Nat) (s : State) : State :=
  s.modOp i (fun o => match o.k with
    | .swage r => { o with k := .swage { r with stat := NMap.put r.stat key (some st) } }
    | _ => o)

/-- Send a packet of a Swage operation in its handle's class. -/
def swageSend (i key : Nat) (o : Op) (m : Mark) (d : Nat) (f : Nat → BitVec 8 → Flit) (data : List Byte) (s : State) : State :=
  if unreachable s d then swageStat i key 7 s
  else
    match s.wave m.wave with
    | none => s
    | some w =>
      let q := w.seqAt m.seq
      let t := (s.tagFor o.vf q).getD 0
      let g := s.seqGen o.vf q
      (takeTag m.wave m.seq t o.vf s).sendPacket d { head := f t g, data := data, kern := some o.kern, op := some (i, key) }

/-- The local accesses of a segment. -/
def segAccess (s : State) (m : Move) (d : Nat) : List (Nat × Nat × Bool) :=
  (m.src, m.len, false) :: (if d = s.dev then [(m.dst, m.len, true)] else [])

/-- Source bytes as Swage reads them: one that others have written since the ACCEPT is a free value (R467). -/
def segRead (s : State) (p : Plan) (va n : Nat) : List Byte :=
  let bs := (s.vread p.vf va n).getD []
  if p.dirty.isEmpty then bs
  else bs.zipIdx.map (fun b => if p.dirty.contains (va + b.2) then Config.freeByte (s.tick + b.2) else b.1)

/-- Bytes of a segment that stays on the device land at its target: n of them, from the first that has not. -/
def landBytes (i k n : Nat) (p : Plan) (r : SwRun) (g : Move) (s : State) : State :=
  let o := NMap.get 0 r.landed k
  let n := min n (g.len - o)
  let bs := segRead s p (g.src + o) n
  let s := (State.useRange (s.useRange p.vf false (g.src + o) n) p.vf true (g.dst + o) n)
  let s := State.unitWrite { s with tick := if p.dirty.isEmpty then s.tick else s.tick + n } r.plan (g.dst + o) bs
  s.modOp i (fun x => match x.k with
    | .swage q => { x with k := .swage { q with landed := NMap.put q.landed k (o + n) } }
    | _ => x)

/-- The next aligned word of one of the segments in flight that stay on the device (spec/13_ordering.md R264). -/
def swageLand (i : Nat) (r : SwRun) (k : Nat) (s : State) : Option State :=
  match Tbl.find s.plans r.plan with
  | none => none
  | some p =>
    ((r.inflight.filter (fun x => let g := p.ownSeg x.1
        g.2 == s.dev && decide (NMap.get 0 r.landed x.1 < g.1.len)))[k]?).map (fun x =>
          let g := (p.ownSeg x.1).1
          landBytes i x.1 (4 - (g.dst + NMap.get 0 r.landed x.1) % 4) p r g s)

/-- SWAGE_SEGMENT_START: the next own segment within 64 of the cursor is translated and starts on a free unit, or pauses the
plan. -/
def segmentStart (i : Nat) (s : State) : Option State :=
  match s.op i with
  | none => none
  | some o =>
    match o.k, o.marks.head? with
    | .swage r, some m =>
      (match Tbl.find s.plans r.plan, s.ctx o.vf with
       | some p, some c =>
         if o.st != .running || !s.engineRuns o.vf || decide (unitCount c.part ≤ unitsBusy s c.part) then none
         else match nextOwn p r with
           | none => none
           | some k =>
             let (g, d) := p.ownSeg k
             let h := s.hdr o.kern
             let acc := segAccess s g d
             let forbidden := (acc.find? (fun x => h.forbids x.1 x.2.1 x.2.2)).map (fun x => (x.1 / 65536, x.2.2))
             let meets := match forbidden with
               | some x => Meets.fault x.1
               | none => s.meetAll o.vf acc
             match meets with
             | .waits => none
             | .fault pg =>
               let wr := match forbidden with
                 | some x => x.2
                 | none => acc.any (fun x => x.2.2 && s.meet o.vf x.1 x.2.1 true == .fault pg)
               if s.hasRoom o.vf pg (accOf wr) then
                 let kid := ((s.kern o.kern).map (·.kid)).getD 0
                 some (failOwn i k 17 (s.service o.vf pg kid s.dev 1 (h.extIndex (65536 * pg)) (accOf wr)))
               else none
             | .ok =>
               let s1 := s.modOp i (fun o => { o with k := .swage { r with inflight := r.inflight ++ [(k, c.extgen)] } })
               if d = s.dev then some s1
               else if (s.tagFor o.vf (((s.wave m.wave).map (fun w => w.seqAt m.seq)).getD {})).isNone then none
               else
                 some ((segPieces g).zipIdx.foldl (fun s x =>
                   swageSend i (segKey k x.2) o m d (fun t gen => swageHead o t gen 4 0 x.1.2 (g.dst + x.1.1) 0)
                     (segRead s p (g.src + x.1.1) x.1.2) (s.useRange o.vf false (g.src + x.1.1) x.1.2)) { s1 with tick := s1.tick + g.len })
       | _, _ => none)
    | _, _ => none

/-- SWAGE_SEGMENT_START (R465). -/
def execSwageSegmentStart (op : Nat) (s : State) : Host.Outcome State Fault Refusal := .next ((segmentStart op s).getD s)

/-- Move the cursor past the leading completed segments. -/
def Plan.advance : Nat → Plan → Plan
  | 0, p => p
  | n + 1, p => if p.donemask.getLsbD 0 then Plan.advance n { p with cursor := p.cursor + 1, donemask := p.donemask >>> 1 } else p

/-- An own segment is complete. -/
def Plan.finish (p : Plan) (k : Nat) : Plan :=
  Plan.advance 65 { p with donemask := p.donemask ||| (1 <<< (k - p.cursor)) }

/-- STOPPED: the operation is ABANDONED (R474). -/
def stopSwage (i : Nat) (o : Op) (r : SwRun) (s : State) : State :=
  endOp i o false (s.putPlan r.plan (fun p => { p with st := 4 }))

/-- A RUNNING operation that was told to stop has no segment in flight any more. -/
def settleStop (i : Nat) (s : State) : State :=
  match s.op i with
  | none => s
  | some o =>
    match o.k with
    | .swage r => if o.st = .stopping ∧ o.cause = 0 ∧ r.inflight = [] then stopSwage i o r s else s
    | _ => s

/-- The status of a segment in flight: none before its packets have theirs; a local one has OK. -/
def segStatus (s : State) (r : SwRun) (k : Nat) (g : Move × Nat) : Option Nat :=
  if g.2 = s.dev then some 0
  else
    let xs := (List.range (segPieces g.1).length).map (fun j => NMap.get none r.stat (segKey k j))
    if xs.all (·.isSome) then
      some (([1, 2, 7].find? (fun c => xs.contains (some c))).getD 0)
    else none

/-- SWAGE_SEGMENT_DONE: a segment in flight ends; what of one on this device has not landed yet does. -/
def segmentDone (i k : Nat) (s : State) : Option State :=
  match s.op i with
  | none => none
  | some o =>
    match o.k with
    | .swage r =>
      (match Tbl.find s.plans r.plan with
       | none => none
       | some p =>
         if r.inflight.all (fun x => x.1 != k) then none
         else
           let g := p.ownSeg k
           match segStatus s r k g with
           | none => none
           | some st =>
             let s := if g.2 = s.dev then landBytes i k g.1.len p r g.1 s else s
             let indet := (List.range (segPieces g.1).length).any (fun j => NMap.get none r.stat (segKey k j) == some 7)
             let s := match o.marks.head? with
               | some m => if indet then s.modWave m.wave (·.mark 51) else s
               | none => s
             let s := s.modOp i (fun o => { o with seg := o.seg + 1, k := .swage { r with
               inflight := r.inflight.filter (fun x => x.1 != k), landed := r.landed.filter (fun x => x.1 != k)
               stat := r.stat.filter (fun x => decide (2 ^ 40 ≤ x.1) || x.1 / 32 != k) } })
             some (settleStop i (match st with
               | 0 => s.modPlan r.plan (fun p => p.finish k)
               | 1 => failOwn i k 17 s
               | _ => failOwn i k 19 s)))
    | _ => none

/-- SWAGE_SEGMENT_DONE (R465). -/
def execSwageSegmentDone (op seg : Nat) (s : State) : Host.Outcome State Fault Refusal := .next ((segmentDone op seg s).getD s)

/-- PAUSE: every segment in flight has ended; the header is written and the operation takes FAULT (R466). -/
def swageFault (i : Nat) (o : Op) (r : SwRun) (s : State) : Option State :=
  if o.st == .stopping && o.cause != 0 && r.inflight.isEmpty && r.arrivals.isEmpty then
    let s := s.putPlan r.plan (fun p => { p with st := 3, cause := o.cause, faultseg := o.fslice })
    some (opFault o o.cause (opWord 2) ((setMarks o .paused s).modOp i (fun o => { o with st := .paused })))
  else none

/-- The flag of an arrival at a device: its DEVn stands in the F5 bits of the team index (R470). -/
def arrivalFlag (h : Header) (f : BitVec 64) (d : Nat) : BitVec 64 :=
  if h.width 5 = 0 then f
  else
    let low := h.width 2 + h.width 3 + h.width 4
    let t := flagTeam f
    let t := t % 2 ^ low + d % 2 ^ h.width 5 * 2 ^ low + t / 2 ^ (low + h.width 5) * 2 ^ (low + h.width 5)
    BitVec.ofNat 64 (t % 2 ^ 32 + (t / 2 ^ 32 * 16 + flagBar f) * 2 ^ 32)

/-- COMPLETE of a Swage operation: its part is done, the arrivals are sent, and its marker leaves; the local barrier follows
once they are acknowledged. It waits for a fabric tag where the arrivals need one (spec/14_handle.md R272); a halt of its context does
not hold it back (spec/13_ordering.md R267). -/
def swageComplete (i : Nat) (o : Op) (r : SwRun) (s : State) : Option State :=
  match Tbl.find s.plans r.plan, o.marks.head? with
  | some p, some m =>
    let ds := if r.rflg && p.nown != 0 then p.tdevs else []
    let tagged := (s.tagFor o.vf (((s.wave m.wave).map (fun w => w.seqAt m.seq)).getD {})).isSome
    if o.st == .running && r.inflight.isEmpty && decide (p.nown ≤ p.cursor) && s.handedRuns o.vf && (ds.isEmpty || tagged) then
      let s := s.putPlan r.plan (fun p => { p with st := 5 })
      if ds.isEmpty then some (endOp i o true s)
      else
        let s := ds.foldl (fun s d =>
          swageSend i (arrivalKey d) o m d (fun t g => swageHead o t g 0 2 0 0 (arrivalFlag (s.hdr o.kern) r.fteam d)) [] s) s
        let s := s.modOp i (fun o => { o with st := .stopping, cause := 1, k := (match o.k with
          | .swage r => .swage { r with arrivals := ds }
          | x => x) })
        some (o.marks.foldl (fun s m => settleWave m.wave (dropEntry m.wave m.id s)) s)
    else none
  | _, _ => none

/-- The arrivals of a Swage operation are acknowledged: its local barrier receives its arrival (R470). -/
def swageAck (i : Nat) (o : Op) (r : SwRun) (s : State) : Option State :=
  if !r.arrivals.isEmpty && r.arrivals.all (fun d => (NMap.get none r.stat (arrivalKey d)).isSome) then
    let indet := r.arrivals.any (fun d => NMap.get none r.stat (arrivalKey d) == some 7)
    let s := match o.marks.head? with
      | some m => if indet then s.modWave m.wave (·.mark 51) else s
      | none => s
    let s := { s with ops := Tbl.del s.ops i }
    some (match o.bar with
      | some b => extArrive (o.source s) o.team b s
      | none => s)
  else none

/-! ## SWABORT and SWSTAT (R474, R475) -/

/-- SWABORT at a sequencer: a PAUSED operation is abandoned, a RUNNING one starts nothing more. -/
def abortAt (n q : Nat) (s : State) : State :=
  match s.wave n with
  | none => s
  | some w =>
    match swageAtHead s w q with
    | none => s
    | some (i, o, r) =>
      if o.st = .paused then stopSwage i o r s
      else settleStop i (s.modOp i (fun o => { o with st := .stopping, cause := 0 }))

/-- SWABORT (R474): abandons the Swage operation at a handle's head; in deterministic mode it is staged (R478). -/
def execSwabort (h : HReg) (s : State) : Host.Outcome State Fault Refusal :=
  issue (.swabort h) s (fun _ w _ => if w.isOpen h.toNat then .ok else hndErr h.toNat) (fun n w s' =>
    let q := (w.getH h.toNat).seq
    if (s'.hdr w.kern).det then
      (s'.modTeam w.team (fun t => { t with
        stage := t.stage ++ [(⟨n, 32, ((s'.wave n).map (·.nextId)).getD 0, .abort q⟩ : Staged)] })).modWave n
        (fun x => { x with nextId := x.nextId + 1 })
    else abortAt n q s')

/-- The words of SWSTAT. -/
def swstatWords (p : Plan) : List Word :=
  [BitVec.ofNat 32 (p.st + 256 * p.cause + 65536 * p.nsrc + 2 ^ 24 * p.self), BitVec.ofNat 32 p.cursor,
   BitVec.ofNat 32 p.nown, BitVec.ofNat 32 p.faultseg]

/-- The plan of SWSTAT. -/
def swstatKey (n : SReg) (s : State) (w : Wave) : Nat := planKey (s.kernVf w.kern) (uv (w.getS64 n.toNat) % 2 ^ 57)

/-- The wave's own Swage words of this round that the commit has still to act on: a plan that one of them starts or stops
(R231, R478). -/
def swageStaged (s : State) (i : Nat) (w : Wave) (key : Nat) : Bool :=
  w.standing.any (fun e => match e.k with
    | .op o => (match s.op o with
        | some x => x.st == .gathering && (match x.k with
            | .swage r => r.plan == key
            | _ => false)
        | none => false)
    | _ => false) ||
  (s.stagedOf i w).any (fun x => match x.k with
    | .abort _ => true
    | .resume _ _ k _ _ _ => k == key
    | _ => false)

/-- The checks of SWSTAT: it waits for a header that can be read, in deterministic mode for a plan that does not run and that
no staged word of the wave will act on. -/
def swstatGate (n : SReg) (i : Nat) (w : Wave) (s : State) : Gate :=
  if planAddrBad (w.getS64 n.toNat) then .trap 5 s.slotArg
  else match planHeader s (swstatKey n s w) with
    | none => .wait []
    | some p => if (s.hdr w.kern).det && (p.st == 2 || swageStaged s i w (swstatKey n s w)) then .wait [] else .ok

/-- SWSTAT (R475): reads a plan header's progress fields. -/
def execSwstat (n : SReg) (s : State) : Host.Outcome State Fault Refusal :=
  issue (.swstat n) s (fun i w s => swstatGate n i w s) (fun i w s' =>
    match planHeader s' (swstatKey n s' w) with
    | some p => s'.modWave i (fun x => x.setSs n.toNat (swstatWords p))
    | none => s')

end Sys2Proof.Machine
end

