-- ==== Sys2Proof/Machine/Steps.lean ====
section
/-! DEFINITION. The steps that all entries and operations share: PERFORM with the passing of handles, ACCEPT, SEGMENT,
COMPLETE, FAULT and ACK (spec/13_ordering.md R252-R257, R266, spec/14_handle.md R275-R278, spec/18_copy.md R335). -/
namespace Sys2Proof.Machine

/-! ## Passes (R275-R278) -/

/-- The team of a wave of a run. -/
def State.teamOf (s : State) (k recv : Nat) : Option (Nat × Team) :=
  Tbl.first? (fun _ (t : Team) => t.kern == k && t.idx == recv / (s.hdr k).waves) s.teams

/-- Every pass older than an entry that the sequencer has sent to a device other than `d` has been delivered (R276). -/
def Wave.passedTo (w : Wave) (q id d : Nat) : Bool := w.passed.all (fun x => x.2.1 != q || decide (id ≤ x.1) || x.2.2 == d)

/-- Every older entry of the sender under the handle is performed at the scope of R276. -/
def passReady (s : State) (n : Nat) (w : Wave) (q : Nat) (e : Entry) (recv : Nat) : Bool :=
  let h := s.hdr w.kern
  let d := s.waveDev h recv
  if d != s.dev then
    aheadAll w q e.id (sentTo s h d) && (w.buf ++ s.stagedOf n w).all (fun x => x.seq != q || decide (e.id ≤ x.id)) &&
    w.passedTo q e.id d
  else
    match s.teamOf w.kern recv with
    | none => false
    | some (t, _) =>
      if t = w.team then scopeReached s n w (some q) e.id .team
      else
        scopeReached s n w (some q) e.id .device &&
        ((w.seqAt q).tag.isSome || aheadAll w q e.id (fun x => match x.k with
          | .remote _ => false
          | _ => true))

/-- An HRECV of the receiver waits for one pass more than the table holds for it under the key. -/
def recvWaits (s : State) (k : Nat) (tm : Team) (p : PassRec) : Bool :=
  match s.waveAt k p.recv with
  | none => false
  | some (_, w) =>
    decide ((tm.passes.filter (fun x => x.recv == p.recv && x.key == p.key)).length <
      (w.standing.filter (fun e => e.k == .gateRecv p.key)).length)

/-- A pass finds room: an HRECV that waits for it, else a place among the 16 of the team and, from another device, the 256 of this
device (R272). -/
def passRoom (s : State) (k : Nat) (tm : Team) (p : PassRec) : Bool :=
  recvWaits s k tm p || (decide (tm.passes.length < 16) && (p.src == s.dev ||
    decide (((s.teams.map (fun t => (t.2.passes.filter (fun x => x.src != s.dev)).length)).sum) < 256)))

/-- A pass reaches a wave of this device, or is lost to one that is DONE (R275, R278). DEDUCED: a run that has ended has no wave that is not
DONE (notes/assumptions/108.md). -/
def applyPass (k : Nat) (p : PassRec) (lost : State → State) (s : State) : Option State :=
  match s.teamOf k p.recv with
  | none => none
  | some (t, tm) =>
    if tm.st == .pending then none
    else if ((s.waveAt k p.recv).map (fun x => x.2.st == .done)).getD true then some (lost s)
    else if passRoom s k tm p then some (s.modTeam t (fun x => { x with passes := x.passes ++ [p] }))
    else none

/-- PERFORM of a pass within the device, or SEND of one to another: either way it leaves its sequencer (R276). A sent one is kept until
it is delivered. -/
def passEffect (n : Nat) (w : Wave) (q : Nat) (e : Entry) (recv : Nat) (key : BitVec 16) (s : State) : Option State :=
  let sq := w.seqAt q
  let vf := s.kernVf w.kern
  let d := s.waveDev (s.hdr w.kern) recv
  if d = s.dev then
    (applyPass w.kern ⟨s.dev, recv, key, sq.tag, sq.gen⟩ (fun s => s.modWave n (·.mark 50)) s).map
      (fun s => settleWave n (dropEntry n e.id s))
  else if unreachable s d then some (settleWave n (dropEntry n e.id (s.modWave n (·.mark 51))))
  else
    match s.tagFor vf sq with
    | none => none
    | some t =>
      let pkt : Packet := {
        head := { bareFlit 5 with
          tag := BitVec.ofNat 10 t, gen := s.seqGen vf sq, vf := BitVec.ofNat 4 vf
          payload := bytesOf 8 recv ++ bytesOf 2 (uv key) }
        data := [], kern := some w.kern, mark := some ⟨n, q, e.id, 0⟩ }
      if s.accepts d pkt then
        let s := (takeTag n q t vf (dropEntry n e.id s)).modWave n (fun w => { w with passed := w.passed ++ [(e.id, q, d)] })
        some (settleWave n (s.sendPacket d pkt))
      else none

/-- An entry ahead of a pass has been sent as far as the pass needs (R276). -/
def sentAhead (s : State) (w : Wave) (q recv : Nat) (e : Entry) : Bool :=
  let d := s.waveDev (s.hdr w.kern) recv
  if d != s.dev then sentTo s (s.hdr w.kern) d e
  else
    e.st == .handedOff && ((w.seqAt q).tag.isSome || ((s.teamOf w.kern recv).map (·.1)) == some w.team) && (match e.k with
      | .remote o => sentWhole s o
      | _ => false)

/-- The COMMIT of an entry that is STAGED ahead of a pass performs it at the scope that the pass needs: an access, an arrival, a remote
operation that is sent whole as it is accepted, to the receiver's device or, for a receiver of this device, under the handle's tag, and a
pass that does not wait to be delivered elsewhere. An operation of an engine has to complete first (R276). -/
def commitSuffices (s : State) (w : Wave) (recv : Nat) (e : Entry) : Bool :=
  let h := s.hdr w.kern
  let d := s.waveDev h recv
  match e.k with
  | .op _ => false
  | .remote o => ((s.op o).map (fun x => match x.k with
      | .remote r => r.col != 4 && (d == s.dev || r.target == d)
      | _ => false)).getD false
  | .pass r _ => d == s.dev || s.waveDev h r == s.dev || s.waveDev h r == d
  | _ => true

/-- A pass that is committed would be sent, or find its receiver placed and room for it. -/
def passTaken (s : State) (w : Wave) (q recv : Nat) (key : BitVec 16) : Bool :=
  s.waveDev (s.hdr w.kern) recv != s.dev || (match s.teamOf w.kern recv with
    | none => false
    | some (_, tm) => tm.st != .pending && (tm.st == .ended ||
        passRoom s w.kern tm ⟨s.dev, recv, key, (w.seqAt q).tag, (w.seqAt q).gen⟩))

/-- The pass at the head of a sequencer is performed or sent; in deterministic mode it is STAGED once the entries ahead of it are STAGED
or sent and it would find room (R272, R282). -/
def passStep (n q : Nat) (s : State) : Option State :=
  match s.wave n with
  | none => none
  | some w =>
    match (w.seqAt q).entries.find? (fun e => match e.k with
      | .pass _ _ => e.st == .queued && !s.isStaged n w e.id
      | _ => false) with
    | none => none
    | some e =>
      match e.k with
      | .pass recv key =>
        if !buffersRun s w then none
        else if (s.hdr w.kern).det then
          if aheadAll w q e.id (fun x => (s.isStaged n w x.id && commitSuffices s w recv x) || sentAhead s w q recv x) &&
              (s.waveDev (s.hdr w.kern) recv == s.dev || w.passedTo q e.id (s.waveDev (s.hdr w.kern) recv)) &&
              passTaken s w q recv key then
            some (stageEntry n w.team q e s)
          else none
        else if passReady s n w q e recv then passEffect n w q e recv key s
        else none
      | _ => none

/-- PERFORM of the entry at the head of a sequencer. -/
def performAny (n q : Nat) (s : State) : Option State :=
  match performStep n q s with
  | some s' => some s'
  | none => passStep n q s

/-- PERFORM (R252). -/
def execPerform (w slot : Nat) (s : State) : Host.Outcome State Fault Refusal := .next ((performAny w slot s).getD s)

/-! ## ACCEPT (R254) -/

/-- A slice has been handed off or, outside deterministic mode, may be. -/
def markReady (s : State) (o : Op) (m : Mark) : Bool := handed s m || (!(s.hdr o.kern).det && sliceReady s m o)

/-- Every slice of a collective copy may be handed off or has been, and the waves without a slice are DONE (R335). -/
def copyReady (s : State) (o : Op) : Bool :=
  let given (f1 : Nat) := ((s.team o.team).map (fun t => NMap.get 0 t.copies f1)).getD 0
  (s.teamWaves o.team).all (fun p => o.marks.any (fun m => m.wave == p.1) ||
    (p.2.st == .done && decide (given p.2.f1 ≤ o.nth))) &&
  o.marks.all (markReady s o)

/-- The slices agree in mnemonic, barrier field, DIR, CBE and CIX. -/
def slicesAgree (sl : List Slice) : Bool :=
  match sl with
  | [] => true
  | x :: xs => xs.all (fun y => y.mode == x.mode)

/-- Slices that disagree: CPYERR in every live wave of the team, or with none the kernel escalates (spec/24_traps.md R414); the
operation is ABANDONED. -/
def copyError (i : Nat) (o : Op) (s : State) : State :=
  let live := (s.teamWaves o.team).filter (fun p => p.2.live != 0)
  if live.isEmpty then endOp i o false (opFault o 14 (opWord 1) s)
  else
    endOp i o false (live.foldl (fun s p =>
      let h := ((o.marks.find? (fun m => m.wave == p.1)).map (·.hnd)).getD 0
      pendFault p.1 14 (opWord 1 h) s) s)

/-- The operation is in its engine's queue. -/
def queueOp (i : Nat) (o : Op) (s : State) : State :=
  let n := s.serial + 1
  let s := if o.k.isTongs then s.wakeTongs o.vf else s
  (setMarks o .handedOff { s with serial := n }).modOp i (fun x => { x with
    st := .queued, acc := n, gen := ((s.ctx o.vf).map (·.extgen)).getD 0 })

/-- ACCEPT of an engine operation. -/
def acceptOp (i : Nat) (s : State) : Option State :=
  match s.op i with
  | none => none
  | some o =>
    if o.st != .gathering then none
    else match o.k with
      | .copy _ _ _ _ sl =>
        if copyReady s o then some (if slicesAgree sl then queueOp i o s else copyError i o s) else none
      | .remote _ => none
      | .swage r => if o.marks.all (markReady s o) then some (acceptSwage i o r s) else none
      | _ => if o.marks.all (markReady s o) then some (queueOp i o s) else none

/-- ACCEPT of a remote operation: only operations and passes already sent to its target stand ahead of it (R442). -/
def acceptRem (i : Nat) (s : State) : Option State :=
  match s.op i with
  | none => none
  | some o =>
    match o.k, o.marks.head? with
    | .remote r, some m =>
      (match s.wave m.wave with
       | none => none
       | some w =>
         let h := s.hdr o.kern
         if o.st == .gathering && aheadAll w m.seq m.id (sentTo s h r.target) &&
            opClear s m.wave w m.id (((s.team o.team).map (fun t => o.ranges t m.wave)).getD []) &&
            (unreachable s r.target || remoteMaySend s i o r (w.seqAt m.seq)) then
           some (acceptRemote i o r m s)
         else none)
    | _, _ => none

/-- In deterministic mode an operation's entry is STAGED; an older staged store or atomic of the wave may share bytes with it,
and an entry of its channel may stand staged ahead of a remote operation (R266). -/
def stageOp (n : Nat) (w : Wave) (q : Nat) (e : Entry) (rem : Bool) (s : State) : Option State :=
  let tgt := match e.k with
    | .remote o => (s.op o).bind Op.target
    | _ => none
  let ahead := if rem then aheadAll w q e.id (fun x => s.isStaged n w x.id || (match tgt with
      | some d => sentTo s (s.hdr w.kern) d x
      | none => false))
    else w.atHead q e.id
  if e.st == .queued && !s.isStaged n w e.id && ahead && opClear s n w e.id (touched s n w e.k) then
    some (stageEntry n w.team q e s)
  else none

/-- ACCEPT of an entry: of an operation, a remote operation, or a pass to another device. -/
def acceptStep (n id : Nat) (s : State) : Option State :=
  match s.wave n with
  | none => none
  | some w =>
    match w.placeOf id with
    | none => none
    | some (q, e) =>
      if !buffersRun s w then none
      else
        let det := (s.hdr w.kern).det
        match e.k with
        | .op i => if det && e.st == .queued then stageOp n w q e false s else acceptOp i s
        | .remote i => if det then stageOp n w q e true s else acceptRem i s
        | .pass recv _ => if s.waveDev (s.hdr w.kern) recv = s.dev then none else passStep n q s
        | _ => none

/-- ACCEPT (R254). -/
def execAccept (w id : Nat) (s : State) : Host.Outcome State Fault Refusal := .next ((acceptStep w id s).getD s)

/-! ## What a wave's buffers do next -/

/-- The first of a list that there is. -/
def firstStep {α : Type} (f : α → Option State) : List α → Option State
  | [] => none
  | x :: xs => match f x with
    | some s => some s
    | none => firstStep f xs

/-- The first step of a wave's sequencers and its perform buffer that is enabled. -/
def waveStep (n : Nat) (s : State) : Option State :=
  match s.wave n with
  | none => none
  | some w =>
    if w.st == .done then none
    else
      let qs := (w.seqs.filter (fun q => !q.2.entries.isEmpty)).map (·.1)
      let ids := (w.standing.map (·.id)).eraseDups
      match firstStep (fun q => performAny n q s) qs with
      | some s' => some s'
      | none =>
        match firstStep (fun q => openStep n q s) qs with
        | some s' => some s'
        | none =>
          match firstStep (fun id => acceptStep n id s) ids with
          | some s' => some s'
          | none =>
            match firstStep (fun id => fenceStep n id s) ids with
            | some s' => some s'
            | none => firstStep (fun (x : Staged) => drainStep n x.id s) w.buf

/-! ## The steps of an accepted operation (R255-R257) -/

/-- SEGMENT of an operation. -/
def segmentStep (i : Nat) (s : State) : Option State :=
  match s.op i with
  | none => none
  | some o =>
    match o.k with
    | .pagereq els => pageSegment i o els s
    | .resq _ _ => none
    | .remote _ => none
    | .swage _ => none
    | _ => tongsSegment i o s

/-- A word that an operation has started to write reaches its module: the k-th of those that may be next. Of an RCPY it is the next word
that the port reads. -/
def landStep (i k : Nat) (s : State) : Option State :=
  match s.op i with
  | none => none
  | some o =>
    match o.k with
    | .swage r => swageLand i r k s
    | .remote _ => readWord i o s
    | _ => if o.active && s.handedRuns o.vf then wordStep i o k s else none

/-- COMPLETE of an operation. -/
def completeStep (i : Nat) (s : State) : Option State :=
  match s.op i with
  | none => none
  | some o =>
    match o.k with
    | .pagereq _ => pageComplete i o s
    | .resq _ _ => pageComplete i o s
    | .remote _ => none
    | .swage r => swageComplete i o r s
    | _ => tongsComplete i o s

/-- FAULT of an operation. -/
def faultStep (i : Nat) (s : State) : Option State :=
  match s.op i with
  | none => none
  | some o =>
    match o.k with
    | .pagereq _ => none
    | .resq _ _ => none
    | .remote _ => none
    | .swage r => swageFault i o r s
    | _ => tongsFault i o s

/-- ACK of an operation: a remote one completes, a Swage one has its arrivals acknowledged. -/
def ackAny (i : Nat) (s : State) : Option State :=
  match s.op i with
  | none => none
  | some o =>
    match o.k with
    | .swage r => swageAck i o r s
    | _ => ackStep i s

/-- SEGMENT (R255). -/
def execSegment (op : Nat) (s : State) : Host.Outcome State Fault Refusal := .next ((segmentStep op s).getD s)
/-- COMPLETE (R255). -/
def execComplete (op : Nat) (s : State) : Host.Outcome State Fault Refusal := .next ((completeStep op s).getD s)
/-- FAULT (R256). -/
def execFault (op : Nat) (s : State) : Host.Outcome State Fault Refusal := .next ((faultStep op s).getD s)
/-- ACK (R257). -/
def execAck (op : Nat) (s : State) : Host.Outcome State Fault Refusal := .next ((ackAny op s).getD s)

end Sys2Proof.Machine
end

