-- ==== Sys2Proof/Machine/Target.lean ====
section
/-! DEFINITION. Fabric packets at their target and outcomes at their source: DELIVER, parked accesses, remote atomics,
reduction rounds, arrivals, passes, halos and notices (spec/13_ordering.md R257, spec/26_fabric_ops.md R444-R450,
spec/17_page.md R330, R331, spec/06_cell.md R127, R493). -/
namespace Sys2Proof.Machine

/-! ## Outcomes at the source -/

/-- Note the status of a packet of an operation. -/
def noteStatus (i j st : Nat) (reply : List Byte) (s : State) : State :=
  match s.op i with
  | none => s
  | some o =>
    match o.k with
    | .remote _ => packetDone i j st reply s
    | .swage _ => swageStat i j st s
    | _ => s

/-- A pass that was sent is over: performed, lost to a wave that is DONE, or given up (spec/14_handle.md R278). -/
def passOver (m : Mark) (st : Nat) (s : State) : State :=
  let s := match st with
    | 0 => s
    | 7 => s.modWave m.wave (·.mark 51)
    | _ => s.modWave m.wave (·.mark 50)
  s.modWave m.wave (fun w => { w with passed := w.passed.filter (fun x => x.1 != m.id) })

/-- The outcome of a packet reaches its source: its operation notes it, or its pass leaves. -/
def packetOver (p : Packet) (st : Nat) (reply : List Byte) (s : State) : State :=
  let s := match p.op with
    | some (i, j) => noteStatus i j st reply s
    | none => s
  match p.mark with
  | some m => passOver m st s
  | none => s

/-! ## Answers of the target -/

/-- A pair flit that answers a packet. -/
def pairFlit (kind : Nat) (p : Packet) (st : Nat) : Flit :=
  { bareFlit kind with
    tag := p.head.tag, gen := p.head.gen, vf := p.head.vf
    payload := bytesOf 3 (uv p.head.pseq) ++ bytesOf 1 st }

/-- Answer a packet with a status: DONE over the fabric, or at once within the device. -/
def answerPacket (p : Packet) (st : Nat) (s : State) : State :=
  let src := uv p.head.src
  if src = s.dev then packetOver p st [] s
  else
    (s.modPeer src (fun x => { x with given := Tbl.put x.given (uv p.head.pseq) st })).xmitPair src (pairFlit 8 p st)

/-- Answer a packet with reply data: RSP over the fabric. -/
def replyPacket (p : Packet) (old data : List Byte) (s : State) : State :=
  let src := uv p.head.src
  if src = s.dev then packetOver p 0 (old ++ data) s
  else
    (s.modPeer src (fun x => { x with given := Tbl.put x.given (uv p.head.pseq) 0 })).sendPacket src {
      head := { bareFlit 4 with
        tag := p.head.tag, gen := p.head.gen, vf := p.head.vf
        payload := bytesOf 3 (uv p.head.pseq) ++ bytesOf 1 0 ++ fit 4 old }
      data := data }

/-! ## The run at the target -/

/-- The copy of the run that a packet acts on: one that executes, one that is over, or none yet. -/
inductive TargetRun where
  | run (k : Nat) | past | absent
deriving DecidableEq, Repr

/-- The run of a packet: its own kernel within the device, else that of the bound virtual function across devices. -/
def State.targetRun (s : State) (p : Packet) (vf : Nat) : TargetRun :=
  let wide (f : KernelSt → Bool) := Tbl.first? (fun _ (k : Kernel) => k.vf == vf && k.hdr.width 5 != 0 && f k.st) s.kernels
  match p.kern with
  | some k => if ((s.kern k).map (·.st.runs)).getD false then .run k else .past
  | none =>
    match wide KernelSt.runs with
    | some (k, _) => .run k
    | none =>
      if (wide (fun st => st == .queued || st == .translating)).isSome then .absent
      else if (wide (fun _ => true)).isSome then .past else .absent

/-- The local virtual function of a packet (spec/25_link.md R432). -/
def State.localVf (s : State) (p : Packet) : Option Nat :=
  let src := uv p.head.src
  let vf := if src = s.dev then some (uv p.head.vf) else (s.peer src).bind (fun x => Tbl.find x.bind (uv p.head.vf))
  vf.filter (fun v => ((s.ctx v).map (fun c => c.st != .free)).getD false)

/-! ## Requests (R452) -/

/-- The fields of a request head. -/
structure Req where
  col : Nat
  opts : Nat
  aop : Nat
  len : Nat
  ra : Nat
  flag : BitVec 64
  round : Nat
  a : Word
  b : Word
deriving DecidableEq, Repr

/-- The request of a head flit; bits 62:57 of an address are ignored (spec/00_scope.md R9). -/
def Req.of (f : Flit) : Req :=
  let n := natAt f.payload
  { col := n 0 1, opts := n 1 1 % 64, aop := n 2 1 % 16, len := n 4 4, ra := n 8 8 % 2 ^ 57, flag := BitVec.ofNat 64 (n 16 8)
    round := n 24 4, a := BitVec.ofNat 32 (n 28 4), b := BitVec.ofNat 32 (n 32 4) }

/-- The address of a flag word. -/
def Req.word (r : Req) : Nat := uv r.flag % 2 ^ 57
/-- The flag's form; a RATOM carries none (R449). -/
def Req.flg (r : Req) : Nat := if r.col = 3 then 0 else r.opts / 16
/-- Contributions and destination are BF16. -/
def Req.ct (r : Req) : Bool := r.opts % 2 == 1
def Req.dt (r : Req) : Bool := r.opts / 2 % 2 == 1
/-- Elements of a contribution, and bytes of their destination. -/
def Req.elems (r : Req) : Nat := if r.ct then r.len / 2 else r.len / 4
def Req.destLen (r : Req) : Nat := if r.dt then 2 * r.elems else 4 * r.elems
/-- The atomic of a RATOM. -/
def Req.atom (r : Req) : AtomOp :=
  match r.aop with
  | 0 => .add
  | 1 => .smin
  | 2 => .umin
  | 3 => .smax
  | 4 => .umax
  | 5 => .and
  | 6 => .or
  | 7 => .xor
  | 8 => .fadd
  | 9 => .fmin
  | 10 => .fmax
  | 11 => .exch
  | _ => .cas

/-- The accesses that a request makes at the target: address, length, and 1 for a read, 2 for a write, 3 for both, as a
reduction, an atomic and a flag word do. -/
def Req.access (r : Req) : List (Nat × Nat × Nat) :=
  (match r.col with
   | 0 => [(r.ra, r.len, 2)]
   | 1 => [(r.ra, r.len, 1)]
   | 2 => [(r.ra, r.destLen, 3)]
   | 3 => [(r.ra, 4, 3)]
   | _ => [(r.ra, r.len, 2)]) ++
  (if r.flg = 1 then [(r.word, 8, 3)] else [])

/-- What the translation at the target meets, with the code of the access that fails (R330). -/
def targetMeets (s : State) (run : TargetRun) (vf : Nat) (xs : List (Nat × Nat × Nat)) : Meets × Nat :=
  let h := match run with
    | .run k => s.hdr k
    | _ => {}
  let each (x : Nat × Nat × Nat) : Meets × Nat :=
    if x.2.1 = 0 then (.ok, 0)
    else if (x.2.2 % 2 == 1 && h.forbids x.1 x.2.1 false) || (x.2.2 / 2 % 2 == 1 && h.forbids x.1 x.2.1 true) then
      (.fault (x.1 / 65536), x.2.2)
    else (s.meetAcc vf x.1 x.2.1 x.2.2, x.2.2)
  ((xs.map each).find? (fun m => m.1 != .ok)).getD (.ok, 0)

/-! ## Flags (R439, R448) -/

/-- What a flag acts on: nothing, a word, a team's barrier, a team that has ENDED, or a team that is not placed yet. -/
inductive FlagAt where
  | none | word (va : Nat) | arrive (t b : Nat) | ended | waits
deriving DecidableEq, Repr

/-- The place of a flag. -/
def flagAt (s : State) (run : TargetRun) (r : Req) : FlagAt :=
  match r.flg with
  | 1 => .word r.word
  | 2 =>
    match run with
    | .absent => .waits
    | .past => .ended
    | .run k =>
      match Tbl.first? (fun _ (t : Team) => t.kern == k && t.idx == flagTeam r.flag) s.teams with
      | some (t, tm) => if tm.st == .pending then .waits else if tm.st == .ended then .ended else .arrive t (flagBar r.flag)
      | none => .ended
  | _ => .none

/-- The logical index that stands for the source of an arrival of a run's packet: of an operation of this device its wave's, of
another device's the lowest that the device has (spec/12_barrier.md R242, notes/assumptions/96.md). -/
def packetSource (s : State) (h : Header) (p : Packet) : Nat :=
  match p.op.bind (fun x => s.op x.1) with
  | some o => o.source s
  | none => h.setField 0 5 (uv p.head.src) / h.cells

/-- The plan under execution here whose unit on another device the packet may come from: it is a piece of one of the plan's segments
from that device to this one (spec/28_swage.md R465, notes/assumptions/52.md). -/
def swagePlan (p : Packet) (vf : Nat) (s : State) : Option Nat :=
  let r := Req.of p.head
  let piece (g : PlanSeg) : Bool := g.src == uv p.head.src && g.dst == s.dev &&
    (segPieces g.m).any (fun c => g.m.dst + c.1 == r.ra && c.2 == r.len)
  if p.op.isSome || r.col != 4 || r.flg != 0 then none
  else (Tbl.first? (fun _ (x : Plan) => x.vf == vf && (x.st == 2 || x.st == 3) && x.segs.any piece) s.plans).map (·.1)

/-- Bytes of a packet's data are written. -/
def targetWrite (p : Packet) (vf va : Nat) (bs : List Byte) (s : State) : State :=
  match swagePlan p vf s with
  | some key => s.unitWrite key va bs
  | none => s.userWrite vf va bs

/-- The aligned words of a packet's data that have not reached their modules, each with the address of its first byte (R447). -/
def Packet.toLand (p : Packet) : List (Nat × List Byte) :=
  let r := Req.of p.head
  (byWord (spread (r.ra, p.data.take r.len))).filterMap (fun w => match w with
    | [] => none
    | x :: _ => if p.landed.contains (x.1 / 4) then none else some (x.1, w.map (·.2)))

/-- What of a packet's data has not reached its modules does. -/
def landData (p : Packet) (vf : Nat) (s : State) : State :=
  let r := Req.of p.head
  if p.landed.isEmpty then targetWrite p vf r.ra (p.data.take r.len) s
  else p.toLand.foldl (fun s w => targetWrite p vf w.1 w.2 s) s

/-- Raise a packet's flag; the status that the operation then has. -/
def raiseFlag (vf : Nat) (p : Packet) (f : FlagAt) (s : State) : State × Nat :=
  match f with
  | .word va => (s.userWrite vf va (bytesOf 8 (natOf ((s.vread vf va 8).getD []) + 1)), 0)
  | .arrive t b => (extArrive (packetSource s (s.hdr (((s.team t).map (·.kern)).getD 0)) p) t b s, 0)
  | .ended => (s, 3)
  | _ => (s, 0)

/-! ## Reduction rounds (R450) -/

/-- The open round that a contribution belongs to. -/
def findRound (s : State) (vf : Nat) (r : Req) : Option (Nat × RedRound) :=
  Tbl.first? (fun _ (x : RedRound) => x.vf == vf && x.ra == r.ra && x.round == r.round / 256) s.rounds

/-- An element of a byte string as FP32. -/
def wideAt (bf : Bool) (bs : List Byte) (e : Nat) : Word :=
  if bf then BitVec.ofNat 32 (natAt bs (2 * e) 2 * 65536) else BitVec.ofNat 32 (natAt bs (4 * e) 4)

/-- The sum of an element: the destination, then every contribution by ascending source. -/
def roundSum (dest : List Byte) (dt ct : Bool) (cs : List (List Byte)) (e : Nat) : Word :=
  cs.foldl (fun acc c => fop f32.add acc (wideAt ct c e)) (wideAt dt dest e)

/-- The bytes of an element at the destination. -/
def narrowBytes (dt : Bool) (x : Word) : List Byte :=
  if dt then bytesOf 2 (bf16.roundNE (f32.decode (uv x))) else bytesOf 4 (uv x)

/-- The contributions in ascending source. -/
def RedRound.ordered (x : RedRound) : List Contrib := sortBy (·.src) x.parts

/-- ROUND_APPLY: the destination, then each flag, then DONE to every contributor. -/
def applyRound (key : Nat) (x : RedRound) (run : TargetRun) (s : State) : State :=
  match x.parts.head? with
  | none => s
  | some c0 =>
    let r := Req.of c0.pkt.head
    let dest := (s.vread x.vf x.ra r.destLen).getD []
    let cs := x.ordered
    let out := (List.range r.elems).flatMap (fun e => narrowBytes r.dt (roundSum dest r.dt r.ct (cs.map (·.pkt.data)) e))
    let s := State.userWrite { s with rounds := Tbl.del s.rounds key } x.vf x.ra out
    let (s, sts) := cs.foldl (fun (a : State × List (Packet × Nat)) c =>
      let (s, st) := raiseFlag x.vf c.pkt (flagAt a.1 run (Req.of c.pkt.head)) a.1
      (s, a.2 ++ [(c.pkt, st)])) (s, [])
    sts.foldl (fun s p => answerPacket p.1 p.2 s) s

/-! ## Performing a packet -/

/-- The memory that requests use comes through its slices (spec/01_device.md R16). -/
def useAll (vf : Nat) (xs : List (Nat × Nat × Nat)) (s : State) : State :=
  xs.foldl (fun s x => s.useRange vf (decide (2 ≤ x.2.2)) x.1 x.2.1) s

/-- What a packet that is to be performed meets. -/
inductive Tried where
  | done (s : State) | waits | faults (page acc : Nat)
deriving DecidableEq, Repr

/-- A contribution joins its round, or is discarded; the round that it completes is applied. -/
def tryContribution (p : Packet) (vf : Nat) (run : TargetRun) (r : Req) (s : State) : Tried :=
  let src := uv p.head.src
  let (key, x, s1) := match findRound s vf r with
    | some (i, x) => (i, x, s)
    | none => (s.serial, { vf := vf, ra := r.ra, round := r.round / 256, exp := r.round % 16 + 1, parts := [] },
        { s with serial := s.serial + 1 })
  let bad := x.parts.any (fun c => let q := Req.of c.pkt.head; q.len != r.len || q.ct != r.ct || q.dt != r.dt)
  if x.parts.any (fun c => c.src == src) then .done (answerPacket p 4 s)
  else if bad then .done (answerPacket p 5 s)
  else if x.parts.isEmpty && decide (256 ≤ s.rounds.length) then .waits
  else
    let y := { x with parts := x.parts ++ [{ src := src, pkt := p }] }
    if y.parts.length < y.exp then .done { s1 with rounds := Tbl.put s1.rounds key y }
    else
      match targetMeets s run vf (y.parts.flatMap (fun c => (Req.of c.pkt.head).access)) with
      | (.ok, _) =>
        if y.parts.any (fun c => flagAt s run (Req.of c.pkt.head) == .waits) then .waits
        else .done (applyRound key y run (useAll vf (y.parts.flatMap (fun c => (Req.of c.pkt.head).access)) s1))
      | (.waits, _) => .waits
      | (.fault g, acc) => .faults g acc

/-- A request is performed: its data, then its flag, then its answer (R447-R450). -/
def tryRequest (p : Packet) (vf : Nat) (s : State) : Tried :=
  let r := Req.of p.head
  let run := s.targetRun p vf
  match targetMeets s run vf r.access with
  | (.waits, _) => .waits
  | (.fault g, acc) => .faults g acc
  | (.ok, _) =>
    let f := flagAt s run r
    let s := if r.col = 2 ∨ f == .waits then s else useAll vf r.access s
    match r.col with
    | 1 => .done (replyPacket p [] ((s.vread vf r.ra r.len).getD []) s)
    | 2 => tryContribution p vf run r s
    | 3 =>
      let old := (s.vread vf r.ra 4).getD []
      let new := r.atom.new (BitVec.ofNat 32 (natOf old)) r.a r.b
      .done (replyPacket p old [] (s.userWrite vf r.ra (bytesOf 4 (uv new))))
    | _ =>
      if f == .waits then .waits
      else
        let (s, st) := raiseFlag vf p f (landData p vf s)
        .done (answerPacket p st s)

/-- A pass reaches its receiver's pass table (spec/14_handle.md R275, R278). DEDUCED: one to a run that has ended, or to a wave that is
DONE, is answered with status 3 (notes/assumptions/108.md). -/
def tryPass (p : Packet) (vf : Nat) (s : State) : Tried :=
  let recv := natAt p.head.payload 0 8
  let key := BitVec.ofNat 16 (natAt p.head.payload 8 2)
  match s.targetRun p vf with
  | .absent => .waits
  | .past => .done (answerPacket p 3 s)
  | .run k =>
    let lost := ((s.waveAt k recv).map (fun x => x.2.st == .done)).getD true
    match applyPass k ⟨uv p.head.src, recv, key, some (uv p.head.tag), p.head.gen⟩ id s with
    | some s' => .done (answerPacket p (if lost then 3 else 0) s')
    | none => .waits

/-- The dies of a run on this device whose cells read a cell: by symmetry those of its neighbours (spec/06_cell.md R121, R128). -/
def Kernel.readingDies (k : Kernel) (dev wid : Nat) : List Nat :=
  let h := k.hdr
  ([0, 1, 2].flatMap (fun ax => if (h.axisFields ax).isEmpty then [] else [false, true].filterMap (fun p =>
    match h.neighbour wid ax p with
    | .cell n => if h.onDev dev n then some (k.dieAt n) else none
    | _ => none))).eraseDups

/-- Change what a die's halo store and step table hold of a remote wave (spec/06_cell.md R128). -/
def modHalo (k die idx : Nat) (f : HaloWave → HaloWave) (s : State) : State :=
  s.modKern k (fun x =>
    let t := (Tbl.find x.halo die).getD []
    { x with halo := Tbl.put x.halo die (Tbl.put t idx (f ((Tbl.find t idx).getD {}))) })

/-- Halo data go into the bank of their step, in the store of each die that reads the cell (spec/06_cell.md R127, R128,
notes/assumptions/15.md). -/
def haloEffect (k : Nat) (p : Packet) (s : State) : State :=
  let idx := natAt p.head.payload 0 8
  let b := natAt p.head.payload 8 4 % 2
  let h := s.hdr k
  let sz := 4 + 4 * h.pubs.length
  (List.range (natAt p.head.payload 12 4)).foldl (fun s i =>
    let f := natAt p.data (sz * i) 4
    let dies := ((s.kern k).map (fun x => x.readingDies s.dev (idx * h.cells + f))).getD []
    dies.foldl (fun s d => modHalo k d idx (fun x => h.pubs.zipIdx.foldl (fun x v =>
      { x with bank := NMap.set 0 x.bank (64 * f + 2 * v.1 + b) (BitVec.ofNat 32 (natAt p.data (sz * i + 4 + 4 * v.2) 4)) }) x) s) s) s

/-- A step notice moves the step count, or marks the cells that exit, on each die that reads the wave (spec/06_cell.md R127,
R128). -/
def noticeEffect (k : Nat) (p : Packet) (s : State) : State :=
  let idx := natAt p.head.payload 0 8
  let step := BitVec.ofNat 32 (natAt p.head.payload 8 4)
  let bits := natAt p.head.payload 12 1
  let mask := BitVec.ofNat 512 (natAt p.head.payload 16 64)
  let h := s.hdr k
  let dies := (((List.range h.cells).flatMap (fun f =>
    ((s.kern k).map (fun x => x.readingDies s.dev (idx * h.cells + f))).getD []))).eraseDups
  dies.foldl (fun s d => modHalo k d idx (fun x =>
    let x := { x with dispatched := true, whole := x.whole || bits / 2 % 2 == 1 }
    if bits % 2 = 1 then { x with exits := (cellsOf mask).foldl (fun t f => Tbl.put t f step) x.exits }
    else { x with step := step }) s) s

/-- A packet of the halo class is performed. -/
def tryHalo (p : Packet) (vf : Nat) (s : State) : Tried :=
  match s.targetRun p vf with
  | .absent => .waits
  | .past => .done (answerPacket p 0 s)
  | .run k => .done (answerPacket p 0 (if p.head.kind == 6 then haloEffect k p s else noticeEffect k p s))

/-- A packet is performed, by its kind; one whose binding is gone is answered GONE (spec/25_link.md R432). -/
def tryPacket (p : Packet) (s : State) : Tried :=
  match s.localVf p with
  | none => .done (answerPacket p 2 s)
  | some vf =>
    match uv p.head.kind with
    | 2 => tryRequest p vf s
    | 5 => tryPass p vf s
    | _ => tryHalo p vf s

/-! ## DELIVER and parked accesses -/

/-- The packets of a channel behind the first, with what the end of that one leaves for the next of its operation. -/
def popChannel (ch : Nat) (skip : Option (Nat × Option Nat)) (s : State) : State :=
  { s with channels := Tbl.modify (fun c => { c with pkts := c.pkts.drop 1, skip := skip }) s.channels ch }

/-- The packet is a later one of the RCPY whose packet ended FAULT (R446). -/
def skipped (c : Channel) (p : Packet) : Bool :=
  let r := Req.of p.head
  p.head.kind == 2 && r.col == 4 && c.skip == some (r.ra, p.op.map (·.1))

/-- The address of the packet behind a packet of an RCPY that was not its last: the last one may end at a 4 KiB boundary without a flag,
and then it shows nowhere in a packet of another device (notes/assumptions/112.md). -/
def skipNext (p : Packet) : Option (Nat × Option Nat) :=
  let r := Req.of p.head
  if r.col = 4 ∧ r.flg = 0 ∧ (r.ra + r.len) % 4096 = 0 then some (r.ra + r.len, p.op.map (·.1)) else none

/-- The KID of a REMOTE record is 0 and its extent that of the target's run (spec/17_page.md R318). -/
def parkService (p : Packet) (vf g acc : Nat) (s : State) : State :=
  let ext := match s.targetRun p vf with
    | .run k => (s.hdr k).extIndex (65536 * g)
    | _ => 0xFF
  s.service vf g 0 (uv p.head.src) 3 ext acc

/-- DELIVER: the oldest packet of a channel is performed, parked at a page, or waits. -/
def deliverPacket (ch : Nat) (s : State) : Option State :=
  match Tbl.find s.channels ch with
  | none => none
  | some c =>
    match c.pkts with
    | [] => none
    | p :: _ =>
      if s.parked.any (fun x => x.chan == ch) then none
      else if skipped c p then some (answerPacket p 6 (popChannel ch (skipNext p) s))
      else
        match tryPacket p (popChannel ch none s) with
        | .done s' => some s'
        | .waits => none
        | .faults g acc =>
          match s.localVf p with
          | none => none
          | some vf =>
            if decide (s.parked.length < 256) && s.hasRoom vf g acc then
              let q : Parked := { chan := ch, pkt := p, vf := vf, page := g, forbid := (s.pageOf vf g).usable }
              let s := parkService p vf g acc (popChannel ch none s)
              some { s with parked := s.parked ++ [q] }
            else none

/-- DELIVER (R257). -/
def execDeliver (ch : Nat) (s : State) : Host.Outcome State Fault Refusal := .next ((deliverPacket ch s).getD s)

/-- The parked access of a channel. -/
def State.parkedAt (s : State) (ch : Nat) : Option Parked := s.parked.find? (fun x => x.chan == ch)

/-- A parked access waits for the service of its page, or for the record of a page that forbade it. -/
def Parked.waits (s : State) (x : Parked) : Bool :=
  (s.pageOf x.vf x.page).st == .fetching || (x.forbid && s.recorded x.vf x.page)

/-- The packet that a channel performs next, with its virtual function: the one that is parked, once it may go on, else the first. -/
def nextPacket (ch : Nat) (s : State) : Option (Packet × Nat) :=
  match s.parkedAt ch with
  | some x => if x.waits s then none else some (x.pkt, x.vf)
  | none =>
    match Tbl.find s.channels ch with
    | none => none
    | some c => (c.pkts.head?).bind (fun p => if skipped c p then none else (s.localVf p).map (fun vf => (p, vf)))

/-- A word of the data of a store or a copy reaches its module ahead of the rest, in whatever order, once the whole packet can be performed
(R447). -/
def landWord (ch k : Nat) (s : State) : Option State :=
  match nextPacket ch s with
  | none => none
  | some (p, vf) =>
    let r := Req.of p.head
    let run := s.targetRun p vf
    if p.head.kind != 2 || !(r.col == 0 || r.col == 4) || flagAt s run r == .waits || (targetMeets s run vf r.access).1 != .ok then none
    else match p.toLand[k]? with
      | none => none
      | some w =>
        let s := targetWrite p vf w.1 w.2 (s.useRange vf true w.1 w.2.length)
        let p := { p with landed := w.1 / 4 :: p.landed }
        some (if (s.parkedAt ch).isSome then
            { s with parked := s.parked.map (fun x => if x.chan == ch then { x with pkt := p } else x) }
          else { s with channels := Tbl.modify (fun c => { c with pkts := p :: c.pkts.drop 1 }) s.channels ch })

/-- PARKED_COMPLETE: once its page's service is over, or the record of a page that forbade it dealt with, a parked access
translates again. It is performed; or it ends with FAULT when the service ended in NOBACK or the permission stands; or it is
parked with a record of its own at what it meets then (R318, R331). -/
def parkedStep (ch : Nat) (s : State) : Option State :=
  match s.parkedAt ch with
  | none => none
  | some x =>
    if x.waits s then none
    else
      let s1 := { s with parked := s.parked.filter (fun y => y.chan != ch) }
      match tryPacket x.pkt s1 with
      | .done s' => some s'
      | .waits => none
      | .faults g acc =>
        let p := s.pageOf x.vf g
        if g = x.page ∧ (if p.usable then x.forbid else p.noback) then
          some (answerPacket x.pkt 1
            { s1 with channels := Tbl.modify (fun c => { c with skip := skipNext x.pkt }) s1.channels ch })
        else if s.hasRoom x.vf g acc then
          let s := parkService x.pkt x.vf g acc s1
          some { s with parked := s.parked ++ [{ x with page := g, forbid := p.usable }] }
        else none

/-- PARKED_COMPLETE (R331). -/
def execParkedComplete (ch : Nat) (s : State) : Host.Outcome State Fault Refusal := .next ((parkedStep ch s).getD s)

/-- WAIT_NOTICE_TIMER (R330): a keep-waiting notice for the access of a channel that is parked. -/
def execWaitNoticeTimer (ch : Nat) (s : State) : Host.Outcome State Fault Refusal :=
  .next (match s.parkedAt ch with
    | none => s
    | some x => if uv x.pkt.head.src = s.dev then s else s.xmitPair (uv x.pkt.head.src) (pairFlit 9 x.pkt 0))

/-- Perform the packets at the head of the halo channels that nothing holds back. -/
def deliverHalo : Nat → State → State
  | 0, s => s
  | n + 1, s =>
    match firstStep (fun c => deliverPacket c.1 s) (s.channels.filter (fun c => c.2.halo)) with
    | some s' => deliverHalo n s'
    | none => s

end Sys2Proof.Machine
end

