-- ==== Sys2Proof/Machine/Link.lean ====
section
/-! DEFINITION. The receiving side of the fabric: links, replay, the reorder stage, wavelengths, training, reachability and
the commands RUNBIND and EVTREAD (spec/25_link.md R415-R436, spec/01_device.md R28). -/
namespace Sys2Proof.Machine

/-! ## Replay (R421) -/

/-- The flits behind an acknowledged one. -/
def ackedTo (a : BitVec 16) (fs : List Flit) : List Flit :=
  if fs.any (fun f => f.lseq == a) then (fs.dropWhile (fun f => f.lseq != a)).drop 1 else fs

/-- Send every packet that may be sent, to every peer. -/
def State.flushAll (s : State) : State := s.peers.foldl (fun s p => s.flush p.1) s

/-- The losses of light that a flit was sent before. -/
def Peer.lolBehind (p : Peer) (fs : List Flit) : List (BitVec 16) := p.lol.filter (fun b => fs.any (fun f => decide (32768 ≤ uv (f.lseq - b))))

/-- The LOL events of a link are written: each with the flits that were resent for it, once they are, or none, once every flit sent before it
is acknowledged (R436, notes/assumptions/62.md). -/
def State.logLol (s : State) (l n k : Nat) : State := (List.range k).foldl (fun s _ => s.logEv 3 l 0 0 n) s

/-- A cumulative acknowledgement frees replay entries; the flits that waited behind them are sent. -/
def State.ackTo (s : State) (l : Nat) (a : BitVec 16) : State :=
  match s.peer l with
  | none => s
  | some p =>
    let rest := ackedTo a p.replay
    let n := p.replay.length - rest.length
    if n = 0 then s
    else
      let new := (rest.take 4096).drop (4096 - n)
      let s := s.logLol l 0 (p.lol.length - (p.lolBehind rest).length)
      ((s.modPeer l (fun x => { x with replay := rest, resends := 0, lol := x.lolBehind rest })).emit l new).flushAll

/-! ## Routes and reachability (R425, R428, R430) -/

/-- Send every packet of a peer that is not yet DONE again, in PSEQ order, under its number. -/
def State.resendAll (s : State) (q : Nat) : State :=
  match s.peer q with
  | none => s
  | some x => (x.out.filter (·.sent)).foldl (fun s o => s.sendFlits q o) s

/-- A peer whose route is gone goes by the relay, or is held. -/
def reroute (q : Nat) (s : State) : State :=
  match s.peer q with
  | none => s
  | some x =>
    match x.reach with
    | .unreachable => s
    | .resync => if (s.route q).isSome then s else s.modPeer q (fun y => { y with reach := .unreachable })
    | r =>
      match s.route q with
      | none => s.modPeer q (fun y => { y with reach := .noroute })
      | some _ =>
        let tgt : Reach := if x.carries then .direct else .detour
        let s := (s.modPeer q (fun y => { y with reach := tgt })).resendAll q
        if tgt = .detour ∧ r ≠ .detour then s.logEv 8 q 0 0 (x.out.filter (·.sent)).length else s

/-- The link enters FAILED: its replay buffer is discarded, and what it carried takes another route. -/
def linkFail (l : Nat) (s : State) : State :=
  match s.peer l with
  | none => s
  | some p =>
    if p.link = .failed then s
    else
      let through := (s.peers.filter (fun q => s.route q.1 == some l || q.1 == l)).map (·.1)
      let s := s.modPeer l (fun x => { x with
        link := .failed, replay := [], tx := 0, rx := 0, excluded := 0, retrain := 0, rxDark := 0, lol := [], nakSent := false
        striped := false })
      let s := { s with peers := Tbl.mapVals (fun _ (x : Peer) => { x with part := x.part.filter (fun y => y.1 != l) }) s.peers }
      through.foldl (fun s q => reroute q s) ((s.logLol l 0 p.lol.length).logEv 7 l 2 0 p.replay.length)

/-- A route may have come back for a peer. -/
def routeBack (q : Nat) (s : State) : State :=
  match s.peer q with
  | none => s
  | some x =>
    match s.route q with
    | none => s
    | some _ =>
      let tgt : Reach := if x.carries then .direct else .detour
      match x.reach with
      | .detour =>
        if tgt = .direct then (s.modPeer q (fun y => { y with reach := .direct })).logEv 9 q 0 0 0 else s
      | .noroute =>
        let s := ((s.modPeer q (fun y => { y with reach := tgt })).resendAll q).flush q
        if tgt = .direct then s.logEv 9 q 0 0 0 else s.logEv 8 q 0 0 (x.out.filter (·.sent)).length
      | .unreachable => s.modPeer q (fun y => { y with reach := .resync })
      | _ => s.flush q

/-- The flits without an acknowledgement are sent again; behind eight resends in a row of one LSEQ the link is FAILED. -/
def resendFrom (l : Nat) (s : State) : State :=
  match s.peer l with
  | none => s
  | some p =>
    if !p.carries || p.replay.isEmpty then s
    else if 8 ≤ p.resends then linkFail l s
    else
      let s := (s.modPeer l (fun x => { x with resends := x.resends + 1, lol := [] })).emit l (p.replay.take 4096)
      s.logLol l (p.replay.take 4096).length p.lol.length

/-! ## Acceptance of a flit (R417, R418, R421) -/

/-- A flit was discarded: the first of a gap is answered with NAK. -/
def gap (l : Nat) (s : State) : State :=
  match s.peer l with
  | none => s
  | some p =>
    if p.nakSent then s
    else (s.xmitCtl l (bytesOf 1 1 ++ bytesOf 2 (uv p.rxLseq))).modPeer l (fun x => { x with nakSent := true })

/-- A flit whose check fails, or whose kind is reserved. -/
def badFlit (l : Nat) (s : State) : State := gap l (s.modPeer l (fun x => { x with crcFails := x.crcFails + 1 }))

/-- The fabric is out of reset and in service (spec/30_bringup.md R484, R487). -/
def State.fabricOn (s : State) : Bool := s.hearth.stage != .reset && s.hearth.stage != .minimal

/-- One of the beats of the next flit on a link comes on a wavelength whose light is lost (R420, R423). -/
def Peer.inDark (p : Peer) : Bool := (lanesOfFlit p.rx p.rxIndex).any p.rxDark.getLsbD

/-- A flit of a kind arrives on a link, and every one is counted. Only the flit with the next expected LSEQ whose CRC matches is accepted, and
none that has crossed a dark wavelength; the kinds of class Link are not counted in LSEQ (notes/assumptions/14.md). -/
def receive (kind l : Nat) (f : Flit) (s : State) (g : State → State) : State :=
  match s.peer l with
  | none => s
  | some p =>
    let dark := p.inDark
    if !p.carries || !s.fabricOn then s
    else
      let s := s.modPeer l (fun x => { x with rxIndex := x.rxIndex + 1 })
      if 11 ≤ uv f.kind then badFlit l s
      else if uv f.kind ≠ kind then s
      else if f.crc ≠ flitCrc f then badFlit l s
      else if kind ≤ 1 then g (s.ackTo l f.ackseq)
      else if dark then badFlit l s
      else if f.lseq = p.rxLseq then
        g (State.ackTo (s.modPeer l (fun x => { x with rxLseq := x.rxLseq + 1, nakSent := false })) l f.ackseq)
      else if uv (p.rxLseq - f.lseq) < 32768 then s
      else gap l s

/-- A flit for another device is forwarded in the order of arrival, on the second hop of its detour (R425). -/
def endToEnd (f : Flit) (s : State) (g : State → State) : State :=
  if uv f.dst = s.dev then g s
  else if ((s.peer (uv f.dst)).map Peer.carries).getD false then s.xmit (uv f.dst) { f with rly := true }
  else s

/-! ## The reorder stage (R427, R431-R434) -/

/-- An older generation of a virtual function (R434). -/
def genOld (now g : BitVec 8) : Bool := let d := uv (now - g); decide (0 < d) && decide (d < 128)

/-- Return the allowance that is owed to a peer, once its link carries flits: CTRL CREDIT travels one hop (R418, R431). -/
def payCredit (src : Nat) (s : State) : State :=
  match s.peer src with
  | none => s
  | some x =>
    if x.carries then
      (x.owed.foldl (fun s c => s.xmitCtl src (bytesOf 1 3 ++ bytesOf 1 c.1 ++ bytesOf 2 c.2)) s).modPeer src
        (fun y => { y with owed := [] })
    else s

/-- Return allowance for flits that leave the stage. -/
def credit (src vf n : Nat) (s : State) : State :=
  payCredit src (s.modPeer src (fun x => { x with owed := NMap.set 0 x.owed vf (NMap.get 0 x.owed vf + n) }))

/-- The operation's packet that a reply answers takes it; the packet is then no longer held. -/
def replyEffect (src : Nat) (p : Packet) (s : State) : State :=
  let seq := natAt p.head.payload 0 3
  let st := natAt p.head.payload 3 1
  match (s.peer src).bind (fun x => x.out.find? (fun o => o.sent && o.pseq == seq)) with
  | none => s
  | some o =>
    let s := s.modPeer src (fun x => { x.unreserve o.pkt with
        out := x.out.filter (fun y => !(y.sent && y.pseq == seq)), waits := x.waits.filter (fun w => w != seq) })
    if genOld (s.genOf (uv o.pkt.head.vf)) p.head.gen then s
    else
      let bytes := if (Req.of o.pkt.head).col = 3 then (p.head.payload.drop 4).take 4 else p.data.take (Req.of o.pkt.head).len
      packetOver o.pkt st bytes s

/-- A generation notice passes: what stands here of an older generation is dropped, and the allowance owed to its virtual function and the
room reserved for replies from it are reclaimed (R434). -/
def gennEffect (src : Nat) (p : Packet) (s : State) : State :=
  let vf := natAt p.head.payload 0 1
  let g := BitVec.ofNat 8 (natAt p.head.payload 1 1)
  let old (k : Packet) : Bool := uv k.head.src == src && uv k.head.vf == vf && genOld g k.head.gen
  let gone := s.parked.filter (fun x => old x.pkt) |>.map (·.pkt)
  let lost := (s.channels.flatMap (fun c => c.2.pkts)).filter old
  let s := { s with
    parked := s.parked.filter (fun x => !old x.pkt)
    channels := Tbl.mapVals (fun _ c => { c with pkts := c.pkts.filter (fun k => !old k) }) s.channels }
  let s := s.modPeer src (fun x => { x with
    gens := Tbl.put x.gens vf g, owed := NMap.set 0 x.owed vf 0
    reserved := match Tbl.find x.bind vf with
      | some v => NMap.set 0 x.reserved v 0
      | none => x.reserved })
  answerPacket p 0 ((gone ++ lost).foldl (fun s k => answerPacket k 2 s) s)

/-- A packet leaves the stage: a reply or a generation notice acts at once; of the others one without a binding is answered
GONE, one of an older generation is discarded and counted, and the rest go to their channel. -/
def leaveStage (src : Nat) (p : Packet) (s : State) : State :=
  let vf := uv p.head.vf
  let s := if p.counts then credit src vf p.size s else s
  match s.peer src with
  | none => s
  | some x =>
    if p.head.kind == 4 then answerPacket p 0 (replyEffect src p s)
    else if p.head.kind == 10 then gennEffect src p s
    else if ((Tbl.find x.gens vf).map (fun g => genOld g p.head.gen)).getD false then
      answerPacket p 2 (s.modPeer src (fun y => { y with
        discards := y.discards + 1, gendisc := NMap.set 0 y.gendisc vf (NMap.get 0 y.gendisc vf + 1) }))
    else if (s.localVf p).isNone then answerPacket p 2 s
    else s.toChannel p

/-- Hand on the packets that stand next in PSEQ order. -/
def release (src : Nat) : Nat → State → State
  | 0, s => s
  | n + 1, s =>
    match s.peer src with
    | none => s
    | some x =>
      match x.held.find? (fun k => uv k.head.pseq == x.expPseq) with
      | none => s
      | some k =>
        let s := s.modPeer src (fun y => { y with
          expPseq := (y.expPseq + 1) % 2 ^ 24, held := y.held.filter (fun z => z.head.pseq != k.head.pseq) })
        release src n (leaveStage src k s)

/-- A whole packet enters the stage, which holds 8192 flits of early arrivals, and one beyond them is not taken; one that is older than the
next expected is a duplicate, answered again with the status first given. -/
def enterStage (src : Nat) (k : Packet) (s : State) : State :=
  match s.peer src with
  | none => s
  | some x =>
    let n := uv k.head.pseq
    let ahead := (n + 2 ^ 24 - x.expPseq) % 2 ^ 24
    if 2 ^ 23 ≤ ahead then
      let s := s.modPeer src (fun y => { y with discards := y.discards + 1 })
      match Tbl.find x.given n with
      | some st => s.xmitPair src (pairFlit 8 k st)
      | none => s
    else if x.held.any (fun z => z.head.pseq == k.head.pseq) || (ahead != 0 && decide (8192 < (x.held.map Packet.size).sum + k.size)) then s
    else
      let s := s.modPeer src (fun y => { y with held := y.held ++ [k] })
      deliverHalo (x.held.length + 1) (release src (x.held.length + 1) s)

/-- A flit that comes on a link joins its packet's flits of that link, behind a head of its own: copies of a packet that come on different links,
or one behind another, do not mix (R429). A flit of another epoch is discarded (R417, R430). -/
def joinFlit (l : Nat) (f : Flit) (s : State) : State :=
  let src := uv f.src
  match s.peer src with
  | none => s
  | some x =>
    if f.epoch ≠ x.epoch then s
    else
      let mine (y : Nat × Flit) : Bool := y.1 == l && y.2.pseq == f.pseq
      let before := if f.kind == 3 then (x.part.filter mine).map (·.2) else []
      let flits := before ++ [f]
      let rest := x.part.filter (fun y => !mine y)
      if f.last then
        let s := s.modPeer src (fun y => { y with part := rest })
        match flits with
        | [] => s
        | h :: ds => if h.kind == 3 then s else enterStage src { head := h, data := ds.flatMap (fun d => fit 112 d.payload) } s
      else s.modPeer src (fun y => { y with part := rest ++ flits.map (fun z => (l, z)) })

/-- A flit of a packet arrives. -/
def packetFlit (kind l : Nat) (f : Flit) (s : State) : State := receive kind l f s (fun s => endToEnd f s (joinFlit l f))

/-- REQ (R427): a received request head. -/
def execReq (peer : Nat) (flit : Flit) (s : State) : Host.Outcome State Fault Refusal := .next (packetFlit 2 peer flit s)
/-- DATA (R417): a received data flit joins its packet. -/
def execData (peer : Nat) (flit : Flit) (s : State) : Host.Outcome State Fault Refusal := .next (packetFlit 3 peer flit s)
/-- RSP (R452): a received reply head. -/
def execRsp (peer : Nat) (flit : Flit) (s : State) : Host.Outcome State Fault Refusal := .next (packetFlit 4 peer flit s)
/-- PASS (R277): a received pass. -/
def execPass (peer : Nat) (flit : Flit) (s : State) : Host.Outcome State Fault Refusal := .next (packetFlit 5 peer flit s)
/-- HALO (R127): a received halo head. -/
def execHalo (peer : Nat) (flit : Flit) (s : State) : Host.Outcome State Fault Refusal := .next (packetFlit 6 peer flit s)
/-- NOTICE (R127): a received step notice. -/
def execNotice (peer : Nat) (flit : Flit) (s : State) : Host.Outcome State Fault Refusal := .next (packetFlit 7 peer flit s)
/-- GENN (R434): a received generation notice. -/
def execGenn (peer : Nat) (flit : Flit) (s : State) : Host.Outcome State Fault Refusal := .next (packetFlit 10 peer flit s)

/-! ## Pair flits at the source (R418, R430) -/

/-- The packet awaits an RSP (R452). -/
def awaitsReply (p : Packet) : Bool := p.replySize != 0

/-- DONE: the packet is no longer held and its outcome is noted; a read that was performed still awaits its reply. -/
def doneEffect (f : Flit) (s : State) : State :=
  let src := uv f.src
  let seq := natAt f.payload 0 3
  let st := natAt f.payload 3 1
  match s.peer src with
  | none => s
  | some x =>
    match x.out.find? (fun o => o.sent && o.pseq == seq) with
    | none => s
    | some o =>
      if f.epoch ≠ x.epoch || (awaitsReply o.pkt && st == 0) then s
      else
        let s := s.modPeer src (fun y => { y.unreserve o.pkt with
          out := y.out.filter (fun z => !(z.sent && z.pseq == seq)), waits := y.waits.filter (fun w => w != seq) })
        let s := if o.pkt.head.kind != 10 && o.pkt.head.kind != 4 && genOld (s.genOf (uv o.pkt.head.vf)) f.gen then s
          else packetOver o.pkt st [] s
        s.flush src

/-- DONE (R418): a received end-to-end acknowledgement. -/
def execDone (peer : Nat) (flit : Flit) (s : State) : Host.Outcome State Fault Refusal :=
  .next (receive 8 peer flit s (fun s => endToEnd flit s (doneEffect flit)))

/-- WAIT: the packet is parked at its target. -/
def waitEffect (f : Flit) (s : State) : State :=
  let seq := natAt f.payload 0 3
  s.modPeer (uv f.src) (fun x =>
    if f.epoch = x.epoch ∧ x.out.any (fun o => o.sent && o.pseq == seq) then
      { x with waits := seq :: x.waits.filter (fun w => w != seq) }
    else x)

/-- WAIT (R330): a received keep-waiting notice. -/
def execWait (peer : Nat) (flit : Flit) (s : State) : Host.Outcome State Fault Refusal :=
  .next (receive 9 peer flit s (fun s => endToEnd flit s (waitEffect flit)))

/-! ## Link flits (R418-R424, R431) -/

/-- IDLE (R418): a received idle flit carries only its acknowledgement. -/
def execIdle (peer : Nat) (flit : Flit) (s : State) : Host.Outcome State Fault Refusal := .next (receive 0 peer flit s id)

/-- A link control flit of a subtype. -/
def control (sub l : Nat) (f : Flit) (s : State) (g : State → State) : State :=
  if natAt f.payload 0 1 = sub then receive 1 l f s g else s

/-- CTRL_ACK (R421): a received cumulative acknowledgement. -/
def execCtrlAck (peer : Nat) (flit : Flit) (s : State) : Host.Outcome State Fault Refusal :=
  .next (control 0 peer flit s (fun s => s.ackTo peer (BitVec.ofNat 16 (natAt flit.payload 1 2))))

/-- NAK (R421): the flits before the one named are acknowledged and the rest are sent again. -/
def execNak (peer : Nat) (flit : Flit) (s : State) : Host.Outcome State Fault Refusal :=
  .next (control 1 peer flit s (fun s =>
    let a := BitVec.ofNat 16 (natAt flit.payload 1 2)
    resendFrom peer (s.ackTo peer (a - 1))))

/-- A link is UP on all its wavelengths and NARROW on fewer. -/
def Peer.settleLink (p : Peer) : Peer :=
  if p.carries then { p with link := if p.tx == p.full && p.rx == p.full then .up else .narrow } else p

/-- RESTRIPE (R420): the receiver's mask from the next flit on, with which the count of flits begins again; a wavelength that comes back has
its light again. -/
def execRestripe (peer : Nat) (flit : Flit) (s : State) : Host.Outcome State Fault Refusal :=
  .next (control 2 peer flit s (fun s =>
    let m := BitVec.ofNat 64 (natAt flit.payload 8 8)
    if active64 m < 8 then linkFail peer s
    else s.modPeer peer (fun p => Peer.settleLink { p with rx := m, rxIndex := 0, rxDark := p.rxDark &&& ~~~(m &&& ~~~p.rx) })))

/-- CTRL_CREDIT (R431): allowance returned to a virtual function of this device. -/
def execCtrlCredit (peer : Nat) (flit : Flit) (s : State) : Host.Outcome State Fault Refusal :=
  .next (control 3 peer flit s (fun s =>
    if uv flit.dst ≠ s.dev then s
    else
      let vf := natAt flit.payload 1 1
      State.flush (s.modPeer (uv flit.src) (fun p => { p with
        allow := NMap.set 256 p.allow vf (min 256 (p.allowance vf + natAt flit.payload 2 2)) })) (uv flit.src)))

/-- The sender leaves wavelengths out, from the next flit it sends on; they may return (R422). -/
def exclude (l : Nat) (m : BitVec 64) (s : State) : State :=
  match s.peer l with
  | none => s
  | some p =>
    if active64 (p.tx &&& ~~~m) < 8 then linkFail l s
    else s.modPeer l (fun x => { Peer.settleLink { x with tx := x.tx &&& ~~~m, excluded := x.excluded ||| (x.tx &&& m) } with striped := true })

/-- The fibres of a link all of whose wavelengths stand in a mask (R415, R423). -/
def darkFibres (m : BitVec 64) : BitVec 4 :=
  BitVec.ofNat 4 (((List.range 4).filter (fun j => (List.range 16).all (fun i => m.getLsbD (16 * j + i)))).map (2 ^ ·)).sum

/-- LOL (R423): the receiver has lost wavelengths of this direction; the event is written once it shows what was resent. -/
def execLol (peer : Nat) (flit : Flit) (s : State) : Host.Outcome State Fault Refusal :=
  .next (control 4 peer flit s (fun s =>
    let m := BitVec.ofNat 64 (natAt flit.payload 8 8)
    let s := exclude peer m (s.modPeer peer (fun p => { p with txLost := p.txLost ||| darkFibres m, lol := p.lol ++ [p.txLseq] }))
    let p := (s.peer peer).getD {}
    if p.replay.isEmpty then (s.modPeer peer (fun x => { x with lol := [] })).logLol peer 0 p.lol.length else s))

/-- ACK_TIMER (R421): the receiver acknowledges with nothing else to send. -/
def execAckTimer (peer : Nat) (s : State) : Host.Outcome State Fault Refusal :=
  .next (match s.peer peer with
    | none => s
    | some p => s.xmitCtl peer (bytesOf 1 0 ++ bytesOf 2 (uv (p.rxLseq - 1))))

/-- REPLAY_TIMEOUT (R421): no acknowledgement has advanced. -/
def execReplayTimeout (peer : Nat) (s : State) : Host.Outcome State Fault Refusal :=
  .next (resendFrom peer s)

/-- LOSS_OF_LIGHT (R423): this receiver reports the wavelengths it has lost. -/
def execLossOfLight (peer : Nat) (mask : BitVec 64) (s : State) : Host.Outcome State Fault Refusal :=
  .next (match s.peer peer with
    | none => s
    | some p =>
      if p.carries then
        ((s.xmitCtl peer (bytesOf 1 4 ++ bytesOf 7 0 ++ bytesOf 8 (uv (mask &&& p.rx)))).modPeer peer
          (fun x => { x with rxLost := x.rxLost ||| darkFibres mask, rxDark := x.rxDark ||| (mask &&& x.rx) })).logEv 3 peer 1 0 0
      else s)

/-! ## Retraining of wavelengths (R424) -/

/-- BERHIGH: the wavelength retrains while the rest carry traffic, one of a fibre at a time. -/
def berhighStep (l wl : Nat) (s : State) : State :=
  match s.peer l with
  | none => s
  | some p =>
    let busy := (List.range 64).any (fun j => j / 16 == wl / 16 && p.retrain.getLsbD j)
    if p.carries && p.tx.getLsbD wl && !busy then
      let m := BitVec.ofNat 64 (2 ^ wl)
      let s := s.modPeer l (fun x => { x with retrain := x.retrain ||| m, tries := NMap.set 0 x.tries wl 0 })
      (exclude l m s).logEv 4 l 0 0 0
    else s

/-- BERHIGH (R424). -/
def execBerhigh (peer wl : Nat) (s : State) : Host.Outcome State Fault Refusal := .next (berhighStep peer wl s)

/-- A retraining of a wavelength fails, the first or the second of three (R424). -/
def retryStep (l wl : Nat) (s : State) : Option State :=
  match s.peer l with
  | none => none
  | some p =>
    if p.carries && p.retrain.getLsbD wl && decide (NMap.get 0 p.tries wl < 2) then
      some (s.modPeer l (fun x => { x with tries := NMap.set 0 x.tries wl (NMap.get 0 x.tries wl + 1) }))
    else none

/-- WLBACK (R424): the wavelength returns at a flit boundary. -/
def execWlback (peer wl : Nat) (s : State) : Host.Outcome State Fault Refusal :=
  .next (match s.peer peer with
    | none => s
    | some p =>
      if p.carries && p.excluded.getLsbD wl then
        let m := BitVec.ofNat 64 (2 ^ wl)
        (s.modPeer peer (fun x => { Peer.settleLink { x with
            tx := x.tx ||| m, excluded := x.excluded &&& ~~~m, retrain := x.retrain &&& ~~~m, tries := NMap.set 0 x.tries wl 0 } with
          striped := true })).logEv 5 peer 0 0 (NMap.get 0 p.tries wl + 1)
      else s)

/-- WLDEAD (R424): three retrainings have failed; the wavelength stays excluded. -/
def execWldead (peer wl : Nat) (s : State) : Host.Outcome State Fault Refusal :=
  .next (match s.peer peer with
    | none => s
    | some p =>
      if p.carries && p.retrain.getLsbD wl then
        let m := BitVec.ofNat 64 (2 ^ wl)
        (s.modPeer peer (fun x => { x with
          dead := x.dead ||| m, excluded := x.excluded &&& ~~~m, retrain := x.retrain &&& ~~~m
          tries := NMap.set 0 x.tries wl 3 })).logEv 6 peer 0 0 3
      else s)

/-! ## Training (R422, R28) -/

/-- The spare fibres of a configuration (R415). -/
def State.spareFibres (s : State) : List Nat := if s.devs ≤ 8 then [28, 29, 30, 31] else [30, 31]

/-- The first failed fibre of a direction takes a spare one's place. -/
def giveFibre (n : Nat) (fib : List Nat) (lost : BitVec 4) : Option (List Nat × BitVec 4) :=
  ((List.range fib.length).find? lost.getLsbD).map (fun j => (fib.set j n, lost &&& ~~~BitVec.ofNat 4 (2 ^ j)))

/-- Hearth assigns a spare fibre to a link that retrains: in each direction in which a fibre of the link has failed and the spare
is free, it takes the place of that fibre (R28, R415). -/
def assignSpare (l n : Nat) (s : State) : State :=
  match s.peer l with
  | none => s
  | some p =>
    let tx := if s.peers.any (fun q => q.2.txFib.contains n) then none else giveFibre n p.txFib p.txLost
    let rx := if s.peers.any (fun q => q.2.rxFib.contains n) then none else giveFibre n p.rxFib p.rxLost
    let s := s.modPeer l (fun x => { x with
      txFib := (tx.map (·.1)).getD x.txFib, txLost := (tx.map (·.2)).getD x.txLost
      rxFib := (rx.map (·.1)).getD x.rxFib, rxLost := (rx.map (·.2)).getD x.rxLost })
    match tx, rx with
    | none, none => s
    | some _, none => s.logEv 12 l 0 0 n
    | none, some _ => s.logEv 12 l 1 0 n
    | some _, some _ => s.logEv 12 l 2 0 n

/-- RETRAIN (R422): a FAILED link trains, LSEQ restarts, and Hearth may assign spare fibres: bit n of the operand is fibre n. -/
def execRetrain (peer spares : Nat) (s : State) : Host.Outcome State Fault Refusal :=
  .next (match s.peer peer with
    | none => s
    | some p =>
      if p.link = .failed then
        let s := s.modPeer peer (fun x => { x with
          link := .training, txLseq := 0, rxLseq := 0, replay := [], resends := 0, nakSent := false, excluded := 0, retrain := 0
          dead := 0, tries := [], attempts := 0 })
        (s.spareFibres.filter (fun n => spares.testBit n)).foldl (fun s n => assignSpare peer n s) s
      else s)

/-- The fibres of a link, of those it has, none of whose wavelengths stands in a mask. -/
def Peer.unlit (p : Peer) (m : BitVec 64) : BitVec 4 := darkFibres (p.full &&& ~~~m)

/-- A training attempt of a link fails, the first or the second of three (R422). -/
def attemptStep (l : Nat) (s : State) : Option State :=
  match s.peer l with
  | none => none
  | some p =>
    if p.link == .training && decide (p.attempts < 2) then some (s.modPeer l (fun x => { x with attempts := x.attempts + 1 })) else none

/-- TRAINED (R422): at least eight of the link's wavelengths carry flits; routes come back. -/
def execTrained (peer : Nat) (mask : BitVec 64) (s : State) : Host.Outcome State Fault Refusal :=
  .next (match s.peer peer with
    | none => s
    | some p =>
      let m := mask &&& p.full
      if p.link = .training ∧ s.fabricOn ∧ 8 ≤ active64 m then
        let s := s.modPeer peer (fun p => { p with
          link := if m == p.full then .up else .narrow, tx := m, rx := m, txLseq := 0, rxLseq := 0, replay := []
          sending := m, txIndex := 0, rxIndex := 0, rxDark := 0, excluded := p.full &&& ~~~m
          txLost := p.unlit m, rxLost := p.unlit m, attempts := p.attempts + 1 })
        let s := payCredit peer (s.logEv 1 peer 2 0 (p.attempts + 1))
        s.peers.foldl (fun s q => routeBack q.1 s) s
      else s)

/-- TRAINFAIL (R422, R436): three attempts have failed, and the link enters FAILED. -/
def execTrainfail (peer : Nat) (s : State) : Host.Outcome State Fault Refusal :=
  .next (match s.peer peer with
    | none => s
    | some p =>
      if p.link = .training then
        linkFail peer ((s.modPeer peer (fun x => { x with attempts := 3 })).logEv 2 peer 2 0 3)
      else s)

/-! ## UNREACHABLE and RESYNC (R430) -/

/-- UNREACHABLE: every packet to the peer that is not DONE ends INDETERMINATE. -/
def execUnreachable (peer : Nat) (s : State) : Host.Outcome State Fault Refusal :=
  .next (match s.peer peer with
    | none => s
    | some x =>
      if x.reach = .noroute ∧ (s.route peer).isNone then
        let s := s.modPeer peer (fun y => { y with reach := .unreachable, out := [], waits := [], reserved := [] })
        (x.out.foldl (fun s o => packetOver o.pkt 7 [] s) s).logEv 10 peer 2 0 x.out.length
      else s)

/-- RESYNC: a new epoch; nothing of the old one is performed any more. The side that was not without a route takes part too, and its packets of
the old epoch that are not DONE end INDETERMINATE (R429, notes/assumptions/116.md). -/
def execResync (peer : Nat) (s : State) : Host.Outcome State Fault Refusal :=
  .next (match s.peer peer with
    | none => s
    | some x =>
      if x.reach ≠ .unreachable ∧ x.reach ≠ .noroute ∧ (s.route peer).isSome then
        let mine (p : Packet) : Bool := uv p.head.src == peer
        let s := { s with
          parked := s.parked.filter (fun y => !mine y.pkt)
          channels := Tbl.mapVals (fun _ (c : Channel) => if c.src == peer then { c with pkts := [], skip := none } else c) s.channels
          rounds := (Tbl.mapVals (fun _ (r : RedRound) => { r with parts := r.parts.filter (fun c => c.src != peer) }) s.rounds).filter
            (fun r => !r.2.parts.isEmpty) }
        let s := s.modPeer peer (fun y => { y with
          epoch := y.epoch + 1, nextPseq := 0, expPseq := 0, held := [], part := [], given := [], allow := [], owed := [], sizes := []
          reserved := [], waits := [], out := y.out.filter (fun o => !o.sent), reach := if y.carries then .direct else .detour })
        let s := (x.out.filter (·.sent)).foldl (fun s o => packetOver o.pkt 7 [] s) s
        (s.logEv 11 peer 2 0 (uv (x.epoch + 1))).flush peer
      else s)

/-- The link between a relay and another device begins or ceases to carry flits: pairs that it served take another route, or have one again
(R425, R430). -/
def farStep (j q : Nat) (up : Bool) (s : State) : Option State :=
  match s.peer j with
  | none => none
  | some x =>
    if x.far.getLsbD q == up || decide (16 ≤ q) then none
    else
      let used := s.route q == some j && q != j
      let m := BitVec.ofNat 16 (2 ^ q)
      let s := s.modPeer j (fun x => { x with far := if up then x.far ||| m else x.far &&& ~~~m })
      some (if up then routeBack q s else if used then reroute q s else s)

/-! ## Commands -/

/-- RUNBIND (R432): maps a peer's virtual function to this one. -/
def execRunbind (box vf peer peerVf : Nat) (s : State) : Host.Outcome State Fault Refusal :=
  .next (vfCommand box vf s (fun s =>
    if s.devs ≤ peer ∨ 16 ≤ peerVf ∨ peer = s.dev ∨ ((s.ctx vf).map (·.st)).getD .free = .free then s.answer box .ctxbadarg
    else (s.modPeer peer (fun p => { p with bind := Tbl.put p.bind peerVf vf })).answer box .ok))

/-- The 32 bytes of an event record (R435). -/
def EvRec.bytes (e : EvRec) : List Byte :=
  bytesOf 8 e.time ++ bytesOf 1 e.code ++ bytesOf 1 e.peer ++ bytesOf 1 e.dir ++ bytesOf 1 e.active ++ bytesOf 1 e.vf ++
  bytesOf 3 0 ++ bytesOf 8 (uv e.mask) ++ bytesOf 4 e.count ++ bytesOf 4 e.lost

/-- EVTREAD (R435): returns the event records, which leave the ring. -/
def execEvtread (s : State) : Host.Outcome State Fault Refusal :=
  .next (if s.awaits 16 then s else State.answer { s with evring := [] } 16 .ok (s.evring.flatMap EvRec.bytes))

end Sys2Proof.Machine
end

