-- ==== Sys2Proof/Machine/Control.lean ====
section
/-! DEFINITION. The meanings of majors 0x30 to 0x33 and 0x3E but EXIT: branches, calls, the mask stack, system registers
and the trap words (spec/10_isa_control.md, spec/24_traps.md). -/
namespace Sys2Proof.Machine

/-! ## Transfers -/

/-- The target of a branch word (R64). -/
def branchTarget (s : State) (o : BitVec 21) : Word := s.chain.wordPc + o.signExtend 32 * 4

/-- The wave goes on at a target. An illegal one raises BADTGT after the branching chain has completed, with the
branch's own PC (R57). -/
def jumpTo (n : Nat) (src : Wave) (target : Word) (s : State) : State :=
  if legalTarget s src target then s.modWave n (fun w => { w with pc := target })
  else deliver n 1 target s.chain.wordPc 0 s

/-- The active cells in which a predicate is true. -/
def predMask (w : Wave) (p : Nat) : Mask := maskOf ((cellsOf w.active).filter (fun f => w.getP f p))

def MaskEntry.isSplit : MaskEntry → Bool
  | .split _ _ => true
  | .path _ _ => false

/-- With no active cell and an open split, the PC becomes the rpc of the innermost split entry (R208). DESIGN CHOICE: this follows the
chain that empties the mask (EXIT, or the MERGE that closes a split); a word other than MERGE at rpc issues with no active cell and the
wave goes on behind it (notes/assumptions/22.md). -/
def Wave.settleMask (w : Wave) : Wave :=
  if w.active == 0 then
    match w.ms.find? MaskEntry.isSplit with
    | some (.split rpc _) => { w with pc := rpc }
    | _ => w
  else w

/-- A per-cell condition that differs across the active cells. -/
def mixed (w : Wave) (p : Nat) : Bool := predMask w p != w.active && predMask w p != 0

/-- The checks of BRA (R207). -/
def braGate (c : BitVec 4) (w : Wave) : Gate :=
  if c.getLsbD 3 then .ok
  else if mixed w c.toNat && (!w.ms.any MaskEntry.isSplit || decide (32 ≤ w.ms.length)) then .trap 8 0 else .ok

/-- The effect of BRA (R205, R207). -/
def braEffect (c : BitVec 4) (o : BitVec 21) (n : Nat) (w : Wave) (s : State) : State :=
  let target := branchTarget s o
  if c.getLsbD 3 then (if w.getK (c.toNat - 8) then jumpTo n w target s else s)
  else
    let t := predMask w c.toNat
    if t == w.active then jumpTo n w target s
    else if t == 0 then s
    else s.modWave n (fun x => { x with ms := .path target t :: x.ms, active := w.active &&& ~~~t })

/-- What MERGE finds: an empty or mismatched stack, a path to switch to, or the split that it closes. Emptied paths
pop in the same step (R207, R208). -/
inductive MergeStep where
  | bad | path (pc : Word) (m : Mask) (rest : List MaskEntry) | close (saved : Mask) (rest : List MaskEntry)
deriving DecidableEq, Repr

def mergeStep (pc : Word) : List MaskEntry → MergeStep
  | [] => .bad
  | .path q m :: rest => if m == 0 then mergeStep pc rest else .path q m rest
  | .split rpc saved :: rest => if rpc == pc then .close saved rest else .bad

/-- The effect of MERGE. DESIGN CHOICE: the target of a diverging BRA is checked here, at the MERGE that switches to its path, with the
MERGE's PC recorded (notes/assumptions/22.md). -/
def mergeEffect (n : Nat) (w : Wave) (s : State) : State :=
  match mergeStep s.chain.wordPc w.ms with
  | .bad => s
  | .path q m rest => jumpTo n w q (s.modWave n (fun x => { x with ms := rest, active := m }))
  | .close saved rest => s.modWave n (fun x => { x with ms := rest, active := saved &&& w.live }.settleMask)

/-- The checks of CALL (R205). -/
def callGate (k : KReg) (w : Wave) : Gate := if w.getK k.toNat && decide (16 ≤ w.cs.length) then .trap 9 0 else .ok

/-- The checks of RET (R205). -/
def retGate (w : Wave) : Gate :=
  match w.cs with
  | [] => .trap 9 0
  | e :: _ => if w.ms.length = e.ms then .ok else .trap 8 0

/-! ## System registers (R212, R213) -/

/-- Word k of a mask register. -/
def maskWord (h : Header) (m : Mask) (k : Nat) : Word :=
  if h.lanes * h.depth ≤ 32 * k then 0 else BitVec.ofNat 32 (uv m / 2 ^ (32 * k))

/-- The cycles of the context's clock as it is read now: those of the last reading, and the cycles since. -/
def State.clockNow (s : State) (vf : Nat) : Nat := ((s.ctx vf).map (·.clock)).getD 0 + Config.cycles s.tick

/-- Time: retired words in deterministic mode, else the clock's cycles since the context started, one count of 64 bits. -/
def timeOf (s : State) (w : Wave) : BitVec 64 :=
  if (s.hdr w.kern).det then w.time else BitVec.ofNat 64 (s.clockNow (s.kernVf w.kern))

/-- The number of a core within the partition of a context (spec/23_context.md R389). -/
def State.relCore (s : State) (vf core : Nat) : Nat :=
  let part := ((s.ctx vf).map (·.part)).getD 0
  80 * ((List.range (core / 80)).filter part.getLsbD).length + core % 80

/-- SysReg(r, k). -/
def sysReg (s : State) (w : Wave) (r k : Nat) : Word :=
  let h := s.hdr w.kern
  match r with
  | 0 => w.step
  | 1 => maskWord h w.live k
  | 2 => maskWord h w.active k
  | 3 => BitVec.ofNat 32 w.ms.length
  | 4 => BitVec.ofNat 32 w.cs.length
  | 5 => w.wcause.extractLsb' 0 32
  | 6 => w.wcause.extractLsb' 32 32
  | 7 => w.trappc
  | 8 => (w.skid ++ w.resume).setWidth 32
  | 9 => w.traparg
  | 10 => s.handler w
  | 11 => (BitVec.ofBool s.dbgatt ++ BitVec.ofBool w.hmode ++ BitVec.ofBool h.det).setWidth 32
  | 12 => if h.det then BitVec.ofNat 32 w.qcount else 0
  | 13 => (timeOf s w).extractLsb' 0 32
  | 14 => (timeOf s w).extractLsb' 32 32
  | 15 => if h.det then 0xFFFFFFFF else BitVec.ofNat 32 (s.relCore (s.kernVf w.kern) (((s.team w.team).map (·.core)).getD 0))
  | _ => BitVec.ofNat 32 s.dev

/-! ## Meanings: transfers -/

/-- BRA (R205, R207): branch on a K or P condition, diverging the wave when mixed. -/
def execBra (c : BitVec 4) (o : BitVec 21) (s : State) : Host.Outcome State Fault Refusal :=
  issue (.bra c o) s (fun _ w _ => braGate c w) (braEffect c o)

/-- CALL (R205): conditional call pushing the call stack. -/
def execCall (k : KReg) (o : BitVec 21) (s : State) : Host.Outcome State Fault Refusal :=
  issue (.call k o) s (fun _ w _ => callGate k w) (fun n w s' =>
    if w.getK k.toNat then
      jumpTo n w (branchTarget s' o) (s'.modWave n (fun x => { x with cs := ⟨s'.chain.wordPc + 4, x.ms.length⟩ :: x.cs }))
    else s')

/-- SPLIT (R207): pushes a split entry naming the reconvergence point. -/
def execSplit (o : BitVec 21) (s : State) : Host.Outcome State Fault Refusal :=
  issue (.split o) s (fun _ w _ => if 32 ≤ w.ms.length then .trap 8 0 else .ok) (fun n w s' =>
    s'.modWave n (fun x => { x with ms := .split (branchTarget s' o) w.active :: x.ms }))

/-- JMP (R205): jumps to a byte offset from an S register or literal. -/
def execJmp (b : UOp) (s : State) : Host.Outcome State Fault Refusal :=
  issue (.jmp b) s free (fun n w s' => jumpTo n w (b.val w) s')

/-- RET (R205): returns from a call, checking depths. -/
def execRet (s : State) : Host.Outcome State Fault Refusal :=
  issue .ret s (fun _ w _ => retGate w) (fun n w s' =>
    match w.cs with
    | [] => s'
    | e :: rest => jumpTo n w e.ret (s'.modWave n (fun x => { x with cs := rest })))

/-- MERGE (R207, R208): pops a path or split entry and restores the active mask. -/
def execMerge (s : State) : Host.Outcome State Fault Refusal :=
  issue .merge s (fun _ w s => if mergeStep s.chain.wordPc w.ms == .bad then .trap 8 0 else .ok) mergeEffect

/-- YIELD (R210): only the PC moves; the issue itself places the wave last in age order. -/
def execYield (s : State) : Host.Outcome State Fault Refusal := issue .yield s free (fun _ _ s' => s')

/-- NOP (spec/04_opcode_map.md R80): changes no state other than the PC. -/
def execNop (s : State) : Host.Outcome State Fault Refusal := issue .nop s free (fun _ _ s' => s')

/-! ## Meanings: system registers and traps -/

/-- SYSR (R214): reads a system register into an S register. TIME in throughput mode moves the context's clock on to the reading (R213,
notes/assumptions/7.md). -/
def execSysr (d : SReg) (r : BitVec 6) (b : Option UOp) (s : State) : Host.Outcome State Fault Refusal :=
  issue (.sysr d r b) s free (fun n w s' =>
    let s'' := s'.modWave n (fun x => x.setS d.toNat (sysReg s w r.toNat (b.elim 0 (fun u => uv (u.val w)))))
    if (r == 13 || r == 14) && !(s.hdr w.kern).det then
      { s''.modCtx (s.kernVf w.kern) (fun c => { c with clock := s.clockNow (s.kernVf w.kern) }) with tick := s''.tick + 1 }
    else s'')

/-- The check of the words that only the handler may issue (R214, R215). -/
def handlerOnly (w : Wave) : Gate := if w.hmode then .ok else .trap 11 0

/-- SYSW TRAPPC (R214): writes TRAPPC in handler mode. -/
def execSyswTrappc (b : UOp) (s : State) : Host.Outcome State Fault Refusal :=
  issue (.syswTrappc b) s (fun _ w _ => handlerOnly w) (fun n w s' =>
    s'.modWave n (fun x => { x with trappc := b.val w }))

/-- SYSW TRAPRES (R214): writes the resume mask in handler mode. -/
def execSyswTrapres (b : UOp) (s : State) : Host.Outcome State Fault Refusal :=
  issue (.syswTrapres b) s (fun _ w _ => handlerOnly w) (fun n w s' =>
    s'.modWave n (fun x => { x with resume := (b.val w).extractLsb' 0 3 }))

/-- TRAP (R215): raises SWTRAP with a code and enters the handler. -/
def execTrap (b : UOp) (s : State) : Host.Outcome State Fault Refusal :=
  issue (.trap b) s free (fun n w s' => deliver n 21 (b.val w) s'.chain.pc 0 s')

/-- The checks of TRET in the order of R215: handler mode, the depths, and, when no fault bit is set, TRAPPC. -/
def tretGate (s : State) (w : Wave) : Gate :=
  if !w.hmode then .trap 11 0
  else if w.ms.length ≠ w.entryMS ∨ w.cs.length ≠ w.entryCS then .trap 8 0
  else if w.wcause.extractLsb' 0 48 ≠ 0 then .ok
  else if legalTarget s w w.trappc then .ok
  else .trap 1 w.trappc

/-- The effect of TRET: the handler again while a fault bit is set; else the wave leaves handler mode, at the recorded
chain with the marked words or at the chain after it, and the team restarts when no wave is in the handler. -/
def tretEffect (n : Nat) (w : Wave) (s : State) : State :=
  if w.wcause.extractLsb' 0 48 ≠ 0 then s.modWave n (fun x => { x with pc := s.handler w })
  else
    resumeTeam w.team (s.modWave n (fun x =>
      if w.resume = 0 then x.leave (afterChain s w w.trappc) 0 else x.leave w.trappc w.resume))

/-- TRET (R215, R412): checks and leaves handler mode, re-issuing or continuing. -/
def execTret (s : State) : Host.Outcome State Fault Refusal :=
  issue .tret s (fun _ w s => tretGate s w) tretEffect

/-- CAUSEC (R215): reads and clears one WCAUSE bit. -/
def execCausec (d : SReg) (b : UOp) (s : State) : Host.Outcome State Fault Refusal :=
  issue (.causec d b) s free (fun n w s' =>
    let i := uv (b.val w) % 64
    s'.modWave n (fun x => { x.setS d.toNat (if w.wcause.getLsbD i then 1 else 0) with
      wcause := x.wcause &&& ~~~(BitVec.ofNat 64 (2 ^ i)) }))

/-- BKPT (R215): halts for a debugger or raises BRKPT; in handler mode it escalates (spec/24_traps.md R412). A LAUNCH that waits
reads its packet again after the debugger's halt (spec/16_kernel.md R310). -/
def execBkpt (i : BitVec 6) (s : State) : Host.Outcome State Fault Refusal :=
  issue (.bkpt i) s free (fun n w s' =>
    if s'.dbgatt && !w.hmode then
      let s' := s'.modWave n (fun x => { x with traparg := i.signExtend 32 })
      let s' := { s' with waves := Tbl.mapVals (fun _ (x : Wave) =>
        if x.team == w.team then { x with hold := x.hold.map (fun (h : Hold) => { h with pkt := [] }) } else x) s'.waves }
      State.freeze (s'.modTeam w.team (fun t => { t with haltD := true })) w.team
    else deliver n 22 (i.signExtend 32) s'.chain.pc 0 s')

end Sys2Proof.Machine
end

