-- ==== Sys2Proof/Machine/Lattice.lean ====
section
/-! DEFINITION. STEP and EXIT, and the holding of waves on an oversubscribed core (spec/06_cell.md R123-R139,
spec/10_isa_control.md R211). -/
namespace Sys2Proof.Machine

/-- The wait of STEP and EXIT (R123, R124, R129). -/
def stepWait (s : State) (w : Wave) : Gate := (s.setStand w (nbrSet (s.hdr w.kern) w)).gate

/-- A published register of the wave is still to be written: STEP and EXIT read it and wait for it (spec/01_device.md R14). -/
def pubPending (s : State) (w : Wave) : Bool :=
  w.pend.any (fun p => match p.1 with
    | .v n => (s.hdr w.kern).isPub n
    | _ => false)

/-- The checks of STEP (R137, R138, R412). -/
def stepGate (s : State) (w : Wave) : Gate :=
  if w.hmode then .trap 11 0
  else if !w.ms.isEmpty then .trap 10 0
  else if pubPending s w then .pend
  else stepWait s w

/-- The published registers of cells go into a bank. -/
def Wave.publish (w : Wave) (h : Header) (bank : Nat) (cells : List Nat) : Wave :=
  cells.foldl (fun w f => h.pubs.foldl (fun w v => w.setBank f v bank (w.getV f v)) w) w

/-- The effect of STEP: the banks, the step count, the notices, and HOLD on an oversubscribed core. -/
def stepEffect (n : Nat) (w : Wave) (s : State) : State :=
  let h := s.hdr w.kern
  let k := uv w.step
  let cells := cellsOf w.live
  let s := s.modWave n (fun x => { x.publish h (k % 2) cells with step := w.step + 1 })
  match s.wave n with
  | none => s
  | some x =>
    let s := sendHalo x k (uv x.step) (k % 2) false false 0 cells s
    let s := if mustHold s x then s.modWave n (fun y => { y with st := .held }) else s
    releaseHeld s

/-- STEP (R137): commits published registers and advances the step count. -/
def execStep (s : State) : Host.Outcome State Fault Refusal := issue .step s (fun _ w s => stepGate s w) stepEffect

/-- The checks of EXIT (R211). -/
def exitGate (s : State) (w : Wave) : Gate :=
  if w.hmode then .trap 11 0 else if pubPending s w then .pend else stepWait s w

/-- The mask stack without cells that have exited (R208). -/
def MaskEntry.without (m : Mask) : MaskEntry → MaskEntry
  | .split rpc saved => .split rpc (saved &&& ~~~m)
  | .path pc mask => .path pc (mask &&& ~~~m)

/-- The effect of EXIT: the active cells publish and are EXITED; with no live cell left the wave is done once nothing that
it issued is outstanding. -/
def exitEffect (n : Nat) (w : Wave) (s : State) : State :=
  let h := s.hdr w.kern
  let e := uv w.step
  let cells := cellsOf w.active
  let live := w.live &&& ~~~w.active
  let s := s.modWave n (fun x =>
    let x := { x.publish h (e % 2) cells with
      exits := cells.foldl (fun t f => Tbl.put t f w.step) x.exits
      live := live, active := 0, ms := x.ms.map (MaskEntry.without w.active), whole := live == 0 }
    if live == 0 then { x with st := .draining } else x.settleMask)
  match s.wave n with
  | none => s
  | some x =>
    let s := if cells.isEmpty then s else sendHalo x e e (e % 2) true (live == 0) w.active cells s
    releaseHeld (settleWave n s)

/-- EXIT (R211): exits the active cells. -/
def execExit (s : State) : Host.Outcome State Fault Refusal := issue .exit s (fun _ w s => exitGate s w) exitEffect

end Sys2Proof.Machine
end

