-- ==== Sys2Proof/Machine/Save.lean ====
section
/-! DEFINITION. The memory-backed register file: images, the save area and its tags, and what another context's placement writes
to it (spec/23_context.md R396-R398). -/
namespace Sys2Proof.Machine

/-! ## Images -/

/-- A handle register in a context image (spec/14_handle.md R269). -/
def handleWord (w : Wave) (n : Nat) : Nat :=
  let h := w.getH n
  let q := w.seqAt h.seq
  let st := match h.st with
    | .retired => 0
    | .gated => 1
    | .opened => 2
  st + (if h.st == .retired then 0 else 4 * h.seq + (match q.tag with
    | some t => 2 ^ 14 * t + 2 ^ 24
    | none => 0))

/-- An I register: LEN, BASE and STRIDE from the top down (spec/07_isa_integer.md R156). -/
def incBytes (r : IncReg) : List Byte := bytesOf 4 (uv r.stride) ++ bytesOf 4 (uv r.base) ++ bytesOf 4 (uv r.len)

/-- A D register (spec/09_isa_memory.md R187). -/
def tileBytes (d : TileReg) : List Byte :=
  bytesOf 4 (uv d.base) ++ bytesOf 4 (uv d.pitch) ++ bytesOf 2 (uv d.rows) ++ bytesOf 2 (uv d.fmt)

/-- A C register (spec/18_copy.md R344). -/
def circBytes (c : CircReg) : List Byte :=
  bytesOf 4 c.base ++ bytesOf 4 c.slotb ++ bytesOf 1 c.slots ++ bytesOf 1 c.filp ++ bytesOf 1 c.takp ++ bytesOf 1 c.frep ++
  bytesOf 1 c.nfil ++ bytesOf 1 c.ntak ++ bytesOf 1 c.nres ++ bytesOf 1 0

/-- A wave's image: its H, I and D registers as the specification lays them out, then free bytes for what it gives no layout
(notes/assumptions/44.md). -/
def imageOf (h : Header) (w : Wave) (tick : Nat) : List Byte :=
  (List.range 16).flatMap (fun n => bytesOf 4 (handleWord w n)) ++ (List.range 8).flatMap (fun n => incBytes (w.getI n)) ++
  (List.range 8).flatMap (fun n => tileBytes (w.getD n)) ++ freeBytes tick (imageBytes h w - 256)

/-- The images of waves one after another, and the count of free values drawn. -/
def imagesOf (s : State) (ws : List Wave) (tick : Nat) : List Byte × Nat :=
  ws.foldl (fun a w =>
    let b := imageOf (s.hdr w.kern) w a.2
    (a.1 ++ b, a.2 + b.length)) ([], tick)

/-- The words of a pair's tiles. -/
def Pair.bytes (p : Pair) : List Byte :=
  if p.tiles.isEmpty then [] else (List.range 131072).flatMap (fun k => bytesOf 4 (uv (NMap.get 0 p.tiles k)))

/-! ## What a context holds on chip (R396) -/

/-- The team is on a core. -/
def Team.placed (t : Team) : Bool := t.st == .resident || t.st == .evicted

/-- Window bytes that a context has in use on a core. -/
def windowsOn (s : State) (vf core : Nat) : Nat :=
  ((s.teams.filter (fun p => p.2.vf == vf && p.2.core == core && (p.2.placed || (p.2.st == .ended && windowRead s p.1)))).map
    (fun p => (s.hdr p.2.kern).window)).sum

/-- The waves of a context's teams whose images stand on a core. -/
def imagesOn (s : State) (vf core : Nat) : List Wave :=
  (s.waves.filter (fun w => ((s.team w.2.team).map (fun t => t.vf == vf && t.core == core && t.st == .resident)).getD false)).map (·.2)

/-- Cells of a kernel on one device. -/
def Header.localCells (h : Header) : Nat := 2 ^ (h.widths.take 5).sum

/-- Bytes of a die's halo store that a kernel needs: for each cell of another device that the die's cells read, and for each of
its own cells, which could be evicted until its team is placed (R128). -/
def haloNeeds (dev : Nat) (k : Kernel) (die : Nat) : Nat :=
  let h := k.hdr
  let low := h.localCells
  let base := if h.width 5 = 0 then 0 else dev * low
  let mine := ((List.range low).map (fun c => base + c)).filter (fun c => k.dieAt c == die)
  let far (c : Nat) : List Nat := [0, 1, 2].flatMap (fun ax => [false, true].filterMap (fun p =>
    if (h.axisFields ax).isEmpty then none
    else match h.neighbour c ax p with
      | .cell n => if h.onDev dev n then none else some n
      | _ => none))
  8 * h.pubs.length * ((mine.flatMap far).eraseDups.length + mine.length)

/-- The bytes of what a context holds; halo stores have no layout. -/
def linesOf (s : State) (vf : Nat) (x : OnChip) (tick : Nat) : List Byte × Nat :=
  match x with
  | .images core => imagesOf s (imagesOn s vf core) tick
  | .windows core =>
    ((s.teams.filter (fun t => t.2.vf == vf && t.2.placed && t.2.core == core)).flatMap (fun t =>
      t.2.read 0 (s.hdr t.2.kern).window ++ (List.range 8).flatMap (fun c => circBytes (NMap.get {} t.2.cbufs c))), tick)
  | .tiles pair => (((Tbl.find s.pairs (160 * vf + pair)).getD {}).bytes, tick)
  | .halo die =>
    let n := ((s.kernels.filter (fun k => k.2.vf == vf)).map (fun k =>
      (((Tbl.find k.2.halo die).getD []).map (fun x => 16 + 8 * x.2.bank.length)).sum)).sum
    (freeBytes tick n, tick + n)

/-- The bytes of a store: registers and windows of a core, the tiles of a pair, a die's reservation of halo store (R131, R128). -/
def OnChip.size : OnChip → Nat
  | .images _ => 262144
  | .windows _ => 1572864
  | .tiles _ => 524288
  | .halo _ => Config.haloBytes

/-- The bytes of a store that a context has in use: none once they stand in its save area. -/
def State.usedBy (s : State) (vf : Nat) (x : OnChip) : Nat :=
  if ((s.ctx vf).map (fun c => c.saved.contains x)).getD true then 0
  else match x with
  | .images core => ((imagesOn s vf core).map (fun w => imageBytes (s.hdr w.kern) w)).sum
  | .windows core => windowsOn s vf core
  | .tiles pair => if ((Tbl.find s.pairs (160 * vf + pair)).getD {}).tiles.isEmpty then 0 else 524288
  | .halo die => ((s.kernels.filter (fun k => k.2.vf == vf && k.2.st.runs)).map (fun k => haloNeeds s.dev k.2 die)).sum

/-! ## Units and tags (R397) -/

/-- Bytes as units of 4 KiB, the last filled with zeros. -/
def unitsOf (bs : List Byte) : List (List Byte) :=
  (List.range ((bs.length + 4095) / 4096)).map (fun i =>
    let u := (bs.drop (4096 * i)).take 4096
    u ++ List.replicate (4096 - u.length) 0)

/-- The tag of a unit: the first 64 bits of SHAKE256 over the context key, VF, SAVEGEN, the physical address and the bytes
(notes/assumptions/90.md). -/
def tagOf (key : List Byte) (vf : Nat) (savegen : Word) (pa : Nat) (bs : List Byte) : BitVec 64 :=
  BitVec.ofNat 64 (natOf ((Config.shake256 (key ++ bytesOf 1 vf ++ bytesOf 4 (uv savegen) ++ bytesOf 8 pa ++ bs)).take 8))

/-! ## The save area (R396) -/

/-- The units of a save area's frames, in their order. -/
def areaUnits (area : List Nat) : List Nat := area.flatMap (fun f => (List.range 16).map (fun i => 65536 * f + 4096 * i))

/-- Frames that are given out: to the second stages, to pages that migrate, and to save areas. -/
def State.framesUsed (s : State) : List Nat := s.ctxs.flatMap (fun c => c.2.frames ++ c.2.dests ++ c.2.area)

/-- Free frames of a partition's pool, at most n of them; which ones Hearth takes is the model's choice
(notes/assumptions/91.md). -/
def State.freeFrames (s : State) (part : BitVec 4) (n : Nat) : List Nat :=
  let used := s.framesUsed
  (((List.range 192).filter (fun b => s.inPool part (32768 * b))).flatMap (fun b =>
    ((List.range (min 32768 (used.length + n))).map (fun i => 32768 * b + i)).filter (fun f => !used.contains f))).take n

/-- The save area of a context with room for more units. -/
def State.growArea (s : State) (c : Ctx) (units : Nat) : List Nat :=
  c.area ++ s.freeFrames c.part ((units + 15) / 16 - c.area.length)

/-- The first of a list of holders whose bytes make room for an excess. -/
def makeRoom : Nat → List (Nat × Nat) → List Nat
  | _, [] => []
  | n, (v, k) :: xs => if n = 0 then [] else v :: makeRoom (n - k) xs

/-- The PARKED contexts whose bytes of a store another context's placement needs: where that context is to have `own` bytes of it in use and
the store cannot hold them beside the others', so many of the others, in the order of the table, that it can (R396,
notes/assumptions/57.md). -/
def victims (s : State) (vf : Nat) (x : OnChip) (own : Nat) : List Nat :=
  let others := (s.ctxs.filter (fun c => c.1 != vf && c.2.st == .parked)).map (fun c => (c.1, s.usedBy c.1 x))
  makeRoom (own + (others.map (·.2)).sum - x.size) (others.filter (fun o => o.2 != 0))

/-- Write what a context holds in a store to its save area, each unit with its tag. -/
def State.saveLines (s : State) (v : Nat) (x : OnChip) : State :=
  match s.ctx v with
  | none => s
  | some c =>
    let (bs, tick) := linesOf s v x s.tick
    let us := unitsOf bs
    let area := s.growArea c (c.save.length + us.length)
    let at_ := ((areaUnits area).drop c.save.length).zip us
    let s := at_.foldl (fun s x => (List.range 32).foldl (fun s i => s.useLine v true (x.1 / 128 + i)) (s.setHbm x.1 x.2)) { s with tick := tick }
    s.modCtx v (fun c => { c with
      area := area, saved := c.saved ++ [x]
      save := c.save ++ at_.map (fun x => (x.1, tagOf c.key v c.savegen x.1 x.2)) })

/-- The save areas have room for what the needs of a context would evict. -/
def State.mayEvict (s : State) (vf : Nat) (needs : List (OnChip × Nat)) : Bool :=
  s.ctxs.all (fun c =>
    let xs := needs.filter (fun x => (victims s vf x.1 x.2).contains c.1)
    let n := c.2.save.length + (xs.map (fun x => (unitsOf (linesOf s c.1 x.1 s.tick).1).length)).sum
    xs.isEmpty || decide (n ≤ 16 * (s.growArea c.2 n).length))

/-- EVICT_SAVE: what PARKED contexts hold where a context needs the bytes goes to their save areas first. -/
def State.evictSave (s : State) (vf : Nat) (needs : List (OnChip × Nat)) : State :=
  needs.foldl (fun s x => (victims s vf x.1 x.2).foldl (fun s v => s.saveLines v x.1) s) s

/-- What a context needs on a core for its teams there, with `images` and `windows` more bytes. -/
def coreNeeds (s : State) (vf core images windows : Nat) : List (OnChip × Nat) :=
  [(.images core, ((imagesOn s vf core).map (fun w => imageBytes (s.hdr w.kern) w)).sum + images),
   (.windows core, windowsOn s vf core + windows), (.tiles (core / 2), 524288)]

/-- What a context that is restored needs for all that it had on chip. -/
def allNeeds (s : State) (vf : Nat) : List (OnChip × Nat) :=
  ((s.teams.filter (fun t => t.2.vf == vf && t.2.placed)).map (fun t => t.2.core)).eraseDups.flatMap (fun core => coreNeeds s vf core 0 0) ++
  (List.range 4).map (fun d =>
    (.halo d, ((s.kernels.filter (fun k => k.2.vf == vf && k.2.st.runs)).map (fun k => haloNeeds s.dev k.2 d)).sum))

/-- A unit of an image in HBM that fails its tag: the one at `first`, which is read first, or else the first of the others
(R398). -/
def State.badUnit (s : State) (vf : Nat) (c : Ctx) (first : Nat) : Option Nat :=
  let bad := c.save.filter (fun x => tagOf c.key vf c.savegen x.1 (s.hbm x.1 4096) != x.2)
  ((bad.find? (fun x => x.1 == first)).or bad.head?).map (·.1)

end Sys2Proof.Machine
end

