-- ==== Sys2Proof/Machine/Group.lean ====
section
/-! DEFINITION. The extended register pool, election, and where teams stand: ACQ, REL, ELECT, PLACE, EVICT and RELOAD
(spec/11_group.md R218-R227, R496, spec/06_cell.md R131-R135). -/
namespace Sys2Proof.Machine

/-! ## The pool -/

/-- The pool gives a set away. -/
def Team.give (n : Nat) (t : Team) : Team := { t with free := t.free - 1, reqs := t.reqs.filter (fun x => x != n) }

/-- The wave holds a set: V32 to V63 are 0 in every cell (R225). -/
def Wave.hold32 (w : Wave) : Wave := { w with ext := true, granted := false, v := w.v.filter (fun p => decide (p.1 % 64 < 32)) }

/-- A wave receives a set. DESIGN CHOICE: a set that makes the images of its core exceed the register store is given all the same, and
nothing is evicted for it (notes/assumptions/106.md). -/
def grant (n t : Nat) (s : State) : State := (s.modTeam t (·.give n)).modWave n (·.hold32)

/-- In deterministic mode the commit grants sets in ascending wave index (R232); each wave takes its own as its ACQ completes. -/
def grantAll (t : Nat) (s : State) : State :=
  match s.team t with
  | none => s
  | some tm =>
    ((sortBy (fun n => ((s.wave n).map (·.idx)).getD 0) tm.reqs).take tm.free).foldl
      (fun s n => (s.modTeam t (·.give n)).modWave n (fun w => { w with granted := true })) s

/-- The wave is first in the queue for a set, or would be, and a set is free. -/
def mayGrant (s : State) (n : Nat) (w : Wave) : Bool :=
  match s.team w.team with
  | none => false
  | some t => decide (0 < t.free) && (match t.reqs with
    | [] => true
    | r :: _ => r == n)

/-- The checks of ACQ. In deterministic mode the set comes at a round's commit. -/
def acqGate (n : Nat) (w : Wave) (s : State) : Gate :=
  if w.hmode then .trap 11 0
  else if w.ext then .trap 2 s.slotArg
  else if w.granted || (!(s.hdr w.kern).det && mayGrant s n w) then .ok else .wait []

/-- A wave that begins to wait in ACQ joins the queue, in deterministic mode through the commit stage (R231). -/
def acqJoin (n : Nat) (w : Wave) (s : State) : State :=
  let joined := match s.team w.team with
    | some t => t.reqs.contains n || t.stage.any (fun x => x.wave == n && x.k == EntryKind.acq)
    | none => true
  if joined then s
  else if (s.hdr w.kern).det then
    (s.modTeam w.team (fun t => { t with stage := t.stage ++ [(⟨n, 32, w.nextId, .acq⟩ : Staged)] })).modWave n
      (fun x => { x with nextId := x.nextId + 1 })
  else s.modTeam w.team (fun t => { t with reqs := t.reqs ++ [n] })

/-- ACQ (R225): waits for and takes an extended register set. -/
def execAcq (s : State) : Host.Outcome State Fault Refusal :=
  firstWait s acqJoin (issue .acq s acqGate (fun n w s' => if w.granted then s'.modWave n (·.hold32) else grant n w.team s'))

/-- A register V32 to V63 is still to be written. -/
def extPending (w : Wave) : Bool := w.pend.any (fun p => match p.1 with
  | .v i => decide (32 ≤ i)
  | _ => false)

/-- REL (R225): releases the extended register set; in deterministic mode the pool has it back at the commit. -/
def execRel (s : State) : Host.Outcome State Fault Refusal :=
  issue .rel s
    (fun _ w s => if !w.ext then .trap 2 s.slotArg else if extPending w then .pend else .ok)
    (fun n w s' =>
      let s' := raRelease n (cellsOf w.live) s'
      let s' := s'.modWave n (fun x => { x with ext := false, v := x.v.filter (fun p => decide (p.1 % 64 < 32)) })
      if (s.hdr w.kern).det then
        (s'.modTeam w.team (fun t => { t with stage := t.stage ++ [(⟨n, 32, w.nextId, .rel⟩ : Staged)] })).modWave n
          (fun x => { x with nextId := x.nextId + 1 })
      else s'.modTeam w.team (fun t => { t with free := t.free + 1 }))

/-! ## Election (R227) -/

/-- The lowest wave index of a team that has a live cell. -/
def elected (s : State) (t : Nat) : Option Nat :=
  ((s.teamWaves t).filter (fun p => p.2.live != 0)).foldl (fun m p => match m with
    | none => some p.2.idx
    | some i => some (min i p.2.idx)) none

/-- The wave may act for its team: elected, on a leader core, with an active cell. -/
def mayIssueMatrix (s : State) (w : Wave) : Bool :=
  elected s w.team == some w.idx && s.coreOf w % 2 == 0 && w.active != 0

/-- ELECT (R227): tests whether the wave is the elected one. -/
def execElect (d : KReg) (s : State) : Host.Outcome State Fault Refusal :=
  issue (.elect d) s free (fun n w s' => s'.modWave n (fun x => x.setK d.toNat (mayIssueMatrix s w)))

/-! ## Placement -/

/-- The choice of a core keeps the bounds of R496 for every team of the kernel that has been placed, an ENDED one too: bands on one
cluster, die groups on one die, and no two bands of one die group of at most 20 bands on one cluster. -/
def keepsGroups (s : State) (h : Header) (k idx core : Nat) : Bool :=
  s.teams.all (fun p =>
    let t := p.2
    if t.kern != k || t.st == .pending || h.dieGroup t.idx != h.dieGroup idx then true
    else if h.band t.idx == h.band idx then t.core / 4 == core / 4
    else t.core / 80 == core / 80 && (decide (20 < 2 ^ h.width 3) || t.core / 4 != core / 4))

/-- Bytes of a team's images. -/
def teamImages (s : State) (t : Nat) : Nat := ((s.teamWaves t).map (fun p => imageBytes (s.hdr p.2.kern) p.2)).sum

/-- The images of the resident teams of a core, and of one more team, fit (R131). -/
def fitsOn (s : State) (core t : Nat) : Bool :=
  decide (((s.waves.filter (fun p => p.2.team == t || (match s.team p.2.team with
    | some tm => tm.core == core && tm.st == .resident && !tm.haltP
    | none => false))).map (fun p => imageBytes (s.hdr p.2.kern) p.2)).sum ≤ 262144)

/-- What the placement of a team on a core needs there: its window, its images where they fit, and the tiles of the pair. -/
def placeNeeds (s : State) (vf t core : Nat) : List (OnChip × Nat) :=
  coreNeeds s vf core (if fitsOn s core t then teamImages s t else 0) (((s.team t).map (fun x => (s.hdr x.kern).window)).getD 0)

/-- A team may be placed on a core (R218, R221, R131, R496): on the die that dispatch chose for its die group. -/
def mayPlace (s : State) (k t core : Nat) : Bool :=
  match s.team t, s.kern k with
  | some tm, some kn =>
    let h := kn.hdr
    match s.ctx kn.vf with
    | none => false
    | some c =>
      tm.kern == k && tm.st == .pending && kn.st == .dispatching && (c.st == .running || c.st == .yielding) &&
      decide (core < 320) && c.part.getLsbD (core / 80) && kn.dies.getD (h.dieGroup tm.idx % 2 ^ h.width 4) 0 == core / 80 && ((s.dies[core / 80]?).map (fun d => !d.held)).getD false &&
      (!h.leader || core % 2 == 0) && decide (windowsOn s kn.vf core + h.window ≤ 1572864) &&
      keepsGroups s h k tm.idx core && s.mayEvict kn.vf (placeNeeds s kn.vf t core)
  | _, _ => false

/-- The window image at entry (spec/16_kernel.md R296). -/
def spadBytes (s : State) (kn : Kernel) : List Byte :=
  if kn.hdr.spadimg = 0 then [] else (s.vread kn.vf kn.hdr.spadimg kn.hdr.spadlen).getD []

/-- PLACE: the team stands on the core with its window loaded; it is EVICTED at once when its core cannot hold its images.
The last team placed makes the kernel RUNNING. -/
def placeTeam (k t core : Nat) (s : State) : State :=
  match s.kern k with
  | none => s
  | some kn =>
    let bs := spadBytes s kn
    let s := s.evictSave kn.vf (placeNeeds s kn.vf t core)
    let s := s.modTeam t (fun tm => { tm with core := core, st := .resident, win := writeBytes 0 [] 0 bs })
    let full := s.oversubscribed kn.vf core
    let s := if full then s.modTeam t (fun tm => { tm with st := .evicted }) else
      { s with waves := Tbl.mapVals (fun _ w => if w.team == t then { w with st := .ready, age := 0 } else w) s.waves }
    if s.teams.any (fun p => p.2.kern == k && p.2.st == .pending) then s
    else s.modKern k (fun x => { x with st := .running })

/-! ## Eviction -/

/-- The wave stands at a STEP that R123 stalls now. -/
def atStep (s : State) (w : Wave) : Bool :=
  w.st == .stalled && s.setStand w (nbrSet (s.hdr w.kern) w) == .behind && (match fetch s w w.pc with
    | .chain [p] _ => p.i == some .step
    | _ => false)

/-- A remote atomic whose drain needs the token (R233, spec/26_fabric_ops.md R453). -/
def RemOp.needsToken (r : RemOp) : Bool := r.col == 3 && (r.ret || decide (8 ≤ r.aop && r.aop ≤ 10))

/-- The operation is a remote atomic that needs the token. -/
def Op.needsToken (o : Op) : Bool :=
  match o.k with
  | .remote r => r.needsToken
  | _ => false

/-- A staged effect drains only under the token (R233). -/
def Staged.needsToken (s : State) (x : Staged) : Bool :=
  match x.k with
  | .access a => (match a.kind with
    | .atom op => op.isFloat
    | _ => false)
  | .remote i => ((s.op i).map (·.needsToken)).getD false
  | _ => false

/-- In deterministic mode the wave waits at its team's round boundary for a HELD team-mate or for the token (R234). -/
def heldAtBoundary (s : State) (w : Wave) : Bool :=
  match s.team w.team with
  | none => false
  | some t =>
    (s.hdr w.kern).det && decide ((s.hdr w.kern).waves ≤ t.turn) &&
    ((s.teamWaves w.team).any (fun p => p.2.st == .held) || t.stage.any (Staged.needsToken s))

/-- The wave is HELD, or stalled at a STEP, with no register write pending (R132). DESIGN CHOICE: a DONE wave does not keep its team from
being evicted (notes/assumptions/107.md). -/
def evictable (s : State) (w : Wave) : Bool :=
  w.st == .done || ((w.st == .held || atStep s w || heldAtBoundary s w) && w.pend.isEmpty)

/-- A step count stands below another by the signed difference; a team without waves that run stands above every count (R125). -/
def stepBelow : Option Word → Option Word → Bool
  | some a, some b => decide (sv (a - b) < 0)
  | some _, none => true
  | none, _ => false

/-- A team's step: the lowest of its waves that are not done. -/
def teamStep (s : State) (t : Nat) : Option Word :=
  ((s.teamWaves t).filter (fun p => p.2.st != .done)).foldl
    (fun m p => if stepBelow (some p.2.step) m then some p.2.step else m) none

/-- The teams of the context that runs on a core, in a state, in ascending index. -/
def teamsOn (s : State) (core : Nat) (st : TeamSt) : List (Nat × Team) :=
  sortBy (fun p => p.2.idx) (s.teams.filter (fun p => p.2.core == core && p.2.st == st && !p.2.haltP))

/-- The first of the best by a measure. -/
def pick (better : Option Word → Option Word → Bool) (f : Nat × Team → Option Word) : List (Nat × Team) → Option (Nat × Team)
  | [] => none
  | x :: xs => some (xs.foldl (fun b y => if better (f y) (f b) then y else b) x)

/-- The evicted team that reloads next: the lowest step, then the lowest index (R134). -/
def nextReload (s : State) (core : Nat) : Option (Nat × Team) :=
  pick stepBelow (fun p => teamStep s p.1) (teamsOn s core .evicted)

/-- Every wave of a resident team is evictable (R132). -/
def teamEvictable (s : State) (p : Nat × Team) : Bool :=
  (s.teamWaves p.1).all (fun x => evictable s x.2) && !(p.2.haltF || p.2.haltD || p.2.haltP)

/-- The resident team that is evicted next, while some team of the core is EVICTED: of those all of whose waves are evictable, the
highest step (R134). -/
def nextEvict (s : State) (core : Nat) : Option (Nat × Team) :=
  if (teamsOn s core .evicted).isEmpty then none
  else pick (fun a b => stepBelow b a) (fun p => teamStep s p.1) ((teamsOn s core .resident).filter (teamEvictable s))

/-- EVICT: the team's images leave the core; its window, barriers and pool stay. -/
def evictStep (core : Nat) (s : State) : Option State :=
  (nextEvict s core).map (fun p =>
    let s := s.modTeam p.1 (fun t => { t with st := .evicted })
    { s with waves := Tbl.mapVals (fun _ w => if w.team == p.1 && w.st != .done then { w with st := .evicted } else w) s.waves })

/-- RELOAD: the team's waves are READY again, and those that waited only for it are released. DEDUCED: a team is reloaded when its images
find room, also where a team's end has made it and no team is evicted for it (notes/assumptions/30.md). -/
def reloadStep (core : Nat) (s : State) : Option State :=
  match nextReload s core with
  | none => none
  | some p =>
    let needs := coreNeeds s p.2.vf core (teamImages s p.1) 0
    if fitsOn s core p.1 && s.mayEvict p.2.vf needs then
      let s := (s.evictSave p.2.vf needs).modTeam p.1 (fun t => { t with st := .resident })
      some (releaseHeld { s with waves := Tbl.mapVals (fun _ w =>
        if w.team == p.1 && w.st == .evicted then { w with st := .ready, age := 0 } else w) s.waves })
    else none

/-- What a core does next by itself: the evicted team whose turn it is is reloaded when it fits; else a team is evicted, unless it would
itself be the one to reload (R134, R135, notes/assumptions/30.md). -/
def coreStep (core : Nat) (s : State) : Option State :=
  match reloadStep core s with
  | some s' => some s'
  | none =>
    match nextEvict s core, evictStep core s with
    | some p, some s' => if ((nextReload s' core).map (·.1)) == some p.1 then none else some s'
    | _, _ => none

/-- EVICT (spec/06_cell.md R132, R134). -/
def execEvict (core : Nat) (s : State) : Host.Outcome State Fault Refusal := .next ((evictStep core s).getD s)
/-- RELOAD (spec/06_cell.md R134). -/
def execReload (core : Nat) (s : State) : Host.Outcome State Fault Refusal := .next ((reloadStep core s).getD s)

end Sys2Proof.Machine
end

