-- ==== Sys2Proof/Machine/Launch.lean ====
section
/-! DEFINITION. Launch packets and queues: the fields and limits of a packet, writing a queue, LAUNCH, QROOM, and the
commands that bind, fill and empty a queue (spec/15_queue.md, spec/16_kernel.md R296-R300, R308-R311). -/
namespace Sys2Proof.Machine

/-! ## The packet (R296-R299) -/

/-- A D register value in a packet (spec/09_isa_memory.md R187). -/
def readTile (b : List Byte) (o : Nat) : TileReg where
  fmt := BitVec.ofNat 3 (natAt b (o + 10) 1)
  rows := BitVec.ofNat 16 (natAt b (o + 8) 2)
  pitch := BitVec.ofNat 32 (natAt b (o + 4) 4)
  base := BitVec.ofNat 32 (natAt b o 4)

/-- A C register value in a packet, its slots free (spec/18_copy.md R344). -/
def readCbuf (b : List Byte) (o : Nat) : CircReg where
  slots := natAt b (o + 8) 1
  slotb := natAt b (o + 4) 4
  base := natAt b o 4

/-- An extent entry. -/
def readExtent (b : List Byte) (o : Nat) : Extent where
  va := natAt b o 8
  npages := natAt b (o + 8) 4
  rd := natAt b (o + 12) 1 % 2 == 1
  wr := natAt b (o + 12) 1 / 2 % 2 == 1
  sparse := natAt b (o + 12) 1 / 4 % 2 == 1

/-- The extent count. -/
def extCount (b : List Byte) : Nat := natAt b 0x4C 4

/-- The fields of a packet. -/
def readPacket (b : List Byte) : Header where
  codebase := natAt b 0 8
  codelen := natAt b 8 4
  entry := BitVec.ofNat 32 (natAt b 0xC 4)
  widths := (List.range 6).map (fun i => natAt b (0x10 + i) 1)
  handles := BitVec.ofNat 16 (natAt b 0x16 2)
  modew := BitVec.ofNat 32 (natAt b 0x18 4)
  publish := BitVec.ofNat 32 (natAt b 0x1C 4)
  axes := (List.range 3).map (fun i => BitVec.ofNat 32 (natAt b (0x20 + 4 * i) 4))
  window := natAt b 0x2C 4
  seed := BitVec.ofNat 64 (natAt b 0x30 8)
  regimg := natAt b 0x38 8
  spadimg := natAt b 0x40 8
  spadlen := natAt b 0x48 4
  tiles := (List.range 8).map (fun i => readTile b (0x50 + 12 * i))
  cbufs := (List.range 8).map (fun i => readCbuf b (0xB0 + 16 * i))
  waits := (List.range 4).map (fun i => (natAt b (0x130 + 16 * i) 8, natAt b (0x138 + 16 * i) 8))
  signal := natAt b 0x170 8
  report := natAt b 0x178 8
  exts := (List.range (extCount b)).map (fun i => readExtent b (0x400 + 16 * i))

/-! ## Well-formedness (R300) -/

/-- The widths satisfy R70 and R300. -/
def widthsOk (h : Header) : Bool :=
  h.widths.all (fun w => decide (w ≤ 32)) && decide (h.widths.sum ≤ 64) && decide (h.cells ≤ h.lanes * h.depth) &&
  decide (h.width 1 ≤ 4) && decide (h.width 5 ≤ 4)

/-- An axis word: no reserved bit, at most six fields and zeros above them, end modes both wrap or neither. -/
def axisOk (h : Header) (ax : Nat) : Bool :=
  let a := uv (h.axes.getD ax 0)
  let minus := a / 2 ^ 21 % 4
  let plus := a / 2 ^ 23 % 4
  decide (a < 2 ^ 25) && decide (a % 8 ≤ 6) && a / 2 ^ (3 * (a % 8) + 3) % 2 ^ (18 - 3 * (a % 8)) == 0 &&
  minus != 3 && plus != 3 && ((minus == 0) == (plus == 0)) &&
  (h.axisFields ax).all (fun f => decide (f ≤ 5) && h.width f != 0)

/-- No field stands in two axes or twice in one. -/
def axesOk (h : Header) : Bool :=
  let fs := (h.axisFields 0 ++ h.axisFields 1 ++ h.axisFields 2)
  [0, 1, 2].all (axisOk h) && fs.eraseDups.length == fs.length

/-- The mode word. -/
def modeOk (h : Header) : Bool :=
  decide (uv h.modew < 2 ^ 22) && (if h.det then decide (256 ≤ h.quantum) else h.quantum == 1)

/-- A D value meets R187, or is 0. -/
def tileOk (window : Nat) (d : TileReg) : Bool :=
  d == {} || (d.fmt != 7 && d.rows != 0 && decide (d.rows.toNat ≤ 6144) && d.pitch != 0 && uv d.pitch % 256 == 0 &&
    uv d.base % 256 == 0 && decide (uv d.base + d.rows.toNat * uv d.pitch ≤ window))

/-- A C value meets R344, or is 0. -/
def cbufOk (window : Nat) (c : CircReg) : Bool :=
  (c.slots == 0 && c.slotb == 0 && c.base == 0) ||
  (decide (1 ≤ c.slots) && decide (c.slots ≤ 64) && c.slotb != 0 && c.slotb % 256 == 0 && c.base % 256 == 0 &&
    decide (c.base + c.slots * c.slotb ≤ window))

/-- The extents of a packet: each legal, none overlapping another. -/
def extentsOk (xs : List Extent) : Bool :=
  xs.all (fun e => decide (e.va < 2 ^ 57) && e.va % 65536 == 0 &&
    decide (1 ≤ e.npages) && decide (e.npages ≤ 2 ^ 24) && (e.rd || e.wr)) &&
  xs.zipIdx.all (fun x => xs.zipIdx.all (fun y => x.2 == y.2 ||
    !overlaps x.1.va (65536 * x.1.npages) y.1.va (65536 * y.1.npages)))

/-- Every reserved byte and bit outside the words checked above is 0. -/
def reservedOk (b : List Byte) : Bool :=
  let n := extCount b
  ((b.drop 0x188).take 0x278).all (fun x => x == 0) && decide (n ≤ 64) && ((b.drop (0x400 + 16 * n)).take 1024).all (fun x => x == 0) &&
  (List.range n).all (fun i => decide (natAt b (0x400 + 16 * i + 12) 4 < 8)) &&
  (List.range 8).all (fun i => decide (natAt b (0x50 + 12 * i + 10) 2 < 8)) &&
  (List.range 8).all (fun i => natAt b (0xB0 + 16 * i + 9) 7 == 0)

/-- A packet is well formed (R300). -/
def packetOk (b : List Byte) : Bool :=
  let h := readPacket b
  b.length == 2048 && reservedOk b && decide (h.codebase < 2 ^ 57) && h.codebase % 256 == 0 && decide (1 ≤ h.codelen) &&
  decide (h.codelen ≤ 2 ^ 24) && uv h.entry % 4 == 0 && decide (uv h.entry < 12 * h.codelen) && !h.handles.getLsbD 0 &&
  widthsOk h && axesOk h && modeOk h && h.window % 256 == 0 && decide (256 ≤ h.window) && decide (h.window ≤ 1572864) &&
  h.spadlen % 4 == 0 && decide (h.spadlen ≤ h.window) && h.tiles.all (tileOk h.window) && h.cbufs.all (cbufOk h.window) &&
  h.waits.all (fun x => x.1 % 8 == 0) && h.signal % 8 == 0 && h.report % 8 == 0 && extentsOk h.exts

/-! ## Writing a queue (R288, R309) -/

/-- Occupied entries of a queue. -/
def Queue.occupancy (q : Queue) : Nat := uv (q.tail - q.head)
/-- The capacity. -/
def Queue.cap (q : Queue) : Nat := 2 ^ q.logcap
/-- The queue accepts the context's writes. -/
def Queue.takes (q : Queue) (vf : Nat) : Bool := (q.st == .opened || q.st == .stopped) && q.vf == vf

/-- What a write would answer: 2 UNBOUND, 3 BADPKT, 1 no entry free, 0 OK. In stage REDUCED no run of several devices is
accepted (spec/30_bringup.md R484). -/
def launchStatus (s : State) (vf q : Nat) (pkt : List Byte) : Nat :=
  let d := s.queue q
  if !d.takes vf then 2
  else if !packetOk pkt || (s.hearth.stage == .reduced && (readPacket pkt).width 5 != 0) then 3
  else if d.cap ≤ d.occupancy then 1
  else 0

/-- Write one entry and advance TAIL; the kernel is QUEUED under the next KID (R302, R309). -/
def writeQueue (vf q : Nat) (parent : Word) (pkt : List Byte) (s : State) : State :=
  let d := s.queue q
  let (k, s) := s.take
  let kid := ((s.ctx vf).map (·.nextKid)).getD 1
  let s := s.modCtx vf (fun c => { c with nextKid := if kid + 1 = 0 then 1 else kid + 1 })
  let raw := pkt.take 0x180 ++ bytesOf 4 (uv parent) ++ bytesOf 4 (uv kid) ++ pkt.drop 0x188
  let s := s.vwrite vf (d.base + uv d.tail % d.cap * 2048) raw
  let kn : Kernel := { vf := vf, q := q, hdr := readPacket pkt, kid := kid, parent := parent }
  { s.modQueue q (fun d => { d with tail := d.tail + 1, ents := d.ents ++ [k] }) with kernels := Tbl.put s.kernels k kn }

/-! ## LAUNCH (R309-R311) -/

/-- The kernel's KID. -/
def State.kidOf (s : State) (k : Nat) : Word := ((s.kern k).map (·.kid)).getD 0

/-- Queue and packet offset of a LAUNCH, and the older entries on the packet's bytes: fixed when the wait began. In
deterministic mode a STAGED store of the wave counts as performed for the wave itself (spec/11_group.md R231). -/
def launchArgs (s : State) (n : Nat) (w : Wave) (r : Nat) : Nat × Nat × List Nat :=
  match w.hold with
  | some ⟨_, q :: o :: ids, _, _⟩ => (q, o, ids)
  | _ =>
    let o := uv (w.getS (r + 1))
    let ids := olderOn s n w [(o, 2048)]
    (uv (w.getS r) % 128, o,
      if (s.hdr w.kern).det then ids.filter (fun i => !(s.stagedOf n w).any (fun x => x.id == i && (match x.k with
        | .access _ => true
        | _ => false))) else ids)

/-- The packet of a LAUNCH: as it was read, or as the wave reads it now. -/
def launchPacket (s : State) (n : Nat) (w : Wave) (o : Nat) : List Byte :=
  match w.hold with
  | some ⟨_, _, b :: bs, _⟩ => b :: bs
  | _ => if (s.hdr w.kern).det then (List.range 2048).map (fun i => readOwn s n w (o + i) i) else readWin s w.team o 2048

/-- The older entries are performed. -/
def launchReady (s : State) (n : Nat) (w : Wave) (r : Nat) : Bool := (launchArgs s n w r).2.2.all (performed s n w)

/-- The checks of LAUNCH. -/
def launchGate (t : Bool) (r : Nat) (n : Nat) (w : Wave) (s : State) : Gate :=
  let a := launchArgs s n w r
  if w.hmode then .trap 11 0
  else if a.2.1 % 256 ≠ 0 ∨ (s.hdr w.kern).window < a.2.1 + 2048 then .trap 5 s.slotArg
  else if !launchReady s n w r then .wait (a.1 :: a.2.1 :: a.2.2)
  else if !(s.hdr w.kern).det && !t && launchStatus s (s.kernVf w.kern) a.1 (launchPacket s n w a.2.1) == 1 then
    .wait (a.1 :: a.2.1 :: a.2.2)
  else .ok

/-- The effect of LAUNCH: the entry is written with its status in Sn, or, in deterministic mode, staged with Sn pending. -/
def launchEffect (t : Bool) (r : Nat) (n : Nat) (w : Wave) (s : State) : State :=
  let a := launchArgs s n w r
  let pkt := launchPacket s n w a.2.1
  if (s.hdr w.kern).det then
    let id := ((s.wave n).map (·.nextId)).getD 0
    (s.modTeam w.team (fun m => { m with stage := m.stage ++ [(⟨n, 32, id, .launch a.1 t r pkt⟩ : Staged)] })).modWave n
      (fun x => { x.addPend [.s r] id with nextId := id + 1 })
  else
    let st := launchStatus s (s.kernVf w.kern) a.1 pkt
    let s := if st = 0 then writeQueue (s.kernVf w.kern) a.1 (s.kidOf w.kern) pkt s else s
    s.modWave n (fun x => x.setS r (BitVec.ofNat 32 st))

/-- A LAUNCH that waits for room keeps the packet that it has read. -/
def launchKeep (r : Nat) (n : Nat) (s : State) : State :=
  match s.wave n with
  | none => s
  | some w =>
    match w.hold with
    | some h =>
      if h.pkt.isEmpty && launchReady s n w r then
        s.modWave n (fun x => { x with hold := some { h with pkt := launchPacket s n w (launchArgs s n w r).2.1 } })
      else s
    | none => s

/-- LAUNCH (R309): writes a launch packet from the window into a queue. -/
def execLaunch (t : Bool) (r : SReg) (s : State) : Host.Outcome State Fault Refusal :=
  match s.curWave, issue (.launch t r) s (launchGate t r.toNat) (launchEffect t r.toNat) with
  | some (n, _), .next s' =>
    (match s'.chain.verdict with
     | .wait _ => .next (if s.chain.phase == .direct then launchKeep r.toNat n s' else s')
     | _ => .next s')
  | _, o => o

/-- Own(q): the LAUNCHes to a queue that the run has committed (spec/15_queue.md R294). -/
def Kernel.owns (k : Kernel) (q : Nat) : Nat := NMap.get 0 k.own q

/-- COMMIT of a staged LAUNCH: with no entry free it waits, but for TRY, which answers FULL from Own(q) alone (R311). -/
def launchCommit (x : Staged) (q : Nat) (t : Bool) (r : Nat) (pkt : List Byte) (s : State) : Option State :=
  match s.wave x.wave with
  | none => none
  | some w =>
    let vf := s.kernVf w.kern
    let own := ((s.kern w.kern).map (fun k => k.owns q)).getD 0
    let fin (st : Nat) (s : State) := s.modWave x.wave (fun w => (w.setS r (BitVec.ofNat 32 st)).clearPend x.id)
    match launchStatus s vf q pkt with
    | 2 => some (fin 2 s)
    | 3 => some (fin 3 s)
    | st =>
      if t && decide ((s.queue q).cap ≤ own) then some (fin 1 s)
      else if st = 1 then none
      else
        some (fin 0 ((writeQueue vf q (s.kidOf w.kern) pkt s).modKern w.kern (fun k =>
          { k with own := NMap.set 0 k.own q (min (own + 1) (s.queue q).cap) })))

/-! ## QROOM (R292-R295) -/

/-- The code of a queue's state. -/
def QueueSt.code : QueueSt → Nat
  | .unbound => 0
  | .opened => 1
  | .stopped => 2
  | .closing => 3

/-- What QROOM reads. -/
def qroomWords (s : State) (w : Wave) (q : Nat) : List Word :=
  let d := s.queue q
  if d.takes (s.kernVf w.kern) then
    let used := if (s.hdr w.kern).det then ((s.kern w.kern).map (fun k => k.owns q)).getD 0 else d.occupancy
    [BitVec.ofNat 32 (d.cap - used), BitVec.ofNat 32 (d.prio + 64 * d.vf + 1024 * d.logcap + 16384 * d.st.code)]
  else [0, 0]

/-- QROOM (R293): reads a queue's room and descriptor into two S registers. -/
def execQroom (n : SReg) (s : State) : Host.Outcome State Fault Refusal :=
  uniform (.qroom n) s (fun w x => x.setSs n.toNat (qroomWords s w (uv (w.getS n.toNat) % 128)))

/-! ## The commands of a queue (R285-R287) -/

/-- The effect of ROOTLAUNCH. DESIGN CHOICE: a queue number above 127 is answered QUNBOUND (notes/assumptions/120.md). -/
def rootlaunchStep (box vf q : Nat) (pkt : List Byte) (s : State) : State :=
  if 128 ≤ q then s.answer box .qunbound
  else match launchStatus s vf q pkt with
    | 2 => s.answer box .qunbound
    | 3 => s.answer box .badpkt
    | 1 => s.answer box .qfull
    | _ => (writeQueue vf q 0 pkt s).answer box .ok

/-- ROOTLAUNCH (R287): writes one launch packet at a queue's tail. -/
def execRootlaunch (box vf q : Nat) (pkt : List Byte) (s : State) : Host.Outcome State Fault Refusal :=
  .next (vfCommand box vf s (rootlaunchStep box vf q pkt))

/-- The effect of BIND: the ring's ABSENT pages are serviced first (spec/17_page.md R316). -/
def bindStep (box vf q base logcap prio : Nat) (s : State) : State :=
  if 128 ≤ q then s.answer box .qbadarg
  else if (s.queue q).st != .unbound then s.answer box .qbusy
  else if logcap < 4 ∨ 12 < logcap ∨ base % 65536 ≠ 0 ∨ 2 ^ 57 < base + ringBytes logcap ∨ 63 < prio then s.answer box .qbadarg
  else s.tryBind ⟨box, vf, q, base, logcap, prio, pagesOf base (ringBytes logcap)⟩

/-- BIND (R285): binds a queue to a context and pins its ring. -/
def execBind (box vf q base logcap prio : Nat) (s : State) : Host.Outcome State Fault Refusal :=
  .next (vfCommand box vf s (bindStep box vf q base logcap prio))

/-- DRAINED: an empty CLOSING queue is UNBOUND, its ring zeroed and its pages no longer pinned (R286). -/
def drainQueue (q : Nat) (s : State) : State :=
  let d := s.queue q
  if d.st == .closing && d.ents.isEmpty then
    let n := ringBytes d.logcap
    ((s.vwrite d.vf d.base (List.replicate n 0)).modCtx d.vf (fun c => (pagesOf d.base n).foldl Ctx.unpin c)).modQueue q
      (fun d => { d with st := .unbound })
  else s

/-- UNBIND (R285): a bound queue is CLOSING. -/
def execUnbind (box vf q : Nat) (s : State) : Host.Outcome State Fault Refusal :=
  .next (vfCommand box vf s (fun s =>
    let d := s.queue q
    if d.st == .unbound then s.answer box .qunbound
    else if d.vf != vf then s.answer box .notown
    else (drainQueue q (s.modQueue q (fun d => { d with st := .closing }))).answer box .ok))

/-- DISCARD: the head of a CLOSING queue ends FAILED (R285, R303). -/
def discardStep (q : Nat) (s : State) : Option State :=
  let d := s.queue q
  match d.st == .closing, d.ents with
  | true, k :: ks =>
    some (drainQueue q ((s.failKernel k 1).modQueue q (fun d => { d with head := d.head + 1, ents := ks })))
  | _, _ => none

/-- DISCARD (R285). -/
def execDiscard (q : Nat) (s : State) : Host.Outcome State Fault Refusal := .next ((discardStep q s).getD s)

end Sys2Proof.Machine
end

