-- ==== Sys2Proof/Machine/Kernel.lean ====
section
/-! DEFINITION. The life of a kernel: the choice of the next launch, its translation, its teams and waves at entry, and its
end (spec/15_queue.md R289-R291, spec/16_kernel.md R301-R307, spec/17_page.md R313, spec/06_cell.md R119, R128, R493). -/
namespace Sys2Proof.Machine

/-! ## Eligibility (R290, R304, R305) -/

/-- The counters of a launch are met at this instant. -/
def countersMet (s : State) (k : Kernel) : Bool :=
  k.hdr.waits.all (fun x => x.1 == 0 || (match s.vread k.vf x.1 8 with
    | some bs => decide (x.2 ≤ natOf bs)
    | none => false))

/-- Read the counters of a queue's head. -/
def pollQueue (q : Nat) (s : State) : State :=
  match (s.queue q).ents with
  | [] => s
  | k :: _ => s.modKern k (fun x => { x with met := countersMet s x })

/-- COUNTER_POLL (R304): the schedulers read the counters of a queue's head. -/
def execCounterPoll (q : Nat) (s : State) : Host.Outcome State Fault Refusal := .next (pollQueue q s)

/-- Read the counters of every head. -/
def State.pollAll (s : State) : State := s.queues.foldl (fun s q => pollQueue q.1 s) s

/-- The parent grid of a kernel. -/
def parentOf (s : State) (k : Kernel) : Option Kernel :=
  if k.parent = 0 then none
  else (s.kernels.find? (fun x => x.2.vf == k.vf && x.2.kid == k.parent)).map (·.2)

/-- The head is eligible: its counters are met and its parent has ended. -/
def eligible (s : State) (k : Kernel) : Bool :=
  k.met && (match parentOf s k with
    | some p => p.st == .done
    | none => true)

/-- The parent of the head has FAILED. -/
def orphaned (s : State) (k : Kernel) : Bool :=
  match parentOf s k with
  | some p => p.st == .failed
  | none => false

/-- The partition with an index. -/
def State.partAt (s : State) (i : Nat) : BitVec 4 := (s.hearth.parts[i]?).getD 0

/-- The queues of a partition that may dispatch, with their heads. -/
def openHeads (s : State) (part : BitVec 4) : List (Nat × Queue × Nat × Kernel) :=
  s.queues.filterMap (fun q =>
    if q.2.st == .opened && ((s.ctx q.2.vf).map (fun c => c.st == .running && c.part == part)).getD false then
      match q.2.ents with
      | k :: _ => (s.kern k).map (fun kn => (q.1, q.2, k, kn))
      | [] => none
    else none)

/-- The kernels of the context that runs on a partition that are not placed yet: their ranges are translated, or they wait for cores,
windows or halo store. -/
def unplaced (s : State) (part : BitVec 4) : List (Nat × Kernel) :=
  s.kernels.filter (fun k => (k.2.st == .translating || k.2.st == .dispatching) &&
    ((s.ctx k.2.vf).map (fun c => c.part == part && (c.st == .running || c.st == .yielding))).getD false)

/-- A kernel of the partition with at least a priority is not placed yet: nothing below or beside it is chosen (R290). -/
def placingAbove (s : State) (part : BitVec 4) (prio : Nat) : Bool :=
  (unplaced s part).any (fun k => decide (prio ≤ k.2.prio))

/-- The distance of a queue after the one last served. -/
def afterServed (last q : Nat) : Nat := (q + 127 - last) % 128

/-- The queue that dispatches next (R289). -/
def nextQueue (s : State) (i : Nat) : Option (Nat × Queue × Nat × Kernel) :=
  let part := s.partAt i
  let hs := (openHeads s part).filter (fun x => eligible s x.2.2.2)
  let prio := (hs.map (fun x => x.2.1.prio)).foldl max 0
  let last := NMap.get 127 s.served (64 * i + prio)
  match (sortBy (fun x => afterServed last x.1) (hs.filter (fun x => x.2.1.prio == prio))).head? with
  | some x => if placingAbove s part prio then none else some x
  | none => none

/-- The head leaves its queue. -/
def takeHead (q : Nat) (s : State) : State := s.modQueue q (fun d => { d with head := d.head + 1, ents := d.ents.drop 1 })

/-- SELECT: a head whose parent FAILED ends FAILED; else the next launch starts to be translated. -/
def selectStep (i : Nat) (s : State) : Option State :=
  match (openHeads s (s.partAt i)).find? (fun x => orphaned s x.2.2.2) with
  | some (q, _, k, _) => some ((takeHead q s).failKernel k 2)
  | none =>
    match nextQueue s i with
    | none => none
    | some (q, d, k, _) =>
      let (n, s) := (takeHead q s).take
      some { s.modKern k (fun x => { x with st := .translating, sel := n, prio := d.prio }) with
        served := NMap.set 127 s.served (64 * i + d.prio) q }

/-- SELECT (R289). -/
def execSelect (part : Nat) (s : State) : Host.Outcome State Fault Refusal := .next ((selectStep part s).getD s)

/-! ## Translation (R313, R320) -/

/-- The ranges that are translated: address, length, and whether they are read and written. -/
def kernelRanges (h : Header) : List (Nat × Nat × Bool × Bool) :=
  let word (a : Nat) (wr : Bool) := if a = 0 then [] else [(a, 8, !wr, wr)]
  [(h.codebase, 12 * h.codelen, true, false)] ++
  (if h.spadimg = 0 then [] else [(h.spadimg, h.spadlen, true, false)]) ++
  (if h.regimg = 0 then [] else [(h.regimg, 4 * h.pubs.length * h.localCells, true, false)]) ++
  h.waits.flatMap (fun x => word x.1 false) ++ word h.signal true ++ word h.report true ++
  (h.exts.filter (fun e => h.det || !e.sparse)).map (fun e => (e.va, 65536 * e.npages, e.rd, e.wr))

/-- The pages of the ranges. -/
def kernelPages (h : Header) : List Nat := ((kernelRanges h).flatMap (fun r => pagesOf r.1 r.2.1)).eraseDups

/-- The accesses that a kernel's ranges make of a page: 1 reads, 2 writes, 3 both. -/
def pageAcc (h : Header) (p : Nat) : Nat :=
  let rs := (kernelRanges h).filter (fun r => (pagesOf r.1 r.2.1).contains p)
  (if rs.any (·.2.2.1) then 1 else 0) + (if rs.any (·.2.2.2) then 2 else 0)

/-- The ranges can be accessed as they are used; SIGNAL and REPORT lie in no running code segment and no bound ring, which are
mapped against them (spec/03_formats.md R49, spec/15_queue.md R286). -/
def rangesOk (s : State) (c : Ctx) (kn : Kernel) : Bool :=
  (kernelPages kn.hdr).all (fun p => (c.page p).usable && (c.stages p (pageAcc kn.hdr p) matches .ok _)) &&
  [kn.hdr.signal, kn.hdr.report].all (fun a => a == 0 || !s.guarded kn.vf a 8)

/-- Pin the pages that are not pinned yet, with a service for each that is ABSENT, while there is room for the records. -/
def pinPages (k : Nat) : List Nat → State → State
  | [], s => s
  | p :: ps, s =>
    match s.kern k with
    | none => s
    | some kn =>
      let acc := pageAcc kn.hdr p
      if kn.pins.contains p || !s.hasRoom kn.vf p acc then pinPages k ps s
      else
        let s := if (s.pageOf kn.vf p).st == .absent then s.service kn.vf p kn.kid s.dev 2 (kn.hdr.extIndex (65536 * p)) acc else s
        pinPages k ps ((s.modCtx kn.vf (fun c => c.pin p)).modKern k (fun x => { x with pins := x.pins ++ [p] }))

/-! ## Room (R303, R131, R496, R128) -/

/-- One team's window or images exceed a core, or a band or a die group cannot be placed on an empty partition. -/
def noFit (h : Header) : Bool :=
  let perCore := 1572864 / h.window
  let cores := if h.leader then 2 else 4
  decide (262144 < h.waves * imageBytes h { kern := 0, team := 0, idx := 0 }) ||
  decide (20 * (cores * perCore / 2 ^ h.width 2) < 2 ^ h.width 3)

/-- The dies of a partition. -/
def diesOf (part : BitVec 4) : List Nat := (List.range 4).filter part.getLsbD

/-- The die of each die group of this device: the dispatcher's choice where it is a die of the partition, else in turn
(notes/assumptions/89.md). -/
def chooseDies (h : Header) (part : BitVec 4) (choice : List Nat) : List Nat :=
  let ds := diesOf part
  (List.range (2 ^ h.width 4)).map (fun g =>
    let own := ds.getD (g % max 1 ds.length) 0
    match choice[g]? with
    | some d => if ds.contains d then d else own
    | none => own)

/-- The kernel's own needs exceed a die's reservation (notes/assumptions/16.md). -/
def haloFull (s : State) (k : Kernel) : Bool := k.dies.any (fun d => decide (Config.haloBytes < haloNeeds s.dev k d))

/-- The reservations that the context's other kernels hold leave no room for the kernel's: it waits for them (R290). -/
def haloWaits (s : State) (i : Nat) (k : Kernel) : Bool :=
  k.dies.any (fun d => decide (Config.haloBytes < haloNeeds s.dev k d +
    ((s.kernels.filter (fun x => x.1 != i && x.2.vf == k.vf && x.2.st.runs)).map (fun x => haloNeeds s.dev x.2 d)).sum))

/-! ## Entry (R296, R119, R273, R236) -/

/-- The launch value of a published register of a cell. -/
def launchValue (s : State) (kn : Kernel) (wid j : Nat) : Word :=
  let h := kn.hdr
  let p := h.pubs.length
  if h.regimg = 0 then 0
  else BitVec.ofNat 32 (natOf ((s.vread kn.vf (h.regimg + 4 * (p * (wid % h.localCells) + j)) 4).getD []))

/-- A wave at entry: its cells live and active, its published registers in the working copy and bank 1, H0 and the listed
handles open. -/
def entryWave (s : State) (k : Nat) (kn : Kernel) (t idx : Nat) : Wave :=
  let h := kn.hdr
  let m := lowMask h.cells
  let hs := (List.range 16).filter (fun n => n == 0 || h.handles.getLsbD n)
  let w : Wave := {
    kern := k, team := t, idx := idx, f1 := idx % h.waves, st := .evicted, pc := h.entry, live := m, active := m
    d := h.tiles.zipIdx.foldl (fun d x => NMap.set {} d x.2 x.1) []
    h := hs.zipIdx.map (fun x => (x.1, { seq := x.2, st := .opened }))
    seqs := hs.zipIdx.map (fun x => (x.2, {})) }
  (List.range h.cells).foldl (fun w f => h.pubs.zipIdx.foldl (fun w v =>
    let x := launchValue s kn (idx * h.cells + f) v.2
    (w.setV f v.1 x).setBank f v.1 1 x) w) w

/-- The pool of a team (spec/11_group.md R223). -/
def Header.poolSize (h : Header) : Nat := max 1 (h.waves / 2)

/-- A team at entry: PENDING, B0 a barrier of all its waves, its circular buffers with every slot free. -/
def entryTeam (k : Nat) (kn : Kernel) (idx : Nat) : Team where
  kern := k
  idx := idx
  vf := kn.vf
  bars := [(0, { st := true, mm := BitVec.ofNat 16 (2 ^ kn.hdr.waves - 1) })]
  cbufs := kn.hdr.cbufs.zipIdx.foldl (fun m x => NMap.set {} m x.2 x.1) []
  free := kn.hdr.poolSize

/-- The logical indices of the teams of this device (R307). -/
def localTeams (dev : Nat) (h : Header) : List Nat :=
  let n := 2 ^ (h.width 2 + h.width 3 + h.width 4)
  if h.width 5 = 0 then List.range n
  else if 2 ^ h.width 5 ≤ dev then []
  else (List.range n).map (fun i => dev * n + i)

/-- Make one team with its waves. -/
def makeTeam (k : Nat) (kn : Kernel) (idx : Nat) (s : State) : State :=
  let (t, s) := s.take
  let s := { s with teams := Tbl.put s.teams t (entryTeam k kn idx) }
  (List.range kn.hdr.waves).foldl (fun s f1 =>
    let (n, s) := s.take
    { s with waves := Tbl.put s.waves n (entryWave s k kn t (idx * kn.hdr.waves + f1)) }) s

/-- What the context's kernels with one more need of the halo stores of its dies. -/
def haloClaims (s : State) (i : Nat) (k : Kernel) : List (OnChip × Nat) :=
  k.dies.eraseDups.map (fun d => (.halo d, haloNeeds s.dev k d +
    ((s.kernels.filter (fun x => x.1 != i && x.2.vf == k.vf && x.2.st.runs)).map (fun x => haloNeeds s.dev x.2 d)).sum))

/-- DISPATCHING: other contexts' parts of the halo stores that it needs go to their save areas, the extent table is written, the dies of the die groups are chosen, the teams are PENDING, and every other device
that reads a wave's cells is sent their launch values and a notice with step count 0 (R493). -/
def startDispatch (k : Nat) (dies : List Nat) (s : State) : State :=
  match s.kern k with
  | none => s
  | some kn =>
    let ts := localTeams s.dev kn.hdr
    let s := s.evictSave kn.vf (haloClaims s k { kn with dies := dies })
    let s := s.modKern k (fun x => { x with
      st := if ts.isEmpty then .running else .dispatching, runs := ((s.ctx kn.vf).map (fun c => runsOf c kn.hdr)).getD []
      token := ts.headD 0, cycle := 0, dies := dies })
    let s := ts.foldl (fun s i => makeTeam k kn i s) s
    (s.waves.filter (fun p => p.2.kern == k)).foldl (fun s p =>
      sendHalo p.2 (2 ^ 32 - 1) 0 1 false false 0 (List.range kn.hdr.cells) s) s

/-- A kernel of its partition that was chosen before it, or that has a higher priority, is not placed yet: nothing of this one is
dispatched meanwhile (R290). -/
def mustWait (s : State) (k : Nat) (kn : Kernel) : Bool :=
  (unplaced s (((s.ctx kn.vf).map (·.part)).getD 0)).any (fun x => x.1 != k &&
    (decide (kn.prio < x.2.prio) || (kn.prio == x.2.prio && decide (x.2.sel < kn.sel))))

/-- TRANSLATED: every page is pinned and settled; then the kernel FAILS for want of a range, of room or of halo store, waits for
what others hold, or is DISPATCHING. A page whose service gave it no frame in both stages is requested again. -/
def translatedStep (k : Nat) (choice : List Nat) (s : State) : Option State :=
  match s.kern k with
  | none => none
  | some kn =>
    match s.ctx kn.vf with
    | none => none
    | some c =>
      if kn.st != .translating || !(c.st == .running || c.st == .yielding) then none
      else
        let ps := kernelPages kn.hdr
        let s1 := pinPages k ps s
        let again := s.unmapped kn.vf ps
        let dies := chooseDies kn.hdr c.part choice
        let kd := { kn with dies := dies }
        if ((s1.kern k).map (·.pins)) != some kn.pins then some s1
        else if ps.any (fun p => !kn.pins.contains p || (c.page p).st == .fetching) then none
        else if again != [] then
          let (left, s2) := requestPages kn.vf kn.kid 2 (fun p => kn.hdr.extIndex (65536 * p)) (pageAcc kn.hdr) again s
          if left == again then none else some s2
        else if !rangesOk s c kn || decide (4096 < (runsOf c kn.hdr).length) then some (s.failKernel k 3)
        else if noFit kn.hdr then some (s.failKernel k 4)
        else if haloFull s kd then some (s.failKernel k 5)
        else if mustWait s k kn || haloWaits s k kd || !s.mayEvict kn.vf (haloClaims s k kd) then none
        else some (startDispatch k dies s)

/-- TRANSLATED (R313). -/
def execTranslated (k : Dispatching) (s : State) : Host.Outcome State Fault Refusal :=
  .next ((translatedStep k.kern k.dies s).getD s)

/-! ## Placement (spec/11_group.md R222) -/

/-- A PENDING team of a kernel may be placed on a core now. -/
def placeable (s : State) (k t core : Nat) : Bool :=
  mayPlace s k t core && ((s.kern k).map (fun kn => !mustWait s k kn)).getD false

/-- PLACE (spec/11_group.md R222). -/
def execPlace (k t core : Nat) (s : State) : Host.Outcome State Fault Refusal :=
  .next (if placeable s k t core then placeTeam k t core s else s)

/-! ## The end (R302-R304) -/

/-- Everything that a kernel's waves issued has been performed: its teams have ended, its operations are over, and no matrix
operation of its teams is left. -/
def kernelOver (s : State) (k : Nat) : Bool :=
  s.teams.all (fun t => t.2.kern != k || (t.2.st == .ended && !windowRead s t.1)) &&
  s.ops.all (fun o => o.2.kern != k) &&
  s.peers.all (fun p => p.2.out.all (fun o => o.pkt.kern != some k || o.pkt.mark.isNone && o.pkt.op.isNone))

/-- END of every team of a kernel whose waves are all DONE. -/
def endTeams (k : Nat) (s : State) : State :=
  ((s.teams.filter (fun p => p.2.kern == k)).map (·.1)).foldl (fun s t => (endTeam t s).getD s) s

/-- KERNEL_DONE: SIGNAL is advanced, then the report is written, and what the kernel held is free. -/
def kernelDoneStep (k : Nat) (s : State) : Option State :=
  match s.kern k with
  | none => none
  | some kn =>
    let s := endTeams k s
    if kn.st != .running || !kernelOver s k then none
    else
      let a := kn.hdr.signal
      let s := if a = 0 then s else
        match s.vread kn.vf a 8 with
        | some bs => s.hwWrite kn.vf a (bytesOf 8 ((natOf bs + 1) % 2 ^ 64))
        | none => s
      let s := ((s.report k 0 1).dropKernel k).pairsIdle
      let s := (s.modKern k (fun x => { x with st := .done, runs := [], halo := [] })).unpinAll k
      some (s.boundary kn.vf).pollAll

/-- KERNEL_DONE (R304). -/
def execKernelDone (k : Nat) (s : State) : Host.Outcome State Fault Refusal := .next ((kernelDoneStep k s).getD s)

end Sys2Proof.Machine
end

