-- ==== Sys2Proof/Machine/Matrix.lean ====
section
/-! DEFINITION. The matrix pair: MZERO, MRDY, MMA, MDRAIN, MWAIT, and the start and retirement of an operation
(spec/20_matrix.md R357-R379). An operation reads its operands and writes its tile or its destinations at its start
(notes/assumptions/23.md). -/
namespace Sys2Proof.Machine

/-! ## Issue -/

/-- MTXERR with the slot of the word. -/
def mtxErr (s : State) : Gate := .trap 13 s.slotArg

/-- What the wave issues now is FROZEN at once: its team is halted, and the wave is not in the handler or the team has FROZEN operations,
which come before it (R359, R360). -/
def State.freezes (s : State) (w : Wave) : Bool :=
  match s.team w.team with
  | some t => t.halted && (!w.hmode || !t.frozen.isEmpty)
  | none => false

/-- The pair's queue has an entry free that no operation of a team that has resumed waits for (R359, R360). -/
def matrixRoom (s : State) (w : Wave) : Bool :=
  s.freezes w ||
  (decide (((Tbl.find s.pairs (s.pairOf w)).getD {}).queue.length < 8) && (s.thawing (s.pairOf w)).isEmpty)

/-- The checks of a matrix issue after its own: the issue right first, the queue's room last. -/
def matrixGate (s : State) (w : Wave) (needsReady : Bool) (own : Gate) : Gate :=
  if !mayIssueMatrix s w || (needsReady && w.mrdy.isNone) then mtxErr s
  else match own with
    | .ok => if matrixRoom s w then .ok else .pend
    | g => g

/-- The rows that the wave's stores since its ready fence opened have touched. -/
def wroteBits (w : Wave) (hits : Nat → List (Nat × Nat) → BitVec 128) : BitVec 128 :=
  match w.mrdy with
  | some (_, true) => w.wrote.foldl (fun m x => m ||| hits x.1 [x.2]) 0
  | _ => 0

/-- The operation as its wave issues it. -/
def newMatOp (s : State) (n : Nat) (w : Wave) (tile : Nat) (k : MatKind) (id : Nat) : MatOp :=
  let o : MatOp := {
    id := id, team := w.team, wave := n, tile := tile, k := k, rdy := w.mrdy.map (·.1)
    opened := (w.mrdy.map (·.2)).getD false }
  { o with dirtyA := wroteBits w (fun t xs => o.hitsA s t xs), dirtyB := wroteBits w (fun t xs => o.hitsB s t xs) }

/-- The window ranges that a drain writes (R374). -/
def MatKind.dests : MatKind → List (Nat × Nat)
  | .drain m _ _ edst epitch sdst _ _ =>
    (List.range 128).map (fun i => (uv edst + i * uv epitch, drainRow m)) ++ (if drainSided m then [(uv sdst, 2048)] else [])
  | _ => []

/-- In deterministic mode the destinations of a drain are hidden from the other waves of its team until a barrier that its wave reaches
after its MWAIT (R379). -/
def veilDrain (n : Nat) (w : Wave) (id tile : Nat) (k : MatKind) (s : State) : State :=
  if (s.hdr w.kern).det && (s.hdr w.kern).waves != 1 && !k.dests.isEmpty then
    s.modTeam w.team (fun t => t.veil { own := n, rs := k.dests, op := some id, tile := tile, id := 0 })
  else s

/-- Append an operation to the queue of the wave's pair, or to the FROZEN ones of its team. -/
def pushMatrix (n : Nat) (w : Wave) (tile : Nat) (k : MatKind) (s : State) : State :=
  let (id, s) := s.take
  let o := newMatOp s n w tile k id
  let s := veilDrain n w id tile k s
  if s.freezes w then s.modTeam w.team (fun t => { t with frozen := t.frozen ++ [o] })
  else
    let p := (Tbl.find s.pairs (s.pairOf w)).getD {}
    { s with pairs := Tbl.put s.pairs (s.pairOf w) { p with queue := p.queue ++ [o] } }

/-- MZERO (R369): queues an operation that clears a tile of the pair. -/
def execMzero (t : TReg) (s : State) : Host.Outcome State Fault Refusal :=
  issue (.mzero t) s (fun _ w s => matrixGate s w false .ok) (fun n w s' => pushMatrix n w t.toNat .zero s')

/-- MRDY (R370): appends a cluster-scope ready fence on every handle. -/
def execMrdy (s : State) : Host.Outcome State Fault Refusal :=
  issue .mrdy s (fun _ w _ => if w.roomAll then .ok else .pend) (fun n _ s' =>
    s'.modWave n (fun x =>
      { x.appendAll (.fence .cluster true true none) with mrdy := some (x.nextId, false), wrote := [] }))

/-- The D register format an MMA reads (R363). -/
def mmaFmtCode (m : MmaFmt) : BitVec 3 :=
  match m with
  | .tx8 => 3
  | .tx4 => 4
  | .ob8 => 5
  | .ob4 => 6
  | .bf16 => 1
  | .f16 => 2

/-- Where an operand tile lies: the team, if there is one in the place named, and the origin (R364). -/
def operandAt (s : State) (w : Wave) (oe : Bool) (a : Word) (d : TileReg) : Option Nat × Nat :=
  let org := if oe then uv a % 2 ^ 21 else uv d.base
  if oe && a.getLsbD 23 then
    let h := s.hdr w.kern
    let pt := uv a / 2 ^ 24
    match s.team w.team with
    | some t =>
      if 2 ^ h.width 2 ≤ pt then (none, org)
      else (((Tbl.first? (fun _ (x : Team) => x.kern == w.kern && x.idx == t.idx / 2 ^ h.width 2 * 2 ^ h.width 2 + pt)
        s.teams).map (·.1)), org)
    | none => (none, org)
  else (some w.team, org)

/-- MTXERR of an operand. -/
def operandBad (s : State) (m : MmaFmt) (kc : Nat) (t : Option Nat) (d : TileReg) : Bool :=
  d.fmt != mmaFmtCode m || decide (d.rows.toNat < 128) || decide (d.er < 32 * 2 ^ kc) ||
  (match t.bind s.team with
   | none => true
   | some x => x.st == .ended)

/-- The operand's team has not been placed. -/
def operandPending (s : State) (t : Option Nat) : Bool :=
  match t.bind s.team with
  | some x => x.st == .pending
  | none => false

/-- ADDRERR of an operand. -/
def operandOut (h : Header) (org : Nat) (d : TileReg) : Bool :=
  decide (org % 256 ≠ 0) ||
  decide (h.window < org + d.rows.toNat * uv d.pitch + (if fmtSided d.fmt then 4 * (d.rows.toNat * d.er / 32) else 0))

/-- The checks of MMA (R363, R364, R376). -/
def mmaGate (m : MmaFmt) (o : MmaOp) (w : Wave) (s : State) : Gate :=
  let da := w.getD o.da.toNat
  let db := w.getD o.db.toNat
  let a := operandAt s w o.oe (w.getA o.ao.toNat) da
  let b := operandAt s w o.oe (w.getA (o.ao.toNat + 1)) db
  let kc := o.kc.toNat
  let h := s.hdr w.kern
  matrixGate s w true
    (if (!o.ra && operandBad s m kc a.1 da) || operandBad s m kc b.1 db then mtxErr s
     else if (!o.ra && operandPending s a.1) || operandPending s b.1 then .pend
     else if (!o.ra && operandOut h a.2 da) || operandOut h b.2 db then .trap 5 s.slotArg
     else .ok)

/-- MMA (R371): queues a 128 x 128 matrix multiply-accumulate. -/
def execMma (m : MmaFmt) (o : MmaOp) (s : State) : Host.Outcome State Fault Refusal :=
  issue (.mma m o) s (fun _ w s => mmaGate m o w s) (fun n w s' =>
    let da := w.getD o.da.toNat
    let db := w.getD o.db.toNat
    let a := operandAt s' w o.oe (w.getA o.ao.toNat) da
    let b := operandAt s' w o.oe (w.getA (o.ao.toNat + 1)) db
    pushMatrix n w o.tt.toNat
      (.mma m o.kc.toNat o.ra (a.1.getD w.team) a.2 da (b.1.getD w.team) b.2 db) s')

/-- ADDRERR of MDRAIN (R373). -/
def drainOut (h : Header) (m : DrainFmt) (edst epitch sdst scv : Word) : Bool :=
  decide (uv edst % 4 ≠ 0) || decide (uv epitch % 4 ≠ 0) || decide (uv epitch < drainRow m) ||
  decide (h.window < uv edst + 127 * uv epitch + drainRow m) ||
  (drainSided m && (decide (uv sdst % 4 ≠ 0) || decide (h.window < uv sdst + 2048))) ||
  (scv != 0xFFFFFFFF && (decide (uv scv % 4 ≠ 0) || decide (h.window < uv scv + 1024)))

/-- MDRAIN (R375): queues a drain that requantises a tile into the window. -/
def execMdrain (m : DrainFmt) (t : TReg) (n : SReg) (i z : Bool) (s : State) : Host.Outcome State Fault Refusal :=
  issue (.mdrain m t n i z) s
    (fun _ w s =>
      let x (k : Nat) := w.getS (n.toNat + k)
      matrixGate s w (x 4 != 0xFFFFFFFF)
        (if drainOut (s.hdr w.kern) m (x 0) (x 1) (x 2) (x 4) then .trap 5 s.slotArg else .ok))
    (fun j w s' =>
      let x (k : Nat) := w.getS (n.toNat + k)
      pushMatrix j w t.toNat (.drain m i z (x 0) (x 1) (x 2) (x 3) (x 4)) s')

/-- The operations of the wave's team on a tile: those not retired, and those that no MWAIT has covered. -/
def matrixOn (s : State) (w : Wave) (t : Nat) : List Nat :=
  let p := (Tbl.find s.pairs (s.pairOf w)).getD {}
  ((p.queue ++ (((s.team w.team).map (·.frozen)).getD []) ++ p.settled).filter (fun o => o.team == w.team && o.tile == t)).map (·.id)

/-- A listed operation has not retired, or in deterministic mode had not as the wave's quantum began (spec/11_group.md R231). -/
def matrixPending (s : State) (w : Wave) (ids : List Nat) : Bool :=
  let p := (Tbl.find s.pairs (s.pairOf w)).getD {}
  (p.queue ++ (((s.team w.team).map (·.frozen)).getD [])).any (fun o => ids.contains o.id) ||
  (w.view.map (fun v => ids.any (fun i => decide (v.serial ≤ i) || v.ops.contains i))).getD false

/-- The operations that an MWAIT covers: fixed when its wait began. -/
def mwaitIds (s : State) (w : Wave) (t : Nat) : List Nat :=
  match w.hold with
  | some x => x.data
  | none => matrixOn s w t

/-- MWAIT (R372): waits until the team's earlier operations on a tile have retired. -/
def execMwait (t : TReg) (s : State) : Host.Outcome State Fault Refusal :=
  issue (.mwait t) s
    (fun _ w s =>
      let ids := mwaitIds s w t.toNat
      if matrixPending s w ids then .wait ids else .ok)
    (fun n w s' =>
      let ids := mwaitIds s' w t.toNat
      { s'.modTeam w.team (fun x => x.settleVeils n t.toNat (((s'.wave n).map (·.nextId)).getD 0)) with
        pairs := Tbl.modify (fun p => { p with settled := p.settled.filter (fun o => !ids.contains o.id) }) s'.pairs (s'.pairOf w) })

/-! ## Operands (R363-R366) -/

/-- The side word of the block that holds element j. -/
def sideAt (s : State) (t : Nat) (d : TileReg) (org r j : Nat) : Nat :=
  natOf (readWin s t (d.sideWord (d.side org) r (j / 32)) 4)

/-- The value of an element of the float path. -/
def mmaVal (s : State) (m : MmaFmt) (t : Nat) (d : TileReg) (org r j : Nat) : FVal :=
  let x := tileCode s t d org r j
  let w := sideAt s t d org r j
  match m with
  | .bf16 => bf16.decode x
  | .f16 => f16.decode x
  | .tx4 => txVal false (w % 256) (w / 256 % 256) x
  | _ => txVal true (w % 256) (w / 256 % 256) x

/-- The difference of an element of the integer path. -/
def mmaInt (s : State) (m : MmaFmt) (t : Nat) (d : TileReg) (org r j : Nat) : Int :=
  let z := sideAt s t d org r j / 65536 % 256
  (tileCode s t d org r j : Int) - (if m = .ob4 then z % 16 else z : Nat)

/-- Element k of row i as cell i of a wave holds it; a row without a live cell is zero. -/
def raVal (s : State) (m : MmaFmt) (n i k : Nat) : FVal :=
  let F := if m = .bf16 then bf16 else f16
  match s.wave n with
  | none => F.decode 0
  | some w =>
    if w.live.getLsbD i then F.decode (uv (w.getV i (32 + k / 2)) / 65536 ^ (k % 2) % 65536) else F.decode 0

/-! ## The sum (R107) -/

/-- The exact sum of a block's products: -0 is the sum of none. -/
def blockSum (a b : List FVal) : FVal := (a.zip b).foldl (fun x p => x.add (p.1.mul p.2)) (.fin true 0 0)

/-- The float path: one rounding a block. -/
def mmaFloat : Nat → List FVal → List FVal → Nat → Nat
  | 0, _, _, acc => acc
  | n + 1, a, b, acc =>
    mmaFloat n (a.drop 32) (b.drop 32) (f32.roundNE ((f32.decode acc).add (blockSum (a.take 32) (b.take 32))))

/-- The integer path: the sum modulo 2^32, and whether a block's sum left INT32. -/
def mmaWrap : Nat → List Int → List Int → Word → Bool → Word × Bool
  | 0, _, _, acc, w => (acc, w)
  | n + 1, a, b, acc, w =>
    let x := sv acc + ((a.take 32).zip (b.take 32)).foldl (fun y p => y + p.1 * p.2) 0
    mmaWrap n (a.drop 32) (b.drop 32) (wordOfInt x) (w || decide (x < -(2 ^ 31)) || decide (2 ^ 31 ≤ x))

/-! ## Effects -/

/-- The element of a pair's tile. -/
def Pair.el (p : Pair) (t i j : Nat) : Word := NMap.get 0 p.tiles (tileKey t i j)

/-- Write every element of a tile. -/
def Pair.setTile (p : Pair) (t : Nat) (g : Nat → Nat → Word) : Pair :=
  let new := (List.range 16384).filterMap (fun k =>
    let x := g (k / 128) (k % 128)
    if x = 0 then none else some (16384 * t + k, x))
  { p with tiles := p.tiles.filter (fun e => decide (e.1 < 16384 * t)) ++ new ++
      p.tiles.filter (fun e => decide (16384 * (t + 1) ≤ e.1)) }

/-- The formats of the integer path. -/
def mmaIntPath (m : MmaFmt) : Bool := m = .ob8 || m = .ob4

/-- The new elements of an MMA's tile, and whether a sum wrapped. -/
def mmaResult (s : State) (p : Pair) (o : MatOp) (m : MmaFmt) (kc : Nat) (ra : Bool) (ta oa : Nat) (da : TileReg) (tb ob : Nat)
    (db : TileReg) (i j : Nat) : Word × Bool :=
  let ks := List.range (32 * 2 ^ kc)
  if mmaIntPath m then
    mmaWrap (2 ^ kc) (ks.map (mmaInt s m ta da oa i)) (ks.map (mmaInt s m tb db ob j)) (p.el o.tile i j) false
  else
    let a := if ra then ks.map (raVal s m o.wave i) else ks.map (mmaVal s m ta da oa i)
    (BitVec.ofNat 32 (mmaFloat (2 ^ kc) a (ks.map (mmaVal s m tb db ob j)) (uv (p.el o.tile i j))), false)

/-- A scale of a drain; 1 stands for none. -/
def drainScale (s : State) (t : Nat) (scv : Word) (o : Nat) : Option FVal :=
  if scv = 0xFFFFFFFF then none else some (f32.decode (natOf (readWin s t (uv scv + o) 4)))

/-- The value that a drain makes of an element (R375). -/
def drainVal (s : State) (p : Pair) (o : MatOp) (int : Bool) (scv : Word) (i j : Nat) : FVal :=
  let x := p.el o.tile i j
  let v := if int then ofInt (sv x) else f32.decode (uv x)
  match drainScale s o.team scv (4 * i), drainScale s o.team scv (512 + 4 * j) with
  | some r, some c => (v.mul r).mul c
  | _, _ => v

/-- A block of a drained row: its elements' bytes and its side word. -/
def drainBlock (m : DrainFmt) (xs : List FVal) (z : Nat → BitVec 64) : List Byte × List Byte :=
  let xs := xs.map (fun y => f32.decode (f32.roundNE y))
  let tx (w : Bool) := let b := txQuant w xs z; (packEls w b.els, bytesOf 1 b.h0 ++ bytesOf 1 b.h1 ++ bytesOf 2 0)
  let mx (F : MxFmt) (w : Bool) := let b := mxQuant F xs z; (packEls w b.els, bytesOf 1 b.h0 ++ bytesOf 3 0)
  match m with
  | .tx8 => tx true
  | .tx4 => tx false
  | .e4m3 => mx e4m3 true
  | .e5m2 => mx e5m2 true
  | .e2m1 => mx e2m1 false
  | .ob8 => let b := obQuant true xs z; (packEls true b.els, bytesOf 2 b.h0 ++ bytesOf 1 b.h1 ++ bytesOf 1 0)
  | .f32 => ([], [])
  | .bf16 => ([], [])

/-- A drained row: its elements' bytes and its side words (R374). -/
def drainOne (s : State) (p : Pair) (o : MatOp) (m : DrainFmt) (int : Bool) (rbcb scv : Word) (i : Nat) : List Byte × List Byte :=
  let ys := (List.range 128).map (drainVal s p o int scv i)
  match m with
  | .f32 => (ys.flatMap (fun y => bytesOf 4 (f32.roundNE y)), [])
  | .bf16 => (ys.flatMap (fun y => bytesOf 2 (bf16.roundNE y)), [])
  | m =>
    let seed := (s.hdr (((s.team o.team).map (·.kern)).getD 0)).seed
    let id := BitVec.ofNat 64 (uv rbcb / 65536 * 2 ^ 32 + uv rbcb % 65536 * 2 ^ 16 + i)
    let bs := (List.range 4).map (fun β => drainBlock m ((ys.drop (32 * β)).take 32)
      (fun e => draw domTile seed id (BitVec.ofNat 64 (32 * β + e))))
    (bs.flatMap (·.1), bs.flatMap (·.2))

/-- The effect of an operation on its tile or its destinations, and whether an integer sum wrapped. -/
def matrixEffect (key : Nat) (o : MatOp) (s : State) : State × Bool :=
  let p := (Tbl.find s.pairs key).getD {}
  let put (q : Pair → Pair) (s : State) : State := { s with pairs := Tbl.modify q s.pairs key }
  match o.k with
  | .zero => (put (fun q => q.setTile o.tile (fun _ _ => 0)) s, false)
  | .mma m kc ra ta oa da tb ob db =>
    let r := mmaResult s p o m kc ra ta oa da tb ob db
    (put (fun q => q.setTile o.tile (fun i j => (r i j).1)) s,
     mmaIntPath m && (List.range 16384).any (fun k => (r (k / 128) (k % 128)).2))
  | .drain m int zero edst epitch sdst rbcb scv =>
    let rows := (List.range 128).map (drainOne s p o m int rbcb scv)
    let s := rows.zipIdx.foldl (fun s x =>
      writeWin o.team (uv sdst + 16 * x.2) x.1.2 (writeWin o.team (uv edst + x.2 * uv epitch) x.1.1 s)) s
    (if zero then put (fun q => q.setTile o.tile (fun _ _ => 0)) s else s, false)

/-- The elements of the operation's tile that an ACCWR touched before its start, and what depends on them, become free
values (R193). -/
def touchedFree (key : Nat) (o : MatOp) (s : State) : State :=
  match o.k with
  | .drain m _ zero e ep sd _ _ =>
    let s := freeWin o.team ((o.touched.flatMap (fun x => drainBytes m (uv e) (uv ep) (uv sd) x.1 x.2)).eraseDups) s
    if zero then freeTile key o.tile o.touched s else s
  | _ => freeTile key o.tile o.touched s

/-! ## START and RETIRE -/

/-- The first operation that has not started, in queue order. -/
def Pair.nextOp (p : Pair) : Option MatOp := p.queue.find? (fun o => !o.started)

/-- The operation needs its ready fence open. -/
def MatOp.needsReady (o : MatOp) : Bool :=
  match o.k with
  | .zero => false
  | .mma _ _ _ _ _ _ _ _ _ => true
  | .drain _ _ _ _ _ _ _ scv => scv != 0xFFFFFFFF

/-- An operation as it starts: the cells that supply rows of A from registers are those live now. -/
def MatOp.begin (s : State) (o : MatOp) : MatOp :=
  { o with started := true, rows := (((s.wave o.wave).map (fun w : Wave => w.live)).getD 0).setWidth 128 }

/-- What the start of an operation makes of those before it on its tile: a drain depends on them, and a clearing ends what they left. -/
def MatOp.followed (x : MatOp) (o : MatOp) : MatOp :=
  if o.tile == x.tile && o.started && o.id != x.id && !o.gone then
    { o with
      drains := match x.k with
        | .drain m _ _ e ep sd _ _ => (x.team, m, uv e, uv ep, uv sd) :: o.drains
        | _ => o.drains
      gone := x.k.clears }
  else o

/-- A drain starts once the operation before it has retired (R367). -/
def MatOp.alone (o : MatOp) : Bool :=
  match o.k with
  | .drain _ _ _ _ _ _ _ _ => true
  | _ => false

/-- MATRIX_START: the next operation of a pair's queue starts (R360, R367). -/
def matrixStartStep (key : Nat) (s : State) : Option State :=
  match Tbl.find s.pairs key with
  | none => none
  | some p =>
    match p.nextOp with
    | none => none
    | some o =>
      if (o.needsReady && !o.opened) || (o.alone && p.queue.any (·.started)) || !s.engineRuns (key / 160) then none
      else
        let mod (g : MatOp → MatOp) (s : State) : State :=
          { s with pairs := Tbl.modify (fun q => { q with queue := q.queue.map (fun x => if x.id == o.id then g x else x) })
                     s.pairs key }
        let s := mod (MatOp.begin s) { s with pairs := Tbl.modify (fun q => { q with
          queue := q.queue.map o.followed, settled := q.settled.map o.followed }) s.pairs key }
        let (s, wrapped) := matrixEffect key o s
        some (mod (fun x => { x with ovf := wrapped }) (touchedFree key o (spoil key o o.dirtyA o.dirtyB s)))

/-- A team that has ended keeps its window while an operation reads it (R364). -/
def zeroEnded (s : State) : State :=
  { s with teams := Tbl.mapVals (fun j t => if t.st == .ended && !windowRead s j then { t with win := [] } else t) s.teams }

/-- RETIRE: the first started operation of a pair's queue retires (R360). -/
def retireStep (key : Nat) (s : State) : Option State :=
  match Tbl.find s.pairs key with
  | none => none
  | some p =>
    match p.queue.find? (·.started) with
    | none => none
    | some o =>
      let live := ((s.team o.team).map (fun t => t.st != .ended)).getD false
      let s := { s with pairs := Tbl.modify (fun q => { q with
        queue := q.queue.filter (fun x => x.id != o.id)
        settled := if live then q.settled ++ [o] else q.settled }) s.pairs key }
      let s := if o.ovf then s.modWave o.wave (·.mark 48) else s
      some (zeroEnded s).pairsIdle

/-- MATRIX_START (R367). -/
def execMatrixStart (pair : Nat) (s : State) : Host.Outcome State Fault Refusal := .next ((matrixStartStep pair s).getD s)
/-- RETIRE (R360). -/
def execRetire (pair : Nat) (s : State) : Host.Outcome State Fault Refusal := .next ((retireStep pair s).getD s)

end Sys2Proof.Machine
end

