-- ==== Sys2Proof/Machine/Det.lean ====
section
/-! DEFINITION. Deterministic mode: quanta, rounds and their commit, external waits, the floating-point token and DETLOCK
(spec/11_group.md R230-R235, spec/13_ordering.md R266, spec/12_barrier.md R242, spec/24_traps.md R409). TURN of a team is
the F1 value of the wave whose quantum runs, the number of waves while the round commits, and one more from then until
the next round begins. -/
namespace Sys2Proof.Machine

/-! ## What a wave waits for -/

/-- The words that end a quantum whether they complete or wait (R230). -/
def endsQuantum (i : Instr) : Bool :=
  match i with
  | .step | .yield | .exit | .acq | .mrdy => true
  | .barr _ _ | .bwait _ | .bsync _ _ | .cbtake _ _ | .xchg _ _ _ | .hwait _ | .hwaitRet _ | .mwait _ => true
  | .rwait _ _ _ | .swplan _ _ | .swstat _ => true
  | _ => false

/-- The instruction words that a wave is to issue next. -/
def nextWords (s : State) (w : Wave) : List Instr :=
  match fetch s w w.pc with
  | .chain ps _ => (chosen w ps).map (·.2.2)
  | _ => []

/-- The issue checks of the words that may wait. -/
def waitGate (i : Instr) (n : Nat) (w : Wave) (s : State) : Gate :=
  match i with
  | .bwait b => if !(s.barOf w b.toNat).st then .trap 7 (barArg b.toNat) else barWait s w b.toNat
  | .bsync h b => bsyncGate h.toNat b.toNat n w s
  | .hwait h => hwaitGate h.toNat false n w s
  | .hwaitRet h => hwaitGate h.toNat true n w s
  | .rwait _ _ h => rwaitGate h.toNat n w s
  | .mwait t => if matrixPending s w (mwaitIds s w t.toNat) then .wait [] else .ok
  | .cbtake _ c => if (s.cbufOf w c.toNat).slots = 0 ∨ 0 < (s.cbufOf w c.toNat).nfil then .ok else .wait []
  | .xchg _ a b => xchgGate a b s n w
  | .acq => acqGate n w s
  | .step => stepGate s w
  | .exit => exitGate s w
  | .launch t r => launchGate t r.toNat n w s
  | .tcpy f => tcpyGate f n w s
  | .swplan a b => swplanGate a b n w s
  | .swstat a => swstatGate a n w s
  | .mzero _ => matrixGate s w false .ok
  | .mma m o => mmaGate m o w s
  | .mdrain _ _ _ _ _ => matrixGate s w false .ok
  | _ => .ok

/-- A resource that a word waits for before issue is exhausted: an entry of a sequencer or a sequencer (R272). -/
def jammed (w : Wave) (is : List Instr) : Bool :=
  let makes (i : Instr) : Bool := match i with
    | .hfork _ _ => true
    | .hjoin _ _ _ => true
    | .hrecv _ _ => true
    | _ => false
  w.st == .waiting && w.hold.isNone && ((is.length == 1 && !chainRoom w is) || (w.freeSlot.isNone && is.any makes))

/-- The wave could issue its next chain, or would take a fault, as the state stands. -/
def canGo (s : State) (n : Nat) (w : Wave) : Bool :=
  match fetch s w w.pc with
  | .unmapped => false
  | .badTarget => true
  | .illegal _ => true
  | .chain _ _ =>
    match nextWords s w with
    | [i] => (gate i w s (waitGate i n w.prior s)).goes && !jammed w [i]
    | is => (verdictOf w (is.map (fun i => (0, 0, i, gate i w s (waitGate i n w s))))).2.2.goes && !jammed w is

/-- No step of a team's sequencers and buffers is enabled. -/
def orderingIdle (s : State) (t : Nat) : Bool := (s.teamWaves t).all (fun p => (waveStep p.1 s).isNone)

/-- An operation goes on without any wave of its team: it is accepted, is not PAUSED, and waits for no slot that a wave would
have to free. -/
def Op.going (s : State) (o : Op) : Bool :=
  (o.st == .queued || o.st == .running || o.st == .stopping) && (match o.k with
    | .copy _ _ cbe cix _ => !cbe || o.slot.isSome || decide (0 < (((s.team o.team).map (fun (t : Team) => t.cbuf cix)).getD {}).room)
    | _ => true)

/-- A wave has an operation that goes on, other than a contribution to a reduction. -/
def inPlace (s : State) (n : Nat) : Bool :=
  s.ops.any (fun o => o.2.marks.any (fun m => m.wave == n) && o.2.going s && (match o.2.k with
    | .remote r => r.col != 2
    | _ => true))

/-- A matrix issue waits for its queue or for a team to be placed: that stalls the wave in place (spec/20_matrix.md R379). -/
def matrixStall (s : State) (n : Nat) (w : Wave) : Bool :=
  !w.holdsUp ((nextWords s w).flatMap (fun i => i.srcs ++ i.dsts)) && (nextWords s w).any (fun i => match i with
    | .mzero _ => waitGate i n w s == .pend
    | .mma _ _ => waitGate i n w s == .pend
    | .mdrain _ _ _ _ _ => waitGate i n w s == .pend
    | _ => false)

/-- The wave waits, and only the commit of its round or a later round can end the wait: its quantum ends. -/
def boundToRound (s : State) (n : Nat) (w : Wave) : Bool :=
  w.st == .stalled || w.offer.isSome || (w.hold.isSome && (nextWords s w).any endsQuantum) ||
  (w.st == .waiting && orderingIdle s w.team && !inPlace s n && !matrixStall s n w)

/-! ## What a quantum's waits are tested against (R231) -/

/-- The view of a wave whose quantum begins now. -/
def State.viewOf (s : State) (n : Nat) (w : Wave) : View where
  next := w.nextId
  out := w.standing.map (·.id) ++ (w.buf ++ s.stagedOf n w).map (·.id)
  serial := s.serial
  ops := ((((Tbl.find s.pairs (s.pairOf w)).getD {}).queue ++ (((s.team w.team).map (·.frozen)).getD [])).filter
    (fun o => o.team == w.team)).map (·.id)
  behind := (nbrSet (s.hdr w.kern) w).filter (fun i => s.standNow w i == .behind)
  offers := (s.waves.filter (fun p => p.2.kern == w.kern && ((s.offers p.2).map (·.partner)) == some w.idx)).map (·.2.idx)
  phases := (List.range 16).foldl (fun m b => NMap.set 0 m b (s.barOf w b).ph) []

/-- The first attempt of a wave to issue in its quantum fixes its view (R231, notes/assumptions/100.md). -/
def openView (n : Nat) (s : State) : State :=
  match s.wave n with
  | none => s
  | some w => if (s.hdr w.kern).det && w.view.isNone then s.modWave n (fun x => { x with view := some (s.viewOf n w) }) else s

/-! ## External waits (R232, R242, R282, R379, R453, R478) -/

/-- The entries that stand in the wave's sequencers, oldest first, each with its sequencer. -/
def Wave.inOrder (w : Wave) : List (Nat × Entry) :=
  sortBy (·.2.id) (w.seqs.flatMap (fun q => q.2.entries.map (fun e => (q.1, e))))

/-- An entry at sequencer `q` is not PERFORMED before an older one at `p` is: they share the sequencer or a byte, the younger is a fence
over every handle, or a gate that waits for the older (spec/13_ordering.md R252, R254, R258, R260). -/
def waitsFor (s : State) (n : Nat) (w : Wave) (y x : Nat × Entry) : Bool :=
  decide (x.2.id < y.2.id) && (x.1 == y.1 || meets (touched s n w x.2.k) (touched s n w y.2.k) || (match y.2.k with
    | .fence _ every _ _ => every
    | .gateFork ids => ids.contains x.2.id
    | _ => false))

/-- An entry itself waits for an external party: an operation that goes on, a pass that is not delivered, a pass that another team's
table has no room for, or an HRECV gate (`gate` judges those). -/
def selfExternal (s : State) (w : Wave) (gate : BitVec 16 → Bool) (x : Nat × Entry) : Bool :=
  match x.2.k with
  | .op o => x.2.st == .handedOff && ((s.op o).map (fun x => x.going s)).getD false
  | .remote o => x.2.st == .handedOff && ((s.op o).map (fun x => x.going s)).getD false
  | .gateRecv key => gate key
  | .fence .system _ _ _ => w.passed.any (fun y => decide (y.1 < x.2.id))
  | .pass recv key => recv / (s.hdr w.kern).waves != w.idx / (s.hdr w.kern).waves && !passTaken s w x.1 recv key
  | _ => false

/-- The wave's entries that wait for an external party, themselves or behind another. DEDUCED: an HRECV gate does, unless a team-mate
holds a pass that matches it and that does not itself wait for one; with `free` no gate does (notes/assumptions/95.md). `fuel` bounds
the waves that such passes go through. -/
def externals (s : State) (free : Bool) : Nat → Nat → Wave → List Nat
  | fuel, n, w =>
    let gate (key : BitVec 16) : Bool := !free && (match fuel with
      | 0 => true
      | k + 1 => !(s.teamWaves w.team).any (fun p => p.1 != n && p.2.standing.any (fun e =>
          e.k == .pass w.idx key && !(externals s free k p.1 p.2).contains e.id)))
    let es := w.inOrder
    es.foldl (fun xs y =>
      if xs.contains y.2.id then xs
      else if selfExternal s w gate y || es.any (fun x => xs.contains x.2.id && waitsFor s n w y x) then y.2.id :: xs
      else xs) []

/-- Those of a list of waves that are outside a wave's team. -/
def outside (s : State) (w : Wave) (is : List Nat) : List Nat :=
  is.filter (fun i => i / (s.hdr w.kern).waves != w.idx / (s.hdr w.kern).waves)

/-- The neighbours of a wave outside its team. -/
def outsiders (s : State) (w : Wave) : List Nat := outside s w (nbrSet (s.hdr w.kern) w)

/-- The waves that hold the cells which a neighbour operand of the active cells reads (spec/06_cell.md R123). -/
def readWaves (s : State) (w : Wave) (ax : Nat) (plus : Bool) : List Nat :=
  let h := s.hdr w.kern
  ((cellsOf w.active).filterMap (fun f => match h.neighbour (w.wid h f) ax plus with
    | .cell c => some (c / h.cells)
    | _ => none)).eraseDups

/-- The external part of a word's wait does not hold; with `free` HRECV gates are left out of account. -/
def externalWait (free : Bool) (i : Instr) (n : Nat) (w : Wave) (s : State) : Bool :=
  let ids (xs : List Nat) := xs.any (externals s free 16 n w).contains
  match i with
  | .step => s.setStand w (outsiders s w) == .behind
  | .exit => s.setStand w (outsiders s w) == .behind
  | .hwait h => ids (hwaitIds s n w h.toNat)
  | .hwaitRet h => ids (hwaitIds s n w h.toNat)
  | .rwait _ _ h => ids (match w.hold with
      | some x => x.data
      | none => remoteIds w h.toNat)
  | .launch _ r => ids (launchArgs s n w r.toNat).2.2
  | .tcpy _ => ids ((w.hold.map (·.data)).getD [])
  | .swplan a _ => ids (swplanIds a.toNat s n w) || s.plans.any (fun p => p.2.st == 6 && p.2.wave == some n)
  | .swstat a => (match swstatGate a n w s with
      | .wait _ => true
      | _ => false)
  | .mwait t => matrixPending s w (mwaitIds s w t.toNat)
  | .cbtake _ c =>
    (s.cbufOf w c.toNat).nfil == 0 && s.ops.any (fun o => o.2.team == w.team && o.2.going s && (match o.2.k with
      | .copy _ _ cbe cix _ => cbe && cix == c.toNat
      | _ => false))
  | .xchg _ a b => (match xchgGate a b s n w with
      | .offer _ _ => true
      | _ => false)
  | .bwait b => !(s.barOf w b.toNat).ready w.f1 && decide ((s.barOf w b.toNat).xa < uv (s.barOf w b.toNat).e)
  | .bsync _ b => !(s.barOf w b.toNat).ready w.f1 && decide ((s.barOf w b.toNat).xa < uv (s.barOf w b.toNat).e)
  | _ =>
    match i.bop? with
    | some (.nbr ax plus _, _) => s.setStand w (outside s w (readWaves s w ax.num plus)) == .behind
    | _ => false

/-- A wave holds its team's next round back: it is HELD, or the external part of its wait does not hold. -/
def holdsRound (free : Bool) (s : State) (n : Nat) (w : Wave) : Bool :=
  w.st == .held || ((w.st == .waiting || w.st == .stalled) && (nextWords s w).any (fun i => externalWait free i n w s))

/-! ## Quanta -/

/-- The team is on its core and runs. -/
def Team.goes (t : Team) : Bool := t.st == .resident && !t.haltD && !t.haltP

/-- The wave has nothing to run in a round. -/
def Wave.idle (t : Team) (w : Wave) : Bool := w.past || w.qended || (t.haltF && !w.hmode)

/-- The least F1 value, at least `f`, of a wave that still runs in this round. -/
def nextTurn (s : State) (t : Nat) (tm : Team) (f : Nat) : Nat :=
  ((s.teamWaves t).filter (fun p => !p.2.idle tm && decide (f ≤ p.2.f1))).foldl (fun m p => min m p.2.f1) (s.hdr tm.kern).waves

/-- QUANTUM_END: the wave whose turn it is has ended its quantum; the next wave's begins, or the round commits. In a halt for a
fault every quantum of a handler is followed by a commit (spec/13_ordering.md R267). -/
def quantumEnd (t : Nat) (s : State) : Option State :=
  match s.team t with
  | none => none
  | some tm =>
    let h := s.hdr tm.kern
    let done := match (s.teamWaves t).find? (fun p => p.2.f1 == tm.turn) with
      | some p => p.2.idle tm
      | none => true
    if h.det && tm.goes && decide (tm.turn < h.waves) && done then
      some (s.modTeam t (fun x => { x with turn := if x.haltF then h.waves else nextTurn s t tm (x.turn + 1) }))
    else none

/-- QUANTUM_END (R230). -/
def execQuantumEnd (t : Nat) (s : State) : Host.Outcome State Fault Refusal := .next ((quantumEnd t s).getD s)

/-! ## The commit (R231, R266) -/

/-- The round whose effects the team drains: behind the last commit of a round still that round, until the next begins. -/
def Team.draining (h : Header) (tm : Team) : Nat := if tm.turn = h.waves + 1 then tm.round - 1 else tm.round

/-- The team holds the floating-point token in the round that it drains (R233). -/
def tokenHere (s : State) (tm : Team) : Bool :=
  match s.kern tm.kern with
  | some k => k.token == tm.idx && k.cycle == tm.draining k.hdr
  | none => false

/-- Take an entry out of the commit stage. -/
def unstage (t : Nat) (x : Staged) (s : State) : State :=
  s.modTeam t (fun tm => { tm with stage := tm.stage.filter (fun y => y.wave != x.wave || y.id != x.id) })

/-- COMMIT of one entry; none while it has to wait. A pass for which its receiver's table has no room, or whose receiver is not placed, is
QUEUED again (spec/14_handle.md R272, R275). -/
def commitEntry (t : Nat) (tm : Team) (x : Staged) (s : State) : Option State :=
  let s1 := unstage t x s
  match x.k with
  | .access a =>
    (match a.kind with
     | .atom op =>
       if op.isFloat && !tokenHere s tm then none
       else some (settleWave x.wave ((atomEffect x.wave t a op s1).modWave x.wave (·.clearPend x.id)))
     | _ => some (settleWave x.wave (storeEffect t a s1)))
  | .arrival b =>
    (match s.wave x.wave with
     | some w => some (settleWave x.wave (s1.modTeam t (fun m => (m.veilArrive x.wave x.id b (m.bar b).ph).arrive b w.f1)))
     | none => some s1)
  | .op i =>
    (match s.op i with
     | none => some s1
     | some o =>
       if (o.marks.filter (fun m => m.wave == x.wave && m.id == x.id)).all (fun m => sliceReady s1 m o) then
         let s2 := setEntry x.wave x.id .handedOff s1
         some ((acceptOp i s2).getD s2)
       else none)
  | .remote i =>
    (match s.op i with
     | none => some s1
     | some o => if o.needsToken && !tokenHere s tm then none else acceptRem i s1)
  | .pass recv key =>
    (match s.wave x.wave with
     | none => some s1
     | some w =>
       match w.placeOf x.id with
       | none => some s1
       | some (q, e) =>
         if !passReady s1 x.wave w q e recv then none
         else if passTaken s1 w q recv key then passEffect x.wave w q e recv key s1 else some s1)
  | .launch q tr d pkt => (launchCommit x q tr d pkt s1).map (settleWave x.wave)
  | .acq => some (s1.modTeam t (fun m => { m with reqs := m.reqs ++ [x.wave] }))
  | .rel => some (settleWave x.wave (s1.modTeam t (fun m => { m with free := m.free + 1 })))
  | .abort q =>
    (match s.wave x.wave with
     | none => some s1
     | some w =>
       match swageAtHead s w q with
       | none => some s1
       | some (_, o, _) => if o.st == .paused then some (settleWave x.wave (abortAt x.wave q s1)) else none)
  | .resume hnd q plan bar rflg fteam => some (settleWave x.wave (resumeAt hnd q plan bar rflg fteam x.wave s1))
  | _ => some s1

/-- The entry that commits next: ascending WID, each wave's in its program order. -/
def firstStaged (s : State) (tm : Team) : Option Staged :=
  (sortBy (fun x => 2 ^ 40 * ((s.wave x.wave).map (·.idx)).getD 0 + x.id) tm.stage).head?

/-- The end of a round: sets are granted, external arrivals are applied, filled slots become FULL, and every wave sees what another has set
in the round. -/
def endRound (t : Nat) (s : State) : State :=
  let s := grantAll t s
  let s := applyArrived t s
  s.modTeam t (fun x => { x.promoteAll with round := x.round + 1, turn := (s.hdr x.kern).waves + 1, freshB := [], freshC := [] })

/-- COMMIT: the next entry of the round is performed; behind the last one the round is over. What is STAGED at the boundary is
committed there. -/
def commitStep (t : Nat) (s : State) : Option State :=
  match s.team t with
  | none => none
  | some tm =>
    let h := s.hdr tm.kern
    if !h.det || !tm.goes || decide (tm.turn < h.waves) || !orderingIdle s t then none
    else match firstStaged s tm with
      | some x => commitEntry t tm x s
      | none => if tm.turn = h.waves then some (endRound t s) else none

/-- COMMIT (R266). -/
def execCommit (t : Nat) (s : State) : Host.Outcome State Fault Refusal := .next ((commitStep t s).getD s)

/-! ## Round boundaries -/

/-- The team stands at a round boundary with nothing staged. -/
def atBoundary (s : State) (t : Nat) (tm : Team) : Bool :=
  tm.turn == (s.hdr tm.kern).waves + 1 && tm.stage.isEmpty && orderingIdle s t

/-- A pending fault may be delivered: outside handler mode, in deterministic mode at a round boundary (spec/24_traps.md R494,
R411). It reaches a team that is halted or evicted in its image. -/
def faultDue (s : State) (w : Wave) : Bool :=
  !w.pending.isEmpty && !w.hmode && (match s.team w.team with
    | none => false
    | some t => !(s.hdr w.kern).det || atBoundary s w.team t)

/-- What arrived from outside since the round ended is applied, data that remote loads have brought included (spec/26_fabric_ops.md
R453), and sets that have become free are granted. -/
def settleBoundary (t : Nat) (s : State) : State := (applyArrived t (grantAll t s)).modTeam t Team.promoteAll

/-- The next round begins: every wave that is not done has a quantum; in a halt for a fault one wave of those in the handler
has. It begins once no wave holds it back and some wave can go on; with `free` no HRECV gate holds it back. -/
def beginRound (free : Bool) (t : Nat) (s : State) : Option State :=
  match s.team t with
  | none => none
  | some tm =>
    let h := s.hdr tm.kern
    if !h.det || !tm.goes || !atBoundary s t tm then none
    else
      let s := settleBoundary t s
      let tm := (s.team t).getD tm
      let runs := (s.teamWaves t).filter (fun p => !p.2.past && (!tm.haltF || p.2.hmode))
      if runs.any (fun p => holdsRound free s p.1 p.2) || (s.teamWaves t).any (fun p => faultDue s p.2) || !runs.any (fun p => p.2.st == .ready || canGo s p.1 p.2) then none
      else
        let fresh := runs.all (fun p => p.2.qended) || !tm.haltF
        let begin_ (w : Wave) : Wave :=
          if w.team == t && (!tm.haltF || w.hmode) then
            { w with qcount := 0, qended := if fresh then false else w.qended, view := none }
          else w
        let s := { s with waves := Tbl.mapVals (fun _ w => begin_ w) s.waves }
        some (s.modTeam t (fun x => { x with turn := nextTurn s t tm 0 }))

/-- The next round of a team begins (R230, R232). -/
def startRound (t : Nat) (s : State) : Option State := beginRound false t s

/-! ## The token (R233) -/

/-- The team has ended the round of the token's cycle and drained it, or has ended: every quantum of the round is over, none of its
floating-point atomics stands in a sequencer or waits for its COMMIT, and each one sent has been acknowledged
(spec/22_prog_reduce.md R384). -/
def tokenDone (s : State) (t : Nat) (tm : Team) (cycle : Nat) : Bool :=
  let h := s.hdr tm.kern
  let queued := (s.teamWaves t).any (fun p => p.2.standing.any (fun e => e.st == .queued && Staged.needsToken s ⟨p.1, 0, e.id, e.k⟩))
  tm.st == .ended ||
  ((decide (cycle < tm.draining h) ||
      (cycle == tm.draining h && decide (h.waves ≤ tm.turn) && orderingIdle s t && tm.stage.all (fun x => !x.needsToken s) && !queued)) &&
    s.ops.all (fun o => o.2.team != t || o.2.st == .gathering || !o.2.needsToken))

/-- TOKEN_PASS: the teams of this device take turns (notes/assumptions/42.md). -/
def tokenPass (k : Nat) (s : State) : Option State :=
  match s.kern k with
  | none => none
  | some kn =>
    if !kn.hdr.det || !(kn.st == .running || kn.st == .dispatching) then none
    else
      let ts := sortBy id ((s.teams.filter (fun p => p.2.kern == k)).map (fun p => p.2.idx))
      match s.teams.find? (fun p => p.2.kern == k && p.2.idx == kn.token) with
      | none => none
      | some (t, tm) =>
        if tokenDone s t tm kn.cycle && s.teams.any (fun p => p.2.kern == k && p.2.st != .ended) then
          let (next, cyc) := match ts.find? (fun i => decide (kn.token < i)) with
            | some i => (i, kn.cycle)
            | none => (ts.headD 0, kn.cycle + 1)
          some (s.modKern k (fun x => { x with token := next, cycle := cyc }))
        else none

/-- TOKEN_PASS (R233). -/
def execTokenPass (k : Nat) (s : State) : Host.Outcome State Fault Refusal := .next ((tokenPass k s).getD s)

/-! ## DETLOCK (R234) -/

/-- A wave of a quiet run waits: in a word, at a stall, for the round to begin, or for the token. A HALTED wave does not. -/
def quietWave (s : State) (n : Nat) (w : Wave) : Bool :=
  match s.team w.team with
  | none => false
  | some t =>
    w.st == .done || (!(t.haltD || t.haltP || (t.haltF && !w.hmode)) && (w.st == .held ||
      (w.st != .draining && decide ((s.hdr w.kern).waves ≤ t.turn) && (w.st == .ready || !canGo s n w || holdsRound false s n w ||
        (s.teamWaves w.team).any (fun p => holdsRound false s p.1 p.2) || !t.stage.isEmpty))))

/-- Nothing of a run is outstanding in an engine, a matrix pair, the fabric or the halo. -/
def runIdle (s : State) (k : Nat) : Bool :=
  s.ops.all (fun o => o.2.kern != k || !o.2.going s) &&
  s.pairs.all (fun p => p.2.queue.all (fun o => ((s.team o.team).map (·.kern)) != some k)) &&
  s.peers.all (fun p => p.2.out.all (fun o => o.pkt.kern != some k)) &&
  s.channels.all (fun c => c.2.pkts.all (fun p => p.kern != some k)) &&
  s.teams.all (fun t => t.2.kern != k || (coreStep t.2.core s).isNone)

/-- A step of a run's teams is enabled. -/
def runStep (s : State) (k : Nat) : Bool :=
  (tokenPass k s).isSome || s.teams.any (fun t => t.2.kern == k &&
    (!orderingIdle s t.1 || (quantumEnd t.1 s).isSome || (commitStep t.1 s).isSome || (startRound t.1 s).isSome))

/-- The run is quiet, as far as this device can see (R234). -/
def quietRun (s : State) (k : Nat) : Bool :=
  match s.kern k with
  | none => false
  | some kn =>
    kn.hdr.det && kn.st == .running &&
    (s.waves.filter (fun p => p.2.kern == k)).all (fun p => quietWave s p.1 p.2 && !faultDue s p.2) && runIdle s k && !runStep s k

/-- The next round of a team that HRECV gates alone hold back begins once the run is quiet: then no other team or device is to open one
(R232, R282, notes/assumptions/95.md). -/
def freeRound (t : Nat) (s : State) : Option State :=
  match s.team t with
  | none => none
  | some tm => if quietRun s tm.kern then beginRound true t s else none

/-- DETLOCK: the run is quiet, and no round of it can begin; every wave that waits takes the fault, one that waits at its round boundary
for a HELD team-mate or for the token too (R234). -/
def detlockStep (k : Nat) (s : State) : Option State :=
  match s.kern k with
  | none => none
  | some _ =>
    let ws := s.waves.filter (fun p => p.2.kern == k)
    let hit := ws.filter (fun p => !p.2.past && (match s.team p.2.team with
      | some t => t.goes && (!t.haltF || p.2.hmode) &&
          (p.2.st == .waiting || p.2.st == .stalled || p.2.st == .held || heldAtBoundary s p.2)
      | none => false))
    if quietRun s k && s.teams.all (fun t => t.2.kern != k || (freeRound t.1 s).isNone) && !hit.isEmpty then
      some (hit.foldl (fun s p => deliver p.1 20 0 p.2.pc (resumeMask s p.2) s) s)
    else none

/-- DETLOCK (R234). -/
def execDetlock (k : Nat) (s : State) : Host.Outcome State Fault Refusal := .next ((detlockStep k s).getD s)

end Sys2Proof.Machine
end

