-- ==== Sys2Proof/Machine/Sched.lean ====
section
/-! DEFINITION. What a step does: which wave may issue, how it issues its chain, and what comes next when the agenda is
empty (spec/11_group.md R220, R228, R230, spec/13_ordering.md R248, spec/24_traps.md R408). -/
namespace Sys2Proof.Machine

/-- The team lets the wave issue: it is on its core, not halted for the debugger or for pre-emption, and in a halt for
a fault only the waves in the handler and those with skid chains left go on (R222, R408). -/
def teamLets (s : State) (w : Wave) : Bool :=
  match s.team w.team with
  | none => false
  | some t =>
    t.st == .resident && !t.haltD && !t.haltP && (!t.haltF || w.hmode || decide (0 < w.skidLeft)) &&
    (!(s.hdr w.kern).det || (t.turn == w.f1 && !w.qended))

/-- A wave in READY, WAITING or STALLED whose team lets it issue (R220). -/
def mayTry (s : State) (w : Wave) : Bool :=
  teamLets s w && (w.st == .ready || w.st == .waiting || w.st == .stalled)

/-- The chain's place for one of its words. -/
def ctxFor (ph : Phase) (base : ChainCtx) (slot ix : Nat) : ChainCtx :=
  { base with phase := ph, slot := slot, ix := ix,
              wordPc := base.pc - BitVec.ofNat 32 (uv base.pc % 12) + BitVec.ofNat 32 (4 * slot) }

/-- What every word's checks say, in slot order. -/
def probeAll (run : Instr → State → Host.Outcome State Fault Refusal) (base : ChainCtx) (s : State) :
    List (Nat × Nat × Instr) → List (Nat × Nat × Instr × Gate)
  | [] => []
  | (slot, ix, i) :: rest =>
    let g := match run i { s with chain := ctxFor .probe base slot ix } with
      | .next s' => s'.chain.verdict
      | _ => .pend
    (slot, ix, i, g) :: probeAll run base s rest

/-- The scoreboard holds a register of the chain (R53). -/
def chainHeld (w : Wave) (ws : List (Nat × Nat × Instr)) : Bool :=
  w.hold.isNone && w.holdsUp (ws.flatMap (fun x => x.2.2.srcs ++ x.2.2.dsts))

/-- The wave waits in one word of a chain whose other words issue (R495); the word's sources are those of before the chain. -/
def holdWord (n ix : Nat) (pc : Word) (d : List Nat) (src : Option Wave) (s : State) : State :=
  s.modWave n (fun w => { w with
    pc := pc, st := .waiting, redo := BitVec.ofNat 3 (2 ^ ix)
    hold := some { idx := ix, data := d, src := src.map (fun x => (x.s, x.d)) } })

/-- Every word of the chain takes effect in slot order; one that waits holds the wave instead. DESIGN CHOICE: of two words of one chain
that draw a random number, the one in the earlier slot draws at the lower counter value (notes/assumptions/105.md). -/
def commitAll (run : Instr → State → Host.Outcome State Fault Refusal) (n : Nat) (base : ChainCtx) (s : State) :
    List (Nat × Nat × Instr) → Host.Outcome State Fault Refusal
  | [] => .next s
  | (slot, ix, i) :: rest =>
    let waits := if waitsInChain i then
        (match run i { s with chain := ctxFor .probe base slot ix } with
         | .next s' => (match s'.chain.verdict with
           | .wait d => some d
           | _ => none)
         | _ => none)
      else none
    match waits with
    | some d => commitAll run n base (holdWord n ix base.pc d base.src s) rest
    | none =>
      match run i { s with chain := ctxFor .commit base slot ix } with
      | .next s' => commitAll run n base s' rest
      | o => o

/-- What holds back a chain of several words, with the slot and the place of the word that does. -/
def chainVerdict (run : Instr → State → Host.Outcome State Fault Refusal) (w : Wave) (base : ChainCtx) (s : State)
    (ws : List (Nat × Nat × Instr)) : Nat × Nat × Gate :=
  if chainHeld w ws then ((ws.head?.map (·.1)).getD 0, 0, .pend) else verdictOf w (probeAll run base s ws)

/-- The words issue: one word is run on its own; of several, every word is checked before any takes effect. -/
def runChain (run : Instr → State → Host.Outcome State Fault Refusal) (n : Nat) (w : Wave) (base : ChainCtx) (s : State)
    (ws : List (Nat × Nat × Instr)) : Host.Outcome State Fault Refusal :=
  match ws with
  | [(slot, ix, i)] => run i { s with chain := ctxFor .direct base slot ix }
  | _ =>
    match chainVerdict run w base s ws with
    | (_, _, .ok) =>
      match commitAll run n { base with src := some w } ({ s with chain := base }.pass n) ws with
      | .next s' => .next { s' with chain := { s'.chain with verdict := .ok } }
      | o => o
    | (slot, ix, g) => .next (turnAway n g { s with chain := ctxFor .direct base slot ix })

/-- After a chain that issued: its words count for the quantum, for the time of deterministic mode and for the skid,
and the wave becomes the youngest of its core, but for one whose TRET has resumed its team (R213, R228, R230, R408). A wait that issued
no word counts nothing, and the word in which a chain has waited is no chain of its own (spec/03_formats.md R495). -/
def account (n words : Nat) (before : Wave) (s : State) : State :=
  let t := s.serial + 1
  let again := (before.hold.bind (·.src)).isSome
  { s.modWave n (fun w =>
      { w with age := if before.hmode && !w.hmode then 0 else t
               qcount := w.qcount + words, time := w.time + BitVec.ofNat 64 words
               skid := if w.hmode || before.skidLeft == 0 || again then w.skid else w.skid + 1
               skidLeft := if w.hmode then w.skidLeft else if again then before.skidLeft else before.skidLeft - 1 }) with serial := t }

/-- The chain is over. -/
def State.idle (s : State) : State := { s with cur := none, chain := {} }

/-- In deterministic mode the quantum ends at such a word, whether it completes or waits, at the Q-th word, at a stall, and
at a chain that waits for what only the round's commit can bring (R230). -/
def closeQuantum (n : Nat) (ws : List (Nat × Nat × Instr)) (s : State) : State :=
  match s.wave n with
  | none => s
  | some w =>
    let h := s.hdr w.kern
    let past := match s.chain.verdict with
      | .ok => ws.any (fun x => endsQuantum x.2.2) || decide (h.quantum ≤ w.qcount)
      | .wait _ => ws.any (fun x => endsQuantum x.2.2) || boundToRound s n w
      | .pend => boundToRound s n w
      | _ => true
    if h.det && past then s.modWave n (fun w => { w with qended := true, view := none }) else s

/-- The word writes a register V32 to V63 as it issues: a load, an atomic and RESQ write theirs later. -/
def writesHigh (i : Instr) : Bool :=
  match i with
  | .ld _ _ _ | .ldt _ _ | .atom _ _ _ | .atomBitwise _ _ _ | .atomFloat _ _ _ | .resq _ _ => false
  | _ => i.dsts.any (fun r => match r with
    | .v n => decide (32 ≤ n)
    | _ => false)

/-- What a wave's chain has brought it from waves of other clusters of its die crosses the die mesh: the cells that a neighbour operand
reads, and the values of an exchange (spec/01_device.md R25, spec/09_isa_memory.md R199, notes/assumptions/94.md). -/
def meshTraffic (before : Wave) (ws : List (Nat × Nat × Instr)) (s : State) : State :=
  let send (idx words : Nat) (s : State) : State :=
    match (s.waveAt before.kern idx).bind (fun x => s.placedCore x.2.team), s.placedCore before.team with
    | some c, some e => s.sendMesh (clusterOf c) (clusterOf e) words
    | _, _ => s
  ws.foldl (fun s x =>
    match x.2.2 with
    | .xchg _ _ b => send (uv (b.val before)) (cellsOf before.active).length s
    | i => match i.bop? with
      | some (.nbr ax plus _, _) =>
        (readWaves s before ax.num plus).foldl (fun s idx => if idx = before.idx then s else send idx (cellsOf before.active).length s) s
      | _ => s) s

/-- The effect of an issue attempt on the wave's counts, from the verdict that the words left behind. A word that still
waits has not retired. -/
def settleIssue (n : Nat) (before : Wave) (ws : List (Nat × Nat × Instr)) (s : State) : State :=
  let waits := match (s.wave n).bind (·.hold) with
    | some _ => 1
    | none => 0
  let s' := match s.chain.verdict with
    | .ok =>
      let s := meshTraffic before ws (account n (ws.length - waits) before s)
      if ws.any (fun x => writesHigh x.2.2) then raWrite n (cellsOf before.active) s else s
    | _ => s
  (closeQuantum n ws s').idle

/-- Change the state that an outcome answers with. -/
def after (g : State → State) : Host.Outcome State Fault Refusal → Host.Outcome State Fault Refusal
  | .next s => .next (g s)
  | o => o

/-- An illegal word raises ILLOP before its chain issues, with its slot (spec/04_opcode_map.md R77, R79). -/
def illegalWord (slot : Nat) (s : State) : State := takeFault 0 (BitVec.ofNat 32 slot) s

/-- The oldest pending fault of a wave is delivered, alone (R494), with the PC of the chain it would issue next and the
mask of R268. That of a wave that has left its program meanwhile goes to the lowest live wave of the team; with none the kernel escalates
(spec/24_traps.md R414). -/
def deliverPending (n : Nat) (s : State) : State :=
  match s.wave n with
  | none => s
  | some w =>
    if faultDue s w then
      match w.pending with
      | [] => s
      | f :: fs =>
        let s := s.modWave n (fun w => { w with pending := fs })
        if w.past then
          match liveWave s w.team with
          | some m => pendFault m f.cause f.arg s
          | none => escalate n w.pc f.arg (s.modWave n (·.mark f.cause))
        else deliver n f.cause f.arg w.pc (resumeMask s w) s
    else s

/-- A wave tries to issue its next chain. -/
def issueWave (run : Instr → State → Host.Outcome State Fault Refusal) (n : Nat) (s : State) :
    Host.Outcome State Fault Refusal :=
  match s.wave n with
  | none => .next s
  | some w =>
    if !mayTry s w then .next s
    else if faultDue s w then .next (deliverPending n s)
    else
      match fetch s w w.pc with
      | .unmapped => .next s
      | .badTarget => .next (deliver n 1 w.pc (badFetchPc s w) 0 s)
      | .illegal slot => .next (illegalWord slot { s with cur := some n, chain := { pc := w.pc } }).idle
      | .chain ps next =>
        let ws := chosen w ps
        let s := openView n s
        let w := (s.wave n).getD w
        after (settleIssue n w ws) (runChain run n w { pc := w.pc, next := next } { s with cur := some n } ws)

/-- The wave's chain could issue now, or would take a fault. -/
def couldIssue (run : Instr → State → Host.Outcome State Fault Refusal) (n : Nat) (s : State) : Bool :=
  match s.wave n with
  | none => false
  | some w =>
    if !mayTry s w then false
    else if faultDue s w then true
    else
      match fetch s w w.pc with
      | .unmapped => false
      | .badTarget => true
      | .illegal _ => true
      | .chain ps next =>
        let base : ChainCtx := { pc := w.pc, next := next }
        let s := { s with cur := some n }
        let ws := chosen w ps
        match ws, probeAll run base s ws with
        | [_], [(_, _, _, g)] => g.goes
        | _, _ => (chainVerdict run w base s ws).2.2.goes

/-- The oldest of two candidates: the earlier last issue, then the lower logical index (R228). -/
def older (a b : Nat × Wave) : Nat × Wave := if b.2.age < a.2.age ∨ (b.2.age = a.2.age ∧ b.2.idx < a.2.idx) then b else a

/-- The oldest of a list. -/
def oldest : List (Nat × Wave) → Option (Nat × Wave)
  | [] => none
  | x :: xs => some (xs.foldl older x)

/-- The wave that issues next: a READY wave, or one whose wait or stall has ended (R228); in deterministic mode also one whose
quantum its wait is to end. -/
def nextWave (run : Instr → State → Host.Outcome State Fault Refusal) (s : State) : Option Nat :=
  (oldest (s.waves.filter (fun p =>
    mayTry s p.2 && (p.2.st == .ready || couldIssue run p.1 s || ((s.hdr p.2.kern).det && boundToRound s p.1 p.2))))).map (·.1)

end Sys2Proof.Machine
end

