-- ==== Sys2Proof/Machine/Context.lean ====
section
/-! DEFINITION. Contexts: their commands, turns and halts, QUENCH and teardown, memory blocks and errors of shared
structures; the debugger and the deliveries that stand on the agenda (spec/23_context.md R389-R406, spec/24_traps.md
R410-R413, spec/25_link.md R433, spec/17_page.md R328). -/
namespace Sys2Proof.Machine

/-! ## QUENCH (R399) -/

/-- Every request of a virtual function leaves the engines, the fabric port and the reduce units; what has been sent stays for the
order of its pair alone. The crossbar's channels lose what waits for them (R405). -/
def State.dropTraffic (s : State) (vf : Nat) : State :=
  let mine (p : Packet) : Bool := uv p.head.src == s.dev && uv p.head.vf == vf
  { s with
    ops := s.ops.filter (fun o => o.2.vf != vf)
    peers := Tbl.mapVals (fun _ p => { p with out := (p.out.filter (fun o => o.sent || !mine o.pkt)).map (fun o =>
      if mine o.pkt then { o with pkt := { o.pkt with kern := none, op := none, mark := none } } else o) }) s.peers
    channels := Tbl.mapVals (fun _ c => { c with pkts := c.pkts.filter (fun p => !mine p) }) s.channels
    parked := s.parked.filter (fun p => !mine p.pkt)
    rounds := (Tbl.mapVals (fun _ x => { x with parts := x.parts.filter (fun c => !mine c.pkt) }) s.rounds).filter (fun r =>
      r.2.vf != vf && !r.2.parts.isEmpty)
    xbar := Tbl.mapVals (fun _ c => { c with queued := c.queued.filter (fun x => x.2.vf != vf) }) s.xbar
    cur := none }

/-- The kernels of a virtual function that hold anything. -/
def State.liveKernels (s : State) (vf : Nat) : List Nat :=
  (s.kernels.filter (fun k => k.2.vf == vf && (k.2.st == .translating || k.2.st == .dispatching || k.2.st == .running))).map (·.1)

/-- The queues of a virtual function are CLOSING. -/
def State.closeQueues (s : State) (vf : Nat) : State :=
  let qs := (s.queues.filter (fun q => q.2.vf == vf && q.2.st != .unbound)).map (·.1)
  qs.foldl (fun s q => drainQueue q (s.modQueue q (fun d => { d with st := .closing }))) s

/-- A context that QUENCH can kill. -/
def CtxSt.quenchable : CtxSt → Bool
  | .parked => true
  | .restoring => true
  | .running => true
  | .yielding => true
  | .halting => true
  | _ => false

/-- The images of a context in its save area are zeroed, and nothing of it stands there any more. -/
def State.zeroImages (s : State) (vf : Nat) (c : Ctx) : State :=
  (c.area.foldl (fun s f => s.zeroFrame f) s).modCtx vf (fun c => { c with save := [], saved := [] })

/-- QUENCH with its reason, error class and address: the context's requests are dropped, its kernels end FAILED, its queues are
CLOSING, and what it holds on chip and in its save area is zeroed. -/
def quenchCtx (vf reason cause : Nat) (addr : BitVec 64) (s : State) : State :=
  match s.ctx vf with
  | none => s
  | some c =>
    if c.st.quenchable then
      let s := s.modCtx vf (fun c => { c with st := .quenching, reason := reason, errcause := cause, erraddr := addr })
      let s := (s.liveKernels vf).foldl (fun s k => s.failKernel k 7) s
      ((s.zeroImages vf c).dropTraffic vf).closeQueues vf
    else s

/-- QUENCH (R399): the command, with reason HOST. -/
def execQuench (box vf : Nat) (s : State) : Host.Outcome State Fault Refusal :=
  .next (vfCommand box vf s (fun s =>
    if ((s.ctx vf).map (·.st.quenchable)).getD false then (quenchCtx vf 6 0 0 s).answer box .ok else s.answer box .ctxbadarg))

/-- RESETDONE (R399): no unit holds the context's state. -/
def execResetdone (vf : Nat) (s : State) : Host.Outcome State Fault Refusal :=
  .next (s.modCtx vf (fun c => if c.st == .quenching then { c with st := .failed } else c))

/-- QTIMER (R394): HALTED has not come within QTIME of GRACE. -/
def execQtimer (vf : Nat) (s : State) : Host.Outcome State Fault Refusal :=
  .next (if ((s.ctx vf).map (·.st)) == some .halting then quenchCtx vf 1 0 0 s else s)

/-- A shoot-down waits for older requests of a context: one of its own, a migration's among them, or that of a memory block which its
partition has lost (spec/23_context.md R400). -/
def State.lags (s : State) (vf : Nat) : Bool :=
  ((s.ctx vf).map (fun c => c.shootdown.any (fun x => s.oldInFlight vf x.2))).getD false ||
  s.blocks.any (fun b => b.2.st == .scrubbing && b.2.gens.any (fun x => x.1 == vf && s.oldInFlight vf x.2))

/-- SHOOTDOWN_TIMEOUT (R328): the context whose requests hold a shoot-down back is quenched. -/
def execShootdownTimeout (vf : Nat) (s : State) : Host.Outcome State Fault Refusal :=
  .next (if s.lags vf then quenchCtx vf 5 0 0 s else s)

/-! ## Commands of a context (R391, R396) -/

/-- The state code of a record. -/
def CtxSt.code : CtxSt → Nat
  | .free => 0
  | .parked => 1
  | .restoring => 2
  | .running => 3
  | .yielding => 4
  | .halting => 5
  | .quenching => 6
  | .failed => 7
  | .draining => 8

/-- The 64 bytes of a context record. -/
def Ctx.bytes (c : Ctx) (vf : Nat) : List Byte :=
  bytesOf 1 c.st.code ++ bytesOf 1 vf ++ bytesOf 1 (uv c.part) ++ bytesOf 1 c.reason ++ bytesOf 4 c.slice ++ bytesOf 4 c.grace ++
  bytesOf 4 c.qtime ++ bytesOf 4 c.debt ++ bytesOf 4 c.credit ++ bytesOf 4 (uv c.savegen) ++ bytesOf 4 (uv c.turns) ++
  bytesOf 8 (uv c.erraddr) ++ bytesOf 4 c.errcause ++ bytesOf 20 0

/-- CREATE (R393): a FREE virtual function takes a PARKED context on a partition; Hearth draws its key (R397,
notes/assumptions/90.md). -/
def execCreate (box vf : Nat) (parts : BitVec 4) (s : State) : Host.Outcome State Fault Refusal :=
  .next (vfCommand box vf s (fun s =>
    let old := (s.ctx vf).getD {}
    if old.st ≠ .free ∨ !s.hearth.parts.contains parts then s.answer box .ctxbadarg
    else
      let c : Ctx := {
        st := .parked, part := parts, gen := old.gen, reduced := s.hearth.stage == .reduced, key := Config.contextKey s.tick }
      State.answer { s with ctxs := Tbl.put s.ctxs vf c, tick := s.tick + 1 } box .ok))

/-- CTX_CONFIGURE (R391): SLICE, GRACE and QTIME of a PARKED context, each in its range. -/
def execCtxConfigure (box vf slice grace qtime : Nat) (s : State) : Host.Outcome State Fault Refusal :=
  .next (vfCommand box vf s (fun s =>
    let ok := decide (100 ≤ slice) && decide (slice ≤ 100000) && decide (10 ≤ grace) && decide (grace ≤ slice / 2) &&
      decide (100 ≤ qtime) && decide (qtime ≤ 100000) && ((s.ctx vf).map (·.st)) == some .parked
    if ok then (s.modCtx vf (fun c => { c with slice := slice, grace := grace, qtime := qtime })).answer box .ok
    else s.answer box .ctxbadarg))

/-- CTXREAD (R391): returns the context record. -/
def execCtxread (box vf : Nat) (s : State) : Host.Outcome State Fault Refusal :=
  .next (vfCommand box vf s (fun s => s.answer box .ok (((s.ctx vf).getD {}).bytes vf)))

/-- IMGREAD (R396): returns the images of a PARKED context. -/
def execImgread (box vf : Nat) (s : State) : Host.Outcome State Fault Refusal :=
  .next (vfCommand box vf s (fun s =>
    if ((s.ctx vf).map (·.st)) == some .parked then
      let (bs, t) := imagesOf s ((s.waves.filter (fun w => s.kernVf w.2.kern == vf)).map (·.2)) s.tick
      State.answer { s with tick := t } box .ok bs
    else s.answer box .ctxbadarg))

/-- HNDSET (spec/24_traps.md R410): the context's handler offset. -/
def execHndset (box vf : Nat) (off : Word) (s : State) : Host.Outcome State Fault Refusal :=
  .next (vfCommand box vf s (fun s =>
    if ((s.ctx vf).map (·.st)).getD .free = .free then s.answer box .ctxbadarg
    else (s.modCtx vf (fun c => { c with handler := off })).answer box .ok))

/-- The 32 bytes of an escalation record (spec/24_traps.md R413). -/
def EscRec.bytes (e : EscRec) : List Byte :=
  bytesOf 4 (uv e.kid) ++ bytesOf 4 (uv e.pc) ++ bytesOf 8 (uv e.wid) ++ bytesOf 8 (uv e.cause) ++ bytesOf 4 (uv e.arg) ++
  bytesOf 1 (if e.hm then 1 else 0) ++ bytesOf 3 0

/-- FLTREAD (spec/24_traps.md R413): returns the escalation record. -/
def execFltread (box vf : Nat) (s : State) : Host.Outcome State Fault Refusal :=
  .next (vfCommand box vf s (fun s => s.answer box .ok ((s.ctx vf).getD {}).esc.bytes))

/-! ## Teardown (R393, spec/25_link.md R433) -/

/-- DESTROY (R393): a PARKED or FAILED context is DRAINING. -/
def execDestroy (box vf : Nat) (s : State) : Host.Outcome State Fault Refusal :=
  .next (vfCommand box vf s (fun s =>
    if ((s.ctx vf).map (·.st)) == some .parked || ((s.ctx vf).map (·.st)) == some .failed then
      ((s.modCtx vf (fun c => { c with st := .draining })).closeQueues vf).answer box .ok
    else s.answer box .ctxbadarg))

/-- GEN_BUMP: the generation rises, and a notice follows every earlier packet to each peer of the run (R433). -/
def genBump (vf : Nat) (s : State) : State :=
  let s := s.modCtx vf (fun c => { c with gen := c.gen + 1 })
  let g := s.genOf vf
  (s.peers.filter (fun p => p.2.bind.any (fun b => b.2 == vf))).foldl (fun s p =>
    (s.modPeer p.1 (fun x => { x with allow := NMap.set 256 x.allow vf 256 })).sendPacket p.1 {
      head := { bareFlit 10 with vf := BitVec.ofNat 4 vf, gen := g, payload := bytesOf 1 vf ++ bytesOf 1 (uv g) }
      data := [] }) s

/-- CONTEXT_DRAINED: everything that the context held is gone, its frames and its save area are zeroed (R401), a management command
of it that waits is refused, and its virtual function is FREE. -/
def drainedStep (vf : Nat) (s : State) : State :=
  match s.ctx vf with
  | none => s
  | some c =>
    if c.st = .draining then
      let s := (s.liveKernels vf).foldl (fun s k => s.dropKernel k) s
      let qs := (s.queues.filter (fun q => q.2.vf == vf && q.2.st != .unbound)).map (·.1)
      let s := qs.foldl (fun s q => drainQueue q (s.modQueue q (fun d => { d with st := .closing, ents := [], head := d.tail }))) s
      let s := genBump vf (s.dropTraffic vf)
      let s := (c.frames ++ c.area).foldl (fun s f => s.zeroFrame f) s
      let s := (s.pendWrites.filter (fun p => p.vf == vf)).foldl (fun s p => s.answer p.box .badaddr) s
      let s := (s.pendBinds.filter (fun p => p.vf == vf)).foldl (fun s p => s.answer p.box .qbadarg) s
      { s with
        ctxs := Tbl.put s.ctxs vf { gen := s.genOf vf }
        kernels := s.kernels.filter (fun k => k.2.vf != vf)
        plans := s.plans.filter (fun p => p.2.vf != vf)
        pairs := s.pairs.filter (fun p => p.1 / 160 != vf)
        rounds := s.rounds.filter (fun r => r.2.vf != vf)
        svc := s.svc.filter (fun r => r.1 != vf)
        pendWrites := s.pendWrites.filter (fun p => p.vf != vf)
        pendBinds := s.pendBinds.filter (fun p => p.vf != vf) }
    else s

/-- CONTEXT_DRAINED (R433): replies have come, or 100 µs are over. -/
def execContextDrained (vf : Nat) (s : State) : Host.Outcome State Fault Refusal := .next (drainedStep vf s)

/-! ## Turns (R392, R394, R402-R404) -/

/-- The context has work (R392): a RUNNING kernel, or a bound queue whose head is eligible. -/
def hasWork (s : State) (vf : Nat) : Bool :=
  s.kernels.any (fun k => k.2.vf == vf && k.2.st == .running) ||
  s.queues.any (fun q => q.2.vf == vf && (q.2.st == .opened || q.2.st == .stopped) && (match q.2.ents with
    | k :: _ => ((s.kern k).map (fun x => eligible s x)).getD false
    | [] => false))

/-- The length of a turn in ns (R403). -/
def Ctx.turnNs (c : Ctx) : Int := 1000 * (c.slice : Int) + min c.credit (250 * c.slice) - c.debt

/-- A slice begins: credit is used and debt is paid. -/
def Ctx.begin (c : Ctx) : Ctx :=
  { c with turnLen := c.turnNs.toNat, credit := c.credit - min c.credit (250 * c.slice), debt := 0 }

/-- A context of the partition holds its units. -/
def CtxSt.holds : CtxSt → Bool
  | .free => false
  | .parked => false
  | .failed => false
  | .draining => false
  | _ => true

/-- The contexts of a partition with work that are PARKED, in the order of their turns. -/
def waitingCtxs (s : State) (i : Nat) : List (Nat × Ctx) :=
  let part := s.partAt i
  let last := NMap.get 15 s.lastVf i
  sortBy (fun c => (c.1 + 15 - last) % 16) (s.ctxs.filter (fun c => c.2.st == .parked && c.2.part == part && hasWork s c.1))

/-- No die of the partition is held in reset. -/
def State.diesUp (s : State) (part : BitVec 4) : Bool :=
  (List.range 4).all (fun d => !part.getLsbD d || !((s.dies[d]?).map (·.held)).getD false)

/-- TURN: the next context with work begins its turn, or is skipped when its debt leaves less than GRACE. -/
def turnStep (i : Nat) (s : State) : Option State :=
  let part := s.partAt i
  if s.hearth.failing ∨ part = 0 ∨ !s.diesUp part ∨ s.ctxs.any (fun c => c.2.part == part && c.2.st.holds) then none
  else match waitingCtxs s i with
    | [] => none
    | (vf, c) :: _ =>
      let s := { s with lastVf := NMap.set 15 s.lastVf i vf }
      if c.turnNs < 1000 * (c.grace : Int) then some (s.modCtx vf (fun c => { c with debt := c.debt - 1000 * c.slice }))
      else some (s.modCtx vf (fun c => { c.begin with
        st := .restoring, turns := c.turns + 1, reduced := c.reduced && s.hearth.stage != .full }))

/-- TURN (R392). -/
def execTurn (part : Nat) (s : State) : Host.Outcome State Fault Refusal := .next ((turnStep part s).getD s)

/-- SLICEEND: with work elsewhere on the partition the context yields; else a new slice begins at once (R392). -/
def sliceendStep (vf : Nat) (s : State) : State :=
  match s.ctx vf with
  | none => s
  | some c =>
    if c.st = .running then
      if s.ctxs.any (fun x => x.1 != vf && x.2.part == c.part && x.2.st == .parked && hasWork s x.1) then
        ((s.modCtx vf (fun c => { c with st := .yielding })).stopQueues vf).boundary vf
      else s.modCtx vf Ctx.begin
    else s

/-- SLICEEND (R394). -/
def execSliceend (vf : Nat) (s : State) : Host.Outcome State Fault Refusal := .next (sliceendStep vf s)

/-- The wave stands between chains: no skid is left, and a launch packet that it has read is read again. -/
def Wave.haltPre (w : Wave) : Wave := { w with skidLeft := 0, hold := w.hold.map (fun h => { h with pkt := [] }) }

/-- Every team of a context halts between chains; its plans that are being generated are given up, its matrix operations that
have not started are FROZEN, those that an ended team left among them, and its Tongs operations go back to QUEUED at their next
segment: one that is within a segment finishes it (R395). -/
def haltTeams (vf : Nat) (s : State) : State :=
  let ts := (s.teams.filter (fun t => t.2.vf == vf)).map (·.1)
  let halt (t : Team) : Team := if t.vf == vf then { t with haltP := true } else t
  let stop (o : Op) : Op := if o.vf == vf && o.k.isTongs && o.st == .running && !o.within then { o with st := .queued } else o
  let s := { s with
    teams := Tbl.mapVals (fun _ t => halt t) s.teams
    waves := Tbl.mapVals (fun _ w => if ts.contains w.team then w.haltPre else w) s.waves
    ops := Tbl.mapVals (fun _ o => stop o) s.ops }
  let s := s.dropPlans (fun n => ((s.wave n).map (fun w => ts.contains w.team)).getD false)
  ts.foldl (fun s t => s.freeze t) s

/-- GRACE (R394): an instruction-level halt of every team. -/
def execGrace (vf : Nat) (s : State) : Host.Outcome State Fault Refusal :=
  .next (if ((s.ctx vf).map (·.st)) == some .yielding then haltTeams vf (s.modCtx vf (fun c => { c with st := .halting })) else s)

/-- Every operation that a halt waits for has ended (R395). -/
def haltDone (s : State) (vf : Nat) : Bool :=
  s.pairs.all (fun p => p.1 / 160 != vf || p.2.queue.all (fun o => !o.started)) &&
  s.ops.all (fun o => o.2.vf != vf || (!o.2.within && (match o.2.k with
    | .swage r => r.inflight.isEmpty
    | _ => true)))

/-- HALTED: the context is PARKED; the overrun is owed, and a debt of four slices ends the context (R403). -/
def haltedStep (vf overrun : Nat) (s : State) : Option State :=
  match s.ctx vf with
  | none => none
  | some c =>
    if c.st == .halting && haltDone s vf then
      let s := ((s.savePlans vf).modCtx vf (fun c => { c with
        st := .parked, savegen := c.savegen + 1, debt := c.debt + overrun })).stopQueues vf
      some (if 4000 * c.slice ≤ c.debt + overrun then quenchCtx vf 2 0 0 s else s)
    else none

/-- HALTED (R395). -/
def execHalted (vf overrun : Nat) (s : State) : Host.Outcome State Fault Refusal := .next ((haltedStep vf overrun s).getD s)

/-- The teams of a context go on from a pre-emption: each of its waves has the age 0 (spec/11_group.md R228). -/
def State.goOn (s : State) (vf : Nat) : State :=
  let ts := (s.teams.filter (fun t => t.2.vf == vf)).map (·.1)
  let s := { s with
    teams := Tbl.mapVals (fun _ (t : Team) => if t.vf == vf then { t with haltP := false } else t) s.teams
    waves := Tbl.mapVals (fun _ w => if ts.contains w.team then { w with age := 0 } else w) s.waves }
  thawAll ts s

/-- RESTORED: the tags of the units in HBM are checked. Where each passes, the images are reloaded, other contexts' parts of the stores that
they need going to their save areas, and the context runs again; else the context is quenched with the address of a unit that fails
(R396, R398). -/
def restoredStep (vf first : Nat) (s : State) : Option State :=
  match s.ctx vf with
  | none => none
  | some c =>
    if c.st != .restoring then none
    else match s.badUnit vf c first with
      | some pa => some (quenchCtx vf 3 1 (BitVec.ofNat 64 pa) s)
      | none =>
        let s := s.modCtx vf (fun c => { c with saved := [] })
        let needs := allNeeds s vf
        if s.mayEvict vf needs then
          let s := (s.evictSave vf needs).modCtx vf (fun c => { c with st := .running, save := [] })
          some (releaseHeld ((s.goOn vf).startQueues vf))
        else none

/-- RESTORED (R398). -/
def execRestored (vf first : Nat) (s : State) : Host.Outcome State Fault Refusal := .next ((restoredStep vf first s).getD s)

/-! ## Memory blocks (R400) -/

/-- The block that a frame stands in. -/
def blockOf (pfn : Nat) : Nat := pfn / 32768

/-- A frame of a block is mapped, or it is given out for a page that migrates or for a save area (notes/assumptions/91.md). -/
def State.blockUsed (s : State) (b : Nat) : Bool := s.framesUsed.any (fun f => blockOf f == b)

/-- A page with a frame in a block is PINNED by a task; the page of a queue's ring does not count. -/
def State.blockPinned (s : State) (b : Nat) : Bool :=
  s.kernels.any (fun k => k.2.pins.any (fun g => ((s.ctx k.2.vf).bind (fun c => c.frame g)).map blockOf == some b))

/-- A command of the device mailbox. -/
def deviceCommand (box : Nat) (s : State) (f : State → State) : State :=
  command box s (fun s => if box = 16 then f s else s.answer box .notown)

/-- BLKMOVE (R400): a block with no PINNED page starts to be removed. One that is not OWNED, or that does not exist, or that no
partition is to receive, is refused with the same status (notes/assumptions/73.md). -/
def execBlkmove (box block part : Nat) (s : State) : Host.Outcome State Fault Refusal :=
  .next (deviceCommand box s (fun s =>
    let b := s.blockAt block
    if 192 ≤ block ∨ s.partAt part = 0 ∨ b.st ≠ .owned ∨ b.owner = 0 ∨ s.blockPinned block then s.answer box .blkbusy
    else { s with blocks := Tbl.put s.blocks block { b with st := .removing, tgt := s.partAt part } }))

/-- REMOVED (R400): no frame of the block is mapped; a shoot-down runs in the contexts of the partition that has lost it. -/
def execRemoved (block : Nat) (s : State) : Host.Outcome State Fault Refusal :=
  .next (
    let b := s.blockAt block
    if b.st = .removing ∧ !s.blockUsed block then
      let vs := (s.ctxs.filter (fun c => c.2.part == b.owner && c.2.st != .free)).map (·.1)
      let s := vs.foldl (fun s v => s.bumpExt v []) s
      { s with blocks := Tbl.put s.blocks block { b with
          st := .scrubbing, gens := vs.map (fun v => (v, ((s.ctx v).map (·.extgen)).getD 0)) } }
    else s)

/-- BLKMOVE_TIMEOUT (R400): the guest has not reported in time. -/
def execBlkmoveTimeout (block : Nat) (s : State) : Host.Outcome State Fault Refusal :=
  .next (
    let b := s.blockAt block
    if b.st = .removing then State.answer { s with blocks := Tbl.put s.blocks block { b with st := .owned } } 16 .blkbusy else s)

/-- SCRUBBED: behind the shoot-down every byte is zero and every line of the block invalid; the block is ADDING, and the guests of the
partition that receives it are notified. -/
def scrubbedStep (block : Nat) (s : State) : Option State :=
  let b := s.blockAt block
  if b.st == .scrubbing && b.gens.all (fun x => !s.oldInFlight x.1 x.2) then
    let s := State.dropLines { s with
      mem := s.mem.filter (fun x => x.1 / 2 ^ 31 != block)
      blocks := Tbl.put s.blocks block { b with st := .adding, gens := [] } } (fun l => l.n / 2 ^ 24 == block)
    some ((s.ctxs.filter (fun c => c.2.part == b.tgt && c.2.st != .free)).foldl (fun s c =>
      s.answer c.1 .blkadd (bytesOf 1 block)) s)
  else none

/-- ADDED: the block's frames serve the partition that has received it, and BLKMOVE is answered. -/
def addedStep (block : Nat) (s : State) : Option State :=
  let b := s.blockAt block
  if b.st == .adding then
    some (State.answer { s with blocks := Tbl.put s.blocks block { st := .owned, owner := b.tgt, tgt := b.tgt } } 16 .ok)
  else none

/-- SCRUBBED (R400); of a block that is ADDING it is ADDED, which has no row of its own. -/
def execScrubbed (block : Nat) (s : State) : Host.Outcome State Fault Refusal :=
  .next ((firstStep (fun f => f block s) [scrubbedStep, addedStep]).getD s)

/-! ## Errors of shared structures (R405, R406) -/

/-- The kinds of shared unit, in the order of their numbers: 64 cache slices, 192 HBM blocks, the halo store and step table of
each die, 320 accumulator stores, 64 home channels, 80 reply channels, 32 Tongs, 4 Swage units and the fabric port
(notes/assumptions/45.md). -/
inductive UnitKind where
  | slice (n : Nat) | block (n : Nat) | halo (die : Nat) | accum (core : Nat) | home (slice : Nat) | reply (cluster : Nat)
  | tongs (n : Nat) | swage (die : Nat) | port | none
deriving DecidableEq, Repr

/-- The unit with a number. -/
def unitAt (u : Nat) : UnitKind :=
  if u < 64 then .slice u
  else if u < 256 then .block (u - 64)
  else if u < 260 then .halo (u - 256)
  else if u < 580 then .accum (u - 260)
  else if u < 644 then .home (u - 580)
  else if u < 724 then .reply (u - 644)
  else if u < 756 then .tongs (u - 724)
  else if u < 760 then .swage (u - 756)
  else if u = 760 then .port else .none

/-- A packet of the virtual function waits for a channel. -/
def State.xbarHolds (s : State) (vf k : Nat) : Bool := (s.chan k).queued.any (fun x => x.2.vf == vf)

/-- The fabric port holds a packet of the virtual function: one of its own, of whatever kind, that is not DONE and that no QUENCH has
dropped, or one for it that waits for its channel, for a page, or for the rest of its round. -/
def State.portHolds (s : State) (vf : Nat) : Bool :=
  let mine (p : Packet) : Bool := s.localVf p == some vf
  s.peers.any (fun p => p.2.out.any (fun o => uv o.pkt.head.src == s.dev && uv o.pkt.head.vf == vf &&
    (!o.sent || o.pkt.kern.isSome || o.pkt.op.isSome || o.pkt.mark.isSome))) ||
  s.channels.any (fun c => c.2.pkts.any mine) || s.parked.any (fun p => p.vf == vf) ||
  s.rounds.any (fun r => r.2.vf == vf && !r.2.parts.isEmpty)

/-- The virtual function holds an entry in a unit: a line of a slice, a frame of a block, a running kernel's place in a halo store, the
tiles of a pair or what its queue holds, a packet that waits for a channel, or an operation or a packet in an engine's buffer. What stands
in its save area it holds no more. The Tongs of a die serve the teams of that die. -/
def ownsUnit (s : State) (vf : Nat) (c : Ctx) (u : UnitKind) : Bool :=
  let engine (f : OpKind → Bool) (on : Nat → Bool) := s.ops.any (fun o => o.2.vf == vf && f o.2.k && o.2.st != .gathering &&
    ((s.team o.2.team).map (fun t => on t.core)).getD true)
  let here (x : OnChip) : Bool := !c.saved.contains x
  match u with
  | .slice n => ((Tbl.find s.slices n).getD []).any (fun l => l.vf == vf)
  | .block n => (c.frames ++ c.area).any (fun f => blockOf f == n)
  | .halo d => here (.halo d) && s.kernels.any (fun k => k.2.vf == vf && k.2.st.runs && k.2.dies.contains d)
  | .accum n =>
    here (.tiles (n / 2)) &&
    (((Tbl.find s.pairs (160 * vf + n / 2)).map (fun p => !(p.tiles.isEmpty && p.queue.isEmpty && p.settled.isEmpty))).getD false ||
      s.teams.any (fun t => t.2.vf == vf && (t.2.st == .resident || t.2.st == .evicted) && t.2.core / 2 == n / 2))
  | .home n => s.xbarHolds vf n
  | .reply n => s.xbarHolds vf (64 + n)
  | .tongs n => engine OpKind.isTongs (fun core => core / 80 == n / 8)
  | .swage d => c.part.getLsbD d && engine (fun k => match k with
      | .swage _ => true
      | _ => false) (fun _ => true)
  | .port => engine (fun k => match k with
      | .remote _ => true
      | _ => false) (fun _ => true) || s.portHolds vf
  | .none => false

/-- The ownership bitmap of a unit: the blast set of its errors. -/
def unitOwners (s : State) (u : Nat) : BitVec 16 :=
  s.ctxs.foldl (fun m c => if ownsUnit s c.1 c.2 (unitAt u) then m ||| BitVec.ofNat 16 (2 ^ c.1) else m) 0

/-- What stands at an address of a unit has an intact copy elsewhere: a line that memory has as the slice has it, or a line of a block
that its slice holds. -/
def intact (s : State) (unit addr : Nat) : Bool :=
  let lines (k : Nat) := ((Tbl.find s.slices k).getD []).filter (fun l => l.n == addr / 128)
  match unitAt unit with
  | .slice n => (lines n).all (fun l => !l.dirty)
  | .block _ => !(lines (sliceOf addr)).isEmpty
  | _ => false

/-- CORRECTED_ERROR (R406): counted, and delivered to nobody. -/
def execCorrectedError (unit : Nat) (s : State) : Host.Outcome State Fault Refusal :=
  .next { s with units := Tbl.put s.units unit { errors := ((Tbl.find s.units unit).getD {}).errors + 1 } }

/-- What ERRADDR holds for an error in a unit: the physical address for a slice or a block, else the unit's index among those of its kind
(R406, notes/assumptions/45.md). -/
def UnitKind.erraddr (u : UnitKind) (addr : Nat) : Nat :=
  match u with
  | .slice _ => addr
  | .block _ => addr
  | .halo n => n
  | .accum n => n
  | .home n => n
  | .reply n => n
  | .tongs n => n
  | .swage n => n
  | .port => 0
  | .none => 0

/-- The unit holds the address: a slice the lines of its stack that fall to it, a block its own bytes; the other units have no addresses. -/
def UnitKind.has (u : UnitKind) (addr : Nat) : Bool :=
  match u with
  | .slice n => sliceOf addr == n
  | .block n => addr / 2 ^ 31 == n
  | .none => false
  | _ => true

/-- The unit of a RESTORING context's image that holds an address (R398). -/
def Ctx.imageUnit (c : Ctx) (addr : Nat) : Option Nat :=
  if c.st == .restoring then (c.save.find? (fun x => x.1 == addr / 4096 * 4096)).map (·.1) else none

/-- The context that reads an address as a unit of its image, and that unit. -/
def State.restoring (s : State) (addr : Nat) : Option (Nat × Nat) := s.ctxs.findSome? (fun c => (c.2.imageUnit addr).map (c.1, ·))

/-- UNCORRECTABLE_ERROR: data with an intact copy are fetched again and the error is counted. A context that restores its image and meets
the error as it reads a unit of it is quenched with reason RESTUE, and no other is (R398); else every context of the blast set is quenched
(R406). -/
def uncorrectable (unit : Nat) (reading : Bool) (addr : Nat) (s : State) : State :=
  let s1 := { s with units := Tbl.put s.units unit { errors := ((Tbl.find s.units unit).getD {}).errors + 1 } }
  if !(unitAt unit).has addr then s
  else if intact s unit addr then s1
  else match if reading then s.restoring addr else none with
    | some (vf, pa) => quenchCtx vf 4 2 (BitVec.ofNat 64 pa) s1
    | none => s.ctxs.foldl (fun s1 c => if (unitOwners s unit).getLsbD c.1 then
        quenchCtx c.1 7 2 (BitVec.ofNat 64 ((unitAt unit).erraddr addr)) s1 else s1) s1

/-- UNCORRECTABLE_ERROR (R406). -/
def execUncorrectableError (unit : Nat) (reading : Bool) (addr : Nat) (s : State) : Host.Outcome State Fault Refusal :=
  .next (uncorrectable unit reading addr s)

/-! ## Deliveries and the debugger (spec/24_traps.md R494, spec/10_isa_control.md R212, R215) -/

/-- PENDING_FAULT_DELIVERY (R494). -/
def execPendingFaultDelivery (w : Nat) (s : State) : Host.Outcome State Fault Refusal := .next (deliverPending w s)

/-- ILLOP (R77): a wave fetches a word without a meaning at a slot, which raises the fault before its chain issues. -/
def execIllop (slot : Nat) (s : State) : Host.Outcome State Fault Refusal :=
  .next (match s.waves.find? (fun p => mayTry s p.2 && !faultDue s p.2 && fetch s p.2 p.2.pc == .illegal slot) with
    | none => s
    | some (n, w) => illegalWord slot { s with cur := some n, chain := { pc := w.pc } })

/-- DEBUGGER_ATTACH (R212): DBGATT. -/
def execDebuggerAttach (on : Bool) (s : State) : Host.Outcome State Fault Refusal := .next { s with dbgatt := on }

/-- DEBUGGER_RESUME (R215): the team's halt for the debugger ends, and its waves have the age 0 (spec/11_group.md R228). -/
def execDebuggerResume (t : Nat) (s : State) : Host.Outcome State Fault Refusal :=
  .next (if ((s.team t).map (·.haltD)).getD false then
    let s := s.modTeam t (fun x => { x with haltD := false })
    thawAll [t] { s with waves := Tbl.mapVals (fun _ w => if w.team == t then { w with age := 0 } else w) s.waves }
  else s)

end Sys2Proof.Machine
end

