-- ==== Sys2Proof/Machine/Device.lean ====
section
/-! DEFINITION. The device as a whole: bring-up, failed starts, firmware, identity, clocks and thermal trips, the die meshes and
the photonic crossbar (spec/30_bringup.md R484-R492, spec/01_device.md R10-R24, R35). -/
namespace Sys2Proof.Machine

/-! ## Starting (R484-R486) -/

/-- The code of a stage. -/
def Stage.code : Stage → Nat
  | .reset => 0
  | .verify => 1
  | .remap => 2
  | .reduced => 3
  | .full => 4
  | .minimal => 5

/-- The device as it is when all units come out of reset: what Hearth keeps, the wiring of the run, and the model's own
fields stay. -/
def State.restart (s : State) (h : Hearth) : State :=
  { State.reset with
    dev := s.dev, devs := s.devs, hearth := h, peers := bootPeers s.devs s.dev
    dies := s.dies.map (fun d => { d with mhz := 4000 }), replies := s.replies, agenda := s.agenda, tick := s.tick
    serial := s.serial, dbgatt := s.dbgatt }

/-- Hearth at the entry of stage RESET. -/
def Hearth.restart (h : Hearth) : Hearth :=
  { h with
    stage := .reset, trained := [], broken := [], running := [], attest := none, parts := h.shape, remap := [], failing := false }

/-- POWER_ON (R484): stage RESET; an image that was only loaded is gone. -/
def execPowerOn (s : State) : Host.Outcome State Fault Refusal :=
  .next (State.restart { s with replies := [] } { s.hearth.restart with loaded := none, bootLoaded := false })

/-- A command of the device's mailbox that MINIMAL accepts beside the stages with service (R487), in the order of the mailbox (R491). -/
def hearthCommand (s : State) (f : State → State) : State :=
  if s.awaits 16 then s
  else match s.hearth.stage with
    | .reduced => f s
    | .full => f s
    | .minimal => f s
    | _ => s.answer 16 .refused

/-- RESET (R484): the command restarts the device from stage RESET; the restart behind a failed start comes by itself. -/
def execReset (s : State) : Host.Outcome State Fault Refusal :=
  .next (hearthCommand s (fun s =>
    if s.hearth.failing then s.answer 16 .refused else (s.restart s.hearth.restart).answer 16 .ok))

/-- FAILED_START: every context is quenched with STARTFAIL, the failure is counted, and its reason is kept. The restart has not begun: until
it does the contexts' records can be read (R486). -/
def failedStart (reason : Nat) (s : State) : State :=
  let s := s.ctxs.foldl (fun s c => quenchCtx c.1 9 0 0 s) s
  { s with hearth := { s.hearth with fails := s.hearth.fails + 1, reason := reason, failing := true } }

/-- The device restarts after a failed start, or enters MINIMAL at the third failure in a row (R486). -/
def failedRestart (s : State) : State :=
  s.restart (if s.hearth.fails < 3 then s.hearth.restart else { s.hearth.restart with stage := .minimal })

/-- A partition is one, two neighbouring or four slices (R389). -/
def shapeOk (p : BitVec 4) : Bool := [1, 2, 4, 8, 3, 12, 15].contains (uv p)

/-- The partitions are legal and share no slice. -/
def shapesOk (ps : List (BitVec 4)) : Bool :=
  ps.all shapeOk && (List.range 4).all (fun d => decide ((ps.filter (fun p => p.getLsbD d)).length ≤ 1))

/-- The firmware image's parts (R488). -/
def imageVersion (i : List Byte) : Nat := natAt i 4 4
def imagePk (i : List Byte) : List Byte := (i.drop 0x10).take 64
def imageSig (i : List Byte) : List Byte := (i.drop 0x50).take 29792
def imageSigned (i : List Byte) : List Byte := i.take 0x50 ++ (i.drop (0x50 + 29792)).take (natAt i 8 4)

/-- The image is valid: key hash, signature, version (R488). -/
def imageValid (h : Hearth) (i : List Byte) : Bool :=
  (Config.shake256 (imagePk i)).take 32 == h.keyHash && Config.slhVerify (imagePk i) (imageSigned i) (imageSig i) &&
  decide (h.fuseMin ≤ imageVersion i)

/-- ROM_DONE: the firmware image is to be verified. -/
def romDone (s : State) : State :=
  if s.hearth.stage = .reset ∧ s.hearth.failing = false then { s with hearth := { s.hearth with stage := .verify } } else s

/-- ROM_DONE (R484). -/
def execRomDone (s : State) : Host.Outcome State Fault Refusal := .next (romDone s)

/-- The image that this start boots. -/
def Hearth.image (h : Hearth) : List Byte := if h.bootLoaded then h.loaded.getD h.stored else h.stored

/-- VERIFY: the firmware image is checked (R488). -/
def verifyStep (s : State) : State :=
  let h := s.hearth
  let s := { s with hearth := { h with bootLoaded := false } }
  if imageValid h h.image then { s with hearth := { s.hearth with stage := .remap, running := h.image } } else failedStart 1 s

/-- The lowest die whose two stacks are trained. -/
def Hearth.firstDie (h : Hearth) : Option Nat :=
  (List.range 4).find? (fun d => h.trained.contains (2 * d) && h.trained.contains (2 * d + 1))

/-- Reduced service opens on a die at 1.0 GHz, with a partition of its one slice (R485). -/
def openReduced (d : Nat) (s : State) : State :=
  { s with
    hearth := { s.hearth with stage := .reduced, parts := [BitVec.ofNat 4 (2 ^ d)] }
    dies := s.dies.zipIdx.map (fun x => if x.2 = d then { x.1 with mhz := 1000 } else x.1) }

/-- Reduced service opens once the remap table is written and a die has both its stacks (R484). -/
def tryReduced (s : State) : State :=
  match s.hearth.stage == .remap && !s.hearth.remap.isEmpty, s.hearth.firstDie with
  | true, some d => openReduced d s
  | _, _ => s

/-- Full service: every partition at 4.0 GHz; that of reduced service stays while a context is on it. -/
def openFull (s : State) : State :=
  let keep := s.hearth.parts.filter (fun p => !s.hearth.shape.contains p && s.ctxs.any (fun c => c.2.part == p && c.2.st != .free))
  { s with
    hearth := { s.hearth with stage := .full, fails := 0, parts := s.hearth.shape ++ keep }
    dies := s.dies.map (fun d => { d with mhz := 4000 }) }

/-- What a stack that is trained, or the remap table, brings: reduced service on the first die that has both its stacks, which a stack that
has failed ends as a failed start, and full service once all stacks are trained (R484-R486). -/
def openService (s : State) : State :=
  let s := tryReduced s
  if s.hearth.stage = .reduced ∧ s.hearth.broken ≠ [] then failedStart 4 s
  else if s.hearth.stage = .reduced ∧ s.hearth.trained.length = 8 then openFull s
  else s

/-- The physical clusters of a die that are usable, of the 22 it has (spec/01_device.md R10). -/
def usableOf (clusters : List (List Nat)) (die : Nat) : List Nat := (List.range 22).filter (fun p => (clusters.getD die []).contains p)

/-- REMAP: Hearth writes the remap table, the partitions and the configuration of each slice for this boot: `clusters` are the usable physical
clusters of each die, `shape` the partitions, and `managed` the slices that are device-managed (spec/01_device.md R10-R12,
spec/23_context.md R389, spec/17_page.md R317). DESIGN CHOICE: the logical clusters of a die are its first 20 usable physical ones
(notes/assumptions/102.md). -/
def remapStep (clusters : List (List Nat)) (shape : List (BitVec 4)) (managed : BitVec 4) (s : State) : State :=
  let us := (List.range 4).map (usableOf clusters)
  let h := { s.hearth with usable := us.map List.length, shape := shape, parts := shape, managed := managed }
  if us.any (fun u => decide (u.length < 20)) then failedStart 2 { s with hearth := h }
  else if !shapesOk shape then failedStart 3 { s with hearth := h }
  else openService { s with hearth := { h with remap := us.map (List.take 20) } }

/-- What Hearth does by itself in a start: behind a failed one it restarts; in VERIFY it checks the image; in REMAP it writes the remap
table. What the fuses and the firmware's retirement list leave usable, and what configuration this boot has, is open
(notes/assumptions/102.md). -/
def bootStep (s : State) : Option State :=
  if s.hearth.failing then some (failedRestart s)
  else match s.hearth.stage with
    | .verify => some (verifyStep s)
    | .remap =>
      if s.hearth.remap.isEmpty then
        some (remapStep (Config.bootClusters s.tick) (Config.bootShape s.tick) (Config.bootManaged s.tick) { s with tick := s.tick + 1 })
      else none
    | _ => none

/-- STACK_TRAINED: the first die with both stacks opens reduced service once the remap table is written, and all stacks open full service; a
start with a stack that has failed ends there. -/
def stackTrained (stack : Nat) (s : State) : State :=
  let h := s.hearth
  if h.failing = false ∧ (h.stage = .remap ∨ h.stage = .reduced) ∧ stack < 8 ∧ !h.broken.contains stack then
    openService { s with hearth := { h with trained := stack :: h.trained.filter (fun x => x != stack) } }
  else s

/-- STACK_TRAINED (R484). -/
def execStackTrained (stack : Nat) (s : State) : Host.Outcome State Fault Refusal := .next (stackTrained stack s)

/-- HBMTRAIN: in reduced service a stack that fails ends the start; before it, the start ends once no die has two stacks that can
train (REDFAIL). -/
def hbmtrain (stack : Nat) (s : State) : State :=
  let h := s.hearth
  if h.failing ∨ 8 ≤ stack ∨ h.trained.contains stack then s
  else match h.stage with
    | .reduced => failedStart 4 s
    | .remap =>
      let b := stack :: h.broken.filter (fun x => x != stack)
      if (List.range 4).all (fun d => b.contains (2 * d) || b.contains (2 * d + 1)) then failedStart 5 s
      else { s with hearth := { h with broken := b } }
    | _ => s

/-- HBMTRAIN (R486). -/
def execHbmtrain (stack : Nat) (s : State) : Host.Outcome State Fault Refusal := .next (hbmtrain stack s)

/-- STATUS (R484): returns the start stage. -/
def execStatus (s : State) : Host.Outcome State Fault Refusal :=
  .next (if s.awaits 16 then s else s.answer 16 .ok (bytesOf 4 s.hearth.stage.code))

/-! ## Firmware and attestation (R487-R490) -/

/-- FWLOAD (R489): the image is checked; a valid one is booted at the next RESET. -/
def execFwload (image : List Byte) (s : State) : Host.Outcome State Fault Refusal :=
  .next (hearthCommand s (fun s =>
    if imageValid s.hearth image then
      State.answer { s with hearth := { s.hearth with loaded := some image, bootLoaded := true } } 16 .ok
    else State.answer { s with hearth := { s.hearth with loaded := none, bootLoaded := false } } 16 .fwsig))

/-- FWCOMMIT (R488, R489): the loaded image is stored, and a higher version raises the fused minimum. -/
def execFwcommit (s : State) : Host.Outcome State Fault Refusal :=
  .next (hearthCommand s (fun s =>
    match s.hearth.loaded with
    | none => s.answer 16 .refused
    | some i =>
      State.answer { s with hearth := { s.hearth with stored := i, fuseMin := max s.hearth.fuseMin (imageVersion i) } } 16 .ok))

/-- ATTEST (R490): the report is signed; one at a time, since the mailbox's next command waits for it. -/
def execAttest (nonce : List Byte) (s : State) : Host.Outcome State Fault Refusal :=
  .next (hearthCommand s (fun s =>
    if nonce.length ≠ 32 then s.answer 16 .refused
    else { s with hearth := { s.hearth with attest := some nonce } }))

/-- The lowest die of a partition. -/
def lowestDie (p : BitVec 4) : Nat := ((List.range 4).find? p.getLsbD).getD 0

/-- The signed part of the attestation report. -/
def Hearth.report (h : Hearth) (nonce : List Byte) : List Byte :=
  fit 32 nonce ++ fit 64 h.idpk ++ bytesOf 4 (imageVersion h.running) ++ bytesOf 4 h.fuseMin ++ bytesOf 1 h.stage.code ++
  bytesOf 1 h.reason ++ bytesOf 1 (h.parts.foldl (fun m p => m ||| 2 ^ lowestDie p) 0) ++ bytesOf 5 0 ++
  fit 16 (Config.shake256 h.running)

/-- ATTEST_REPORT (R490): signing is complete and the report is returned. -/
def execAttestReport (s : State) : Host.Outcome State Fault Refusal :=
  .next (match s.hearth.attest with
    | none => s
    | some n =>
      let r := s.hearth.report n
      State.answer { s with hearth := { s.hearth with attest := none } } 16 .ok (r ++ fit 29792 (Config.slhSign r)))

/-! ## Clocks and thermal trips (R492) -/

/-- Change a die. -/
def State.modDie (s : State) (die : Nat) (f : Die → Die) : State :=
  { s with dies := s.dies.zipIdx.map (fun x => if x.2 = die then f x.1 else x.1) }

/-- CLOCK_HALVE (R492): in full service a die's clock falls to 2.0 GHz. -/
def execClockHalve (die : Nat) (s : State) : Host.Outcome State Fault Refusal :=
  .next (if s.hearth.stage = .full then s.modDie die (fun d => { d with mhz := 2000 }) else s)

/-- CLOCK_RESTORE (R492): the die is back at 4.0 GHz. -/
def execClockRestore (die : Nat) (s : State) : Host.Outcome State Fault Refusal :=
  .next (if s.hearth.stage = .full then s.modDie die (fun d => { d with mhz := 4000 }) else s)

/-- THERMAL_TRIP: every context of the die's partition is quenched and the die is held in reset; during a start it is a failed
start. -/
def thermalTrip (die : Nat) (s : State) : State :=
  match s.hearth.stage with
  | .full =>
    let s := s.modDie die (fun d => { d with held := true })
    (s.ctxs.filter (fun c => c.2.part.getLsbD die)).foldl (fun s c => quenchCtx c.1 8 0 0 s) s
  | .minimal => s
  | _ => if s.hearth.failing then s else failedStart 6 (s.modDie die (fun d => { d with held := true }))

/-- THERMAL_TRIP (R492). -/
def execThermalTrip (die : Nat) (s : State) : Host.Outcome State Fault Refusal := .next (thermalTrip die s)

/-- THERMAL_RELEASE (R492): the die's sensors read below 95 °C. -/
def execThermalRelease (die : Nat) (s : State) : Host.Outcome State Fault Refusal :=
  .next (s.modDie die (fun d => { d with held := false }))

/-! ## The meshes and the crossbar (spec/01_device.md R21-R24) -/

/-- LINK_WIDTH_DROP (R24): one width step down, from the next packet boundary on. -/
def execLinkWidthDrop (link : Nat) (s : State) : Host.Outcome State Fault Refusal := .next (widthDrop link s)

/-- LINK_WIDTH_RETURN (R24): back to full width, from the next packet boundary on. -/
def execLinkWidthReturn (link : Nat) (s : State) : Host.Outcome State Fault Refusal := .next (widthReturn link s)

/-- CROSSBAR_TOKEN (R21). -/
def execCrossbarToken (chan : Nat) (s : State) : Host.Outcome State Fault Refusal := .next (crossbarToken chan s)

/-! ## What has no effect of its own -/

/-- REGISTER_WRITE (R9): no register of the specification is written but by a row of its own, and reserved bits are
ignored. -/
def execRegisterWrite (_ : Nat) (_ : BitVec 64) (s : State) : Host.Outcome State Fault Refusal := .next s

/-- UCIE_EVENT (R10): a failure of the host die changes no state of the device. -/
def execUcieEvent (_ : Nat) (s : State) : Host.Outcome State Fault Refusal := .next s

end Sys2Proof.Machine
end

