-- ==== Sys2Proof/Machine/Float.lean ====
section
/-! DEFINITION. The meanings of majors 0x10 to 0x1F: FP32, FP64 and packed arithmetic, approximated functions, conversions,
narrow blocks and random numbers (spec/08_isa_float.md). -/
namespace Sys2Proof.Machine

/-! ## Values -/

/-- FP32 operations on register words. -/
def fadd32 (a b : Word) : Word := fop f32.add a b
def fsub32 (a b : Word) : Word := fop f32.sub a b
def fmul32 (a b : Word) : Word := fop f32.mul a b
def ffma32 (a b d : Word) : Word := BitVec.ofNat 32 (f32.fma (uv a) (uv b) (uv d))
/-- FP64 operations on pairs. -/
def dop (g : Nat → Nat → Nat) (a b : BitVec 64) : BitVec 64 := BitVec.ofNat 64 (g (uv a) (uv b))
def dfma64 (a b d : BitVec 64) : BitVec 64 := BitVec.ofNat 64 (f64.fma (uv a) (uv b) (uv d))

/-- A conversion of major 0x1C from the 64-bit B value, of which a 32-bit source reads the low word (R171). -/
def cvtVal (c : CvtKind) (m : Rnd) (b : BitVec 64) : Word :=
  let x := uv (b.extractLsb' 0 32)
  match c with
  | .f16f32 => BitVec.ofNat 32 (f16.round m (f32.decode x))
  | .bf16f32 => BitVec.ofNat 32 (bf16.round m (f32.decode x))
  | .f32f64 => BitVec.ofNat 32 (f32.round m (f64.decode (uv b)))
  | .s32f32 => wordOfInt (toIntSat m (-2147483648) 2147483647 (f32.decode x))

/-- A conversion of major 0x1D (R171). -/
def cvtExtVal (c : CvtExt) (b : BitVec 64) : BitVec 64 :=
  let w := b.extractLsb' 0 32
  let x := f32.decode (uv w)
  let u32 (m : Rnd) : BitVec 64 := (wordOfInt (toIntSat m 0 4294967295 x)).setWidth 64
  let s64 (m : Rnd) : BitVec 64 :=
    (wordOfInt (toIntSat m (-2147483648) 2147483647 (f64.decode (uv b)))).setWidth 64
  match c with
  | .u32f32rn => u32 .rn
  | .u32f32rz => u32 .rz
  | .u32f32rp => u32 .rp
  | .u32f32rm => u32 .rm
  | .s32f64rn => s64 .rn
  | .s32f64rz => s64 .rz
  | .f32f16 => BitVec.ofNat 64 (f32.roundNE (f16.decode (uv w % 65536)))
  | .f32bf16 => BitVec.ofNat 64 (f32.roundNE (bf16.decode (uv w % 65536)))
  | .f64f32 => BitVec.ofNat 64 (f64.roundNE x)
  | .f32s32 => BitVec.ofNat 64 (f32.roundNE (ofInt (sv w)))
  | .f32u32 => BitVec.ofNat 64 (f32.roundNE (ofInt (uv w)))
  | .f64s32 => BitVec.ofNat 64 (f64.roundNE (ofInt (sv w)))
  | .f64u32 => BitVec.ofNat 64 (f64.roundNE (ofInt (uv w)))

/-- A conversion of major 0x1F (R171). -/
def cvtUniVal (c : CvtUni) (b : Word) : Word :=
  match c with
  | .s32f32rz => wordOfInt (toIntSat .rz (-2147483648) 2147483647 (f32.decode (uv b)))
  | .f32s32 => BitVec.ofNat 32 (f32.roundNE (ofInt (sv b)))

/-- The integer-source columns of major 0x1D. -/
def cvtInt : CvtExt → Bool
  | .f32s32 => true
  | .f32u32 => true
  | .f64s32 => true
  | .f64u32 => true
  | _ => false

/-- The B value of CVT.f32.f16 and CVT.f32.bf16: an immediate is the integer's exact value in the source's format. -/
def cvtHalf (s : State) (w : Wave) (c : CvtExt) (b : BOp) (f : Nat) : Word :=
  match c with
  | .f32f16 => b.hval s w .f16 f
  | .f32bf16 => b.hval s w .bf16 f
  | _ => b.fval s w f

/-- 32 words of a run of V registers as FP32 values. -/
def runVals (w : Wave) (f a : Nat) : List FVal := (List.range 32).map (fun e => f32.decode (uv (w.getV f (a + e))))
/-- The bytes of a run of V registers, four a register (R173). -/
def runBytes (w : Wave) (f a n : Nat) : List Byte := (List.range n).flatMap (fun i => bytesOf 4 (uv (w.getV f (a + i))))
/-- Write bytes into a run of n V registers, with pad bytes 0. -/
def Wave.setRun (w : Wave) (f d : Nat) (bs : List Byte) : Nat → Wave
  | 0 => w
  | n + 1 => (w.setV f d (BitVec.ofNat 32 (natOf (bs.take 4)))).setRun f (d + 1) (bs.drop 4) n

/-- NPACK for one cell: the block, then the conversion counter, with RNGWRAP where it wraps (R174). Each NPACK of a chain has a number
of its own (spec/05_numbers.md R109). -/
def npackCell (m : NFmt) (d a : Nat) (h : Header) (w : Wave) (f : Nat) (x : Wave) : Wave :=
  let n : BitVec 43 := NMap.get 0 x.conv f
  let blk := m.quant (runVals w f a)
    (fun e => draw domCell h.seed (BitVec.ofNat 64 (w.wid h f)) (BitVec.ofNat 64 (32 * n.toNat + e)))
  let x := x.setRun f d (m.bytes blk) m.regs
  let x := { x with conv := NMap.set 0 x.conv f (n + 1) }
  if n + 1 = 0 then x.mark 49 else x

/-- NUNPACK for one cell (R175). -/
def nunpackCell (m : NFmt) (d a : Nat) (w : Wave) (f : Nat) (x : Wave) : Wave :=
  let bs := runBytes w f a m.regs
  x.setRun f d ((List.range 32).flatMap (fun e => bytesOf 4 (f32.roundNE (m.val bs e)))) 32

/-- RAND for one cell (R176). Each RAND of a chain has a number of its own (spec/05_numbers.md R109). -/
def randCell (m : RandKind) (d : Nat) (h : Header) (w : Wave) (f : Nat) (x : Wave) : Wave :=
  let n : BitVec 48 := NMap.get 0 x.draw f
  let z := Machine.draw 0 h.seed (BitVec.ofNat 64 (w.wid h f)) (n.setWidth 64)
  let r : Word := match m with
    | .u32 => z.extractLsb' 32 32
    | .f32 => BitVec.ofNat 32 (f32.roundNE (.fin false (uv (z.extractLsb' 40 24)) (-24)))
  let x := x.setV f d r
  let x := { x with draw := NMap.set 0 x.draw f (n + 1) }
  if n + 1 = 0 then x.mark 49 else x

/-! ## Meanings -/

/-- FADD (R164): Per-cell FP32 add, rounded once. -/
def execFadd (d : VReg) (a : VReg) (b : BOp) (s : State) : Host.Outcome State Fault Refusal :=
  perCell (.fadd d a b) s d (fun s w f => fadd32 (w.getV f a.toNat) (b.fval s w f))

/-- FADD_UNI (R164): Uniform FP32 add. -/
def execFaddUni (d : SReg) (a : SReg) (b : UOp) (s : State) : Host.Outcome State Fault Refusal :=
  uniform (.faddUni d a b) s (fun w x => x.setS d.toNat (fadd32 (w.getS a.toNat) (b.fval w)))

/-- FSUB (R164): Per-cell FP32 subtract. -/
def execFsub (d : VReg) (a : VReg) (b : BOp) (s : State) : Host.Outcome State Fault Refusal :=
  perCell (.fsub d a b) s d (fun s w f => fsub32 (w.getV f a.toNat) (b.fval s w f))

/-- FSUB_UNI (R164): Uniform FP32 subtract. -/
def execFsubUni (d : SReg) (a : SReg) (b : UOp) (s : State) : Host.Outcome State Fault Refusal :=
  uniform (.fsubUni d a b) s (fun w x => x.setS d.toNat (fsub32 (w.getS a.toNat) (b.fval w)))

/-- FMUL (R164): Per-cell FP32 multiply. -/
def execFmul (d : VReg) (a : VReg) (b : BOp) (s : State) : Host.Outcome State Fault Refusal :=
  perCell (.fmul d a b) s d (fun s w f => fmul32 (w.getV f a.toNat) (b.fval s w f))

/-- FMUL_UNI (R164): Uniform FP32 multiply. -/
def execFmulUni (d : SReg) (a : SReg) (b : UOp) (s : State) : Host.Outcome State Fault Refusal :=
  uniform (.fmulUni d a b) s (fun w x => x.setS d.toNat (fmul32 (w.getS a.toNat) (b.fval w)))

/-- FFMA (R164): Per-cell fused FP32 a times b plus d. -/
def execFfma (d : VReg) (a : VReg) (b : BOp) (s : State) : Host.Outcome State Fault Refusal :=
  perCell (.ffma d a b) s d (fun s w f => ffma32 (w.getV f a.toNat) (b.fval s w f) (w.getV f d.toNat))

/-- FFMA_UNI (R164): Uniform fused FP32 multiply-add. -/
def execFfmaUni (d : SReg) (a : SReg) (b : UOp) (s : State) : Host.Outcome State Fault Refusal :=
  uniform (.ffmaUni d a b) s (fun w x => x.setS d.toNat (ffma32 (w.getS a.toNat) (b.fval w) (w.getS d.toNat)))

/-- FMIN (R165): Per-cell FP32 minimumNumber. -/
def execFmin (d : VReg) (a : VReg) (b : BOp) (s : State) : Host.Outcome State Fault Refusal :=
  perCell (.fmin d a b) s d (fun s w f => fminmax false (w.getV f a.toNat) (b.fval s w f))

/-- FMIN_UNI (R165): Uniform FP32 minimumNumber. -/
def execFminUni (d : SReg) (a : SReg) (b : UOp) (s : State) : Host.Outcome State Fault Refusal :=
  uniform (.fminUni d a b) s (fun w x => x.setS d.toNat (fminmax false (w.getS a.toNat) (b.fval w)))

/-- FMAX (R165): Per-cell FP32 maximumNumber. -/
def execFmax (d : VReg) (a : VReg) (b : BOp) (s : State) : Host.Outcome State Fault Refusal :=
  perCell (.fmax d a b) s d (fun s w f => fminmax true (w.getV f a.toNat) (b.fval s w f))

/-- FMAX_UNI (R165): Uniform FP32 maximumNumber. -/
def execFmaxUni (d : SReg) (a : SReg) (b : UOp) (s : State) : Host.Outcome State Fault Refusal :=
  uniform (.fmaxUni d a b) s (fun w x => x.setS d.toNat (fminmax true (w.getS a.toNat) (b.fval w)))

/-- FABS (R164): Per-cell clear of the sign bit. -/
def execFabs (d : VReg) (b : BOp) (s : State) : Host.Outcome State Fault Refusal :=
  perCell (.fabs d b) s d (fun s w f => (b.fval s w f) &&& 0x7FFFFFFF)

/-- FABS_UNI (R164): Uniform clear of the sign bit. -/
def execFabsUni (d : SReg) (b : UOp) (s : State) : Host.Outcome State Fault Refusal :=
  uniform (.fabsUni d b) s (fun w x => x.setS d.toNat ((b.fval w) &&& 0x7FFFFFFF))

/-- FNEG (R164): Per-cell inversion of the sign bit. -/
def execFneg (d : VReg) (b : BOp) (s : State) : Host.Outcome State Fault Refusal :=
  perCell (.fneg d b) s d (fun s w f => (b.fval s w f) ^^^ 0x80000000)

/-- FNEG_UNI (R164): Uniform inversion of the sign bit. -/
def execFnegUni (d : SReg) (b : UOp) (s : State) : Host.Outcome State Fault Refusal :=
  uniform (.fnegUni d b) s (fun w x => x.setS d.toNat ((b.fval w) ^^^ 0x80000000))

/-- FRSUB (R164): Per-cell FP32 reverse subtract b minus a. -/
def execFrsub (d : VReg) (a : VReg) (b : BOp) (s : State) : Host.Outcome State Fault Refusal :=
  perCell (.frsub d a b) s d (fun s w f => fsub32 (b.fval s w f) (w.getV f a.toNat))

/-- FRSUB_UNI (R164): Uniform FP32 reverse subtract. -/
def execFrsubUni (d : SReg) (a : SReg) (b : UOp) (s : State) : Host.Outcome State Fault Refusal :=
  uniform (.frsubUni d a b) s (fun w x => x.setS d.toNat (fsub32 (b.fval w) (w.getS a.toNat)))

/-- FCMP (R166): Per-cell FP32 compare into a P register. -/
def execFcmp (c : FCond) (d : PReg) (a : VReg) (b : BOp) (s : State) : Host.Outcome State Fault Refusal :=
  perCellP (.fcmp c d a b) s d (fun s w f => Machine.fcmp c (w.getV f a.toNat) (b.fval s w f))

/-- FCMP_UNI (R166): Uniform FP32 compare into a K register. -/
def execFcmpUni (c : FCond) (d : KReg) (a : SReg) (b : UOp) (s : State) : Host.Outcome State Fault Refusal :=
  uniform (.fcmpUni c d a b) s (fun w x => x.setK d.toNat (Machine.fcmp c (w.getS a.toNat) (b.fval w)))

/-- FRCP (R167): Per-cell approximate reciprocal. -/
def execFrcp (d : VReg) (b : BOp) (s : State) : Host.Outcome State Fault Refusal :=
  perCell (.frcp d b) s d (fun s w f => frcp (b.fval s w f))

/-- FRCP_UNI (R167): Uniform approximate reciprocal. -/
def execFrcpUni (d : SReg) (b : UOp) (s : State) : Host.Outcome State Fault Refusal :=
  uniform (.frcpUni d b) s (fun w x => x.setS d.toNat (frcp (b.fval w)))

/-- FRSQ (R167): Per-cell approximate reciprocal square root. -/
def execFrsq (d : VReg) (b : BOp) (s : State) : Host.Outcome State Fault Refusal :=
  perCell (.frsq d b) s d (fun s w f => frsq (b.fval s w f))

/-- FRSQ_UNI (R167): Uniform approximate reciprocal square root. -/
def execFrsqUni (d : SReg) (b : UOp) (s : State) : Host.Outcome State Fault Refusal :=
  uniform (.frsqUni d b) s (fun w x => x.setS d.toNat (frsq (b.fval w)))

/-- FSQRT (R167): Per-cell correctly rounded square root. -/
def execFsqrt (d : VReg) (b : BOp) (s : State) : Host.Outcome State Fault Refusal :=
  perCell (.fsqrt d b) s d (fun s w f => fsqrt (b.fval s w f))

/-- FSQRT_UNI (R167): Uniform square root. -/
def execFsqrtUni (d : SReg) (b : UOp) (s : State) : Host.Outcome State Fault Refusal :=
  uniform (.fsqrtUni d b) s (fun w x => x.setS d.toNat (fsqrt (b.fval w)))

/-- FEXP2 (R167): Per-cell base-2 exponential. -/
def execFexp2 (d : VReg) (b : BOp) (s : State) : Host.Outcome State Fault Refusal :=
  perCell (.fexp2 d b) s d (fun s w f => fexp2 (b.fval s w f))

/-- FEXP2_UNI (R167): Uniform base-2 exponential. -/
def execFexp2Uni (d : SReg) (b : UOp) (s : State) : Host.Outcome State Fault Refusal :=
  uniform (.fexp2Uni d b) s (fun w x => x.setS d.toNat (fexp2 (b.fval w)))

/-- FLOG2 (R167): Per-cell base-2 logarithm. -/
def execFlog2 (d : VReg) (b : BOp) (s : State) : Host.Outcome State Fault Refusal :=
  perCell (.flog2 d b) s d (fun s w f => flog2 (b.fval s w f))

/-- FLOG2_UNI (R167): Uniform base-2 logarithm. -/
def execFlog2Uni (d : SReg) (b : UOp) (s : State) : Host.Outcome State Fault Refusal :=
  uniform (.flog2Uni d b) s (fun w x => x.setS d.toNat (flog2 (b.fval w)))

/-- FSIN (R167): Per-cell sine. -/
def execFsin (d : VReg) (b : BOp) (s : State) : Host.Outcome State Fault Refusal :=
  perCell (.fsin d b) s d (fun s w f => ftrig false (b.fval s w f))

/-- FSIN_UNI (R167): Uniform sine. -/
def execFsinUni (d : SReg) (b : UOp) (s : State) : Host.Outcome State Fault Refusal :=
  uniform (.fsinUni d b) s (fun w x => x.setS d.toNat (ftrig false (b.fval w)))

/-- FCOS (R167): Per-cell cosine. -/
def execFcos (d : VReg) (b : BOp) (s : State) : Host.Outcome State Fault Refusal :=
  perCell (.fcos d b) s d (fun s w f => ftrig true (b.fval s w f))

/-- FCOS_UNI (R167): Uniform cosine. -/
def execFcosUni (d : SReg) (b : UOp) (s : State) : Host.Outcome State Fault Refusal :=
  uniform (.fcosUni d b) s (fun w x => x.setS d.toNat (ftrig true (b.fval w)))

/-- DADD (R169): FP64 add on register pairs, VA only. -/
def execDadd (d : VReg) (a : VReg) (b : BOp) (s : State) : Host.Outcome State Fault Refusal :=
  perCell64 (.dadd d a b) s d (fun s w f => dop f64.add (w.getV64 f a.toNat) (b.dval s w f))

/-- DMUL (R169): FP64 multiply on register pairs. -/
def execDmul (d : VReg) (a : VReg) (b : BOp) (s : State) : Host.Outcome State Fault Refusal :=
  perCell64 (.dmul d a b) s d (fun s w f => dop f64.mul (w.getV64 f a.toNat) (b.dval s w f))

/-- DFMA (R169): FP64 fused multiply-add. -/
def execDfma (d : VReg) (a : VReg) (b : BOp) (s : State) : Host.Outcome State Fault Refusal :=
  perCell64 (.dfma d a b) s d (fun s w f => dfma64 (w.getV64 f a.toNat) (b.dval s w f) (w.getV64 f d.toNat))

/-- HADD2 (R170): Per-cell packed FP16 or BF16 add. -/
def execHadd2 (m : HFmt) (d : VReg) (a : VReg) (b : BOp) (s : State) : Host.Outcome State Fault Refusal :=
  perCell (.hadd2 m d a b) s d (fun s w f => packed (fun a b _ => (hfmt m).add a b) (w.getV f a.toNat) (b.hval s w m f) (w.getV f d.toNat))

/-- HADD2_UNI (R170): Uniform packed 16-bit add. -/
def execHadd2Uni (m : HFmt) (d : SReg) (a : SReg) (b : UOp) (s : State) : Host.Outcome State Fault Refusal :=
  uniform (.hadd2Uni m d a b) s (fun w x => x.setS d.toNat (packed (fun a b _ => (hfmt m).add a b) (w.getS a.toNat) (b.hval w m) (w.getS d.toNat)))

/-- HMUL2 (R170): Per-cell packed 16-bit multiply. -/
def execHmul2 (m : HFmt) (d : VReg) (a : VReg) (b : BOp) (s : State) : Host.Outcome State Fault Refusal :=
  perCell (.hmul2 m d a b) s d (fun s w f => packed (fun a b _ => (hfmt m).mul a b) (w.getV f a.toNat) (b.hval s w m f) (w.getV f d.toNat))

/-- HMUL2_UNI (R170): Uniform packed 16-bit multiply. -/
def execHmul2Uni (m : HFmt) (d : SReg) (a : SReg) (b : UOp) (s : State) : Host.Outcome State Fault Refusal :=
  uniform (.hmul2Uni m d a b) s (fun w x => x.setS d.toNat (packed (fun a b _ => (hfmt m).mul a b) (w.getS a.toNat) (b.hval w m) (w.getS d.toNat)))

/-- HFMA2 (R170): Per-cell packed 16-bit fused multiply-add. -/
def execHfma2 (m : HFmt) (d : VReg) (a : VReg) (b : BOp) (s : State) : Host.Outcome State Fault Refusal :=
  perCell (.hfma2 m d a b) s d (fun s w f => packed (fun a b d => (hfmt m).fma a b d) (w.getV f a.toNat) (b.hval s w m f) (w.getV f d.toNat))

/-- HFMA2_UNI (R170): Uniform packed 16-bit fused multiply-add. -/
def execHfma2Uni (m : HFmt) (d : SReg) (a : SReg) (b : UOp) (s : State) : Host.Outcome State Fault Refusal :=
  uniform (.hfma2Uni m d a b) s (fun w x => x.setS d.toNat (packed (fun a b d => (hfmt m).fma a b d) (w.getS a.toNat) (b.hval w m) (w.getS d.toNat)))

/-- RAND (R176): Per-cell draw from the cell's stream, advancing its draw counter. -/
def execRand (m : RandKind) (d : VReg) (s : State) : Host.Outcome State Fault Refusal :=
  issue (.rand m d) s free (fun n w s' => s'.modWave n (fun x =>
    (cellsOf w.active).foldl (fun x f => randCell m d.toNat (s.hdr w.kern) w f x) x))

/-- CVT (R171): Per-cell conversion of major 0x1C with a directed rounding mode. -/
def execCvt (c : CvtKind) (m : Rnd) (d : VReg) (b : BOp) (s : State) : Host.Outcome State Fault Refusal :=
  perCell (.cvt c m d b) s d (fun s w f => cvtVal c m (if c.src64 then b.dval s w f else (b.fval s w f).setWidth 64))

/-- CVT_EXT (R171): Per-cell conversion of major 0x1D. -/
def execCvtExt (c : CvtExt) (d : VReg) (b : BOp) (s : State) : Host.Outcome State Fault Refusal :=
  let bv (s : State) (w : Wave) (f : Nat) : BitVec 64 :=
    if c.src64 then b.dval s w f
    else if cvtInt c then (b.val s w f).setWidth 64
    else (cvtHalf s w c b f).setWidth 64
  if c.dst64 then perCell64 (.cvtExt c d b) s d (fun s w f => cvtExtVal c (bv s w f))
  else perCell (.cvtExt c d b) s d (fun s w f => (cvtExtVal c (bv s w f)).extractLsb' 0 32)

/-- CVT_UNI (R171): Uniform FP32 to INT32 or INT32 to FP32 conversion. -/
def execCvtUni (c : CvtUni) (d : SReg) (b : UOp) (s : State) : Host.Outcome State Fault Refusal :=
  uniform (.cvtUni c d b) s (fun w x => x.setS d.toNat (cvtUniVal c (match c with
    | .s32f32rz => b.fval w
    | .f32s32 => b.val w)))

/-- NPACK (R174): Quantises 32 FP32 registers into a narrow block per cell. -/
def execNpack (m : NFmt) (d : VReg) (a : VReg) (s : State) : Host.Outcome State Fault Refusal :=
  issue (.npack m d a) s free (fun n w s' => s'.modWave n (fun x =>
    (cellsOf w.active).foldl (fun x f => npackCell m d.toNat a.toNat (s.hdr w.kern) w f x) x))

/-- NUNPACK (R175): Widens a narrow block into 32 FP32 registers per cell. -/
def execNunpack (m : NFmt) (d : VReg) (a : VReg) (s : State) : Host.Outcome State Fault Refusal :=
  issue (.nunpack m d a) s free (fun n w s' => s'.modWave n (fun x =>
    (cellsOf w.active).foldl (fun x f => nunpackCell m d.toNat a.toNat w f x) x))

end Sys2Proof.Machine
end

