-- ==== Sys2Proof/Machine/Flags.lean ====
section
/-! DEFINITION. Every condition and carry: the compare conditions, the carry of IADDC and the saturations
(spec/07_isa_integer.md R144-R150). The conditions of FCMP stand in Number. -/
namespace Sys2Proof

/-- The signed and equality conditions (R148). -/
def ICond.holds (c : ICond) (a b : Word) : Bool :=
  match c with
  | .eq => a == b
  | .ne => a != b
  | .lt => decide (sv a < sv b)
  | .le => decide (sv a ≤ sv b)
  | .gt => decide (sv b < sv a)
  | .ge => decide (sv b ≤ sv a)

/-- The unsigned conditions (R148). -/
def UCond.holds (c : UCond) (a b : Word) : Bool :=
  match c with
  | .ltu => decide (uv a < uv b)
  | .leu => decide (uv a ≤ uv b)
  | .gtu => decide (uv b < uv a)
  | .geu => decide (uv b ≤ uv a)

namespace Machine

/-- u(a) + u(b) + carry (R144). -/
def carrySum (a b : Word) (c : Bool) : Nat := uv a + uv b + (if c then 1 else 0)
/-- The carry out of IADDC (R144). -/
def carryOut (a b : Word) (c : Bool) : Bool := decide (2 ^ 32 ≤ carrySum a b c)

/-- s(a) + s(b) clamped to the signed range (R144). -/
def satSigned (a b : Word) : Word := BitVec.ofInt 32 (max (-2147483648) (min 2147483647 (sv a + sv b)))
/-- u(a) + u(b) clamped to the unsigned range (R145). -/
def satUnsigned (a b : Word) : Word := BitVec.ofNat 32 (min 4294967295 (uv a + uv b))

/-- VOTE over the predicate's values in the active cells (R150). -/
def vote (m : VoteMode) (ps : List Bool) : Bool :=
  match m with
  | .all => ps.all id
  | .any => ps.any id
  | .uni => ps.all id || ps.all (!·)

end Machine
end Sys2Proof
end

