-- ==== Sys2Proof/Machine/Integer.lean ====
section
/-! DEFINITION. The meanings of majors 0x00 to 0x0F: integer arithmetic, logic, compares, predicates, moves and address
registers (spec/07_isa_integer.md). -/
namespace Sys2Proof.Machine

/-! ## Values -/

/-- Bits 63:32 of the signed product (R144). -/
def mulHiS (a b : Word) : Word := BitVec.ofInt 32 (sv a * sv b / 4294967296)
/-- Bits 63:32 of the unsigned product (R145). -/
def mulHiU (a b : Word) : Word := BitVec.ofNat 32 (uv a * uv b / 4294967296)
def minS (a b : Word) : Word := if sv a ≤ sv b then a else b
def maxS (a b : Word) : Word := if sv a ≤ sv b then b else a
def minU (a b : Word) : Word := if uv a ≤ uv b then a else b
def maxU (a b : Word) : Word := if uv a ≤ uv b then b else a
/-- The wrapping absolute value (R144). -/
def absW (b : Word) : Word := if sv b < 0 then 0 - b else b
/-- Shift left; a count of 32 or more gives 0 (R146). -/
def shlW (a b : Word) : Word := if 32 ≤ uv b then 0 else a <<< uv b
/-- Logical shift right (R146). -/
def shrW (a b : Word) : Word := if 32 ≤ uv b then 0 else a >>> uv b
/-- Arithmetic shift right (R146). -/
def sarW (a b : Word) : Word := a.sshiftRight (min (uv b) 32)
/-- Rotate left by the count modulo 32 (R146). -/
def rotW (a b : Word) : Word := a.rotateLeft (uv b % 32)
/-- Leading zero bits among the lowest k bits. -/
def clzGo (b : Word) : Nat → Nat
  | 0 => 0
  | k + 1 => if b.getLsbD k then 0 else 1 + clzGo b k
/-- Count of leading zero bits (R146). -/
def clzW (b : Word) : Word := BitVec.ofNat 32 (clzGo b 32)
/-- Count of one bits (R146). -/
def popcW (b : Word) : Word := BitVec.ofNat 32 ((List.range 32).filter b.getLsbD).length
/-- Bit reversal (R146). -/
def brevW (b : Word) : Word := b.reverse
/-- LEN of a field operand: values above 32 act as 32 (R147). -/
def fieldLen (b : Word) : Nat := min 32 (uv (b.extractLsb' 8 6))
/-- POS of a field operand (R147). -/
def fieldPos (b : Word) : Nat := uv (b.extractLsb' 0 5)
/-- BFE (R147): the field of a, extended above bit 31 by the sign. -/
def bfeS (a b : Word) : Word :=
  let f := (a.signExtend 64 >>> fieldPos b).extractLsb' 0 (fieldLen b)
  f.signExtend 32
/-- BFE.u (R145, R147). -/
def bfeU (a b : Word) : Word :=
  let f := (a.setWidth 64 >>> fieldPos b).extractLsb' 0 (fieldLen b)
  f.setWidth 32
/-- BFI (R147): d with a field replaced by a. -/
def bfiW (d a b : Word) : Word :=
  let mask : Word := BitVec.ofNat 32 ((2 ^ fieldLen b - 1) * 2 ^ fieldPos b)
  (d &&& ~~~mask) ||| ((a <<< fieldPos b) &&& mask)

/-- The result of WIDF for the cell with a WID (R154). -/
def widfVal (h : Header) (wid : Nat) : WidSel → Word
  | .f0 => BitVec.ofNat 32 (h.field wid 0)
  | .f1 => BitVec.ofNat 32 (h.field wid 1)
  | .f2 => BitVec.ofNat 32 (h.field wid 2)
  | .f3 => BitVec.ofNat 32 (h.field wid 3)
  | .f4 => BitVec.ofNat 32 (h.field wid 4)
  | .f5 => BitVec.ofNat 32 (h.field wid 5)
  | .x => BitVec.ofNat 32 (h.coord wid 0)
  | .y => BitVec.ofNat 32 (h.coord wid 1)
  | .z => BitVec.ofNat 32 (h.coord wid 2)
  | .widlo => BitVec.ofNat 32 wid
  | .widhi => BitVec.ofNat 32 (wid / 4294967296)

/-- BALLOT's word (R151). -/
def ballotVal (w : Wave) (k p : Nat) : Word :=
  BitVec.ofNat 32 (((List.range 32).filter (fun i => w.active.getLsbD (32 * k + i) && w.getP (32 * k + i) p)).foldl
    (fun acc i => acc + 2 ^ i) 0)

/-! ## Meanings -/

/-- IADD (R144): Per-cell 32-bit wrapping add of A and B. -/
def execIadd (d : VReg) (a : VReg) (b : BOp) (s : State) : Host.Outcome State Fault Refusal :=
  perCell (.iadd d a b) s d (fun s w f => (w.getV f a.toNat) + (b.val s w f))

/-- IADD_UNI (R144): Uniform 32-bit wrapping add on S registers. -/
def execIaddUni (d : SReg) (a : SReg) (b : UOp) (s : State) : Host.Outcome State Fault Refusal :=
  uniform (.iaddUni d a b) s (fun w x => x.setS d.toNat ((w.getS a.toNat) + (b.val w)))

/-- ISUB (R144): Per-cell wrapping subtract a minus b. -/
def execIsub (d : VReg) (a : VReg) (b : BOp) (s : State) : Host.Outcome State Fault Refusal :=
  perCell (.isub d a b) s d (fun s w f => (w.getV f a.toNat) - (b.val s w f))

/-- ISUB_UNI (R144): Uniform wrapping subtract a minus b. -/
def execIsubUni (d : SReg) (a : SReg) (b : UOp) (s : State) : Host.Outcome State Fault Refusal :=
  uniform (.isubUni d a b) s (fun w x => x.setS d.toNat ((w.getS a.toNat) - (b.val w)))

/-- IRSUB (R144): Per-cell reverse subtract b minus a. -/
def execIrsub (d : VReg) (a : VReg) (b : BOp) (s : State) : Host.Outcome State Fault Refusal :=
  perCell (.irsub d a b) s d (fun s w f => (b.val s w f) - (w.getV f a.toNat))

/-- IRSUB_UNI (R144): Uniform reverse subtract b minus a. -/
def execIrsubUni (d : SReg) (a : SReg) (b : UOp) (s : State) : Host.Outcome State Fault Refusal :=
  uniform (.irsubUni d a b) s (fun w x => x.setS d.toNat ((b.val w) - (w.getS a.toNat)))

/-- IMUL (R144): Per-cell low 32 bits of a times b. -/
def execImul (d : VReg) (a : VReg) (b : BOp) (s : State) : Host.Outcome State Fault Refusal :=
  perCell (.imul d a b) s d (fun s w f => (w.getV f a.toNat) * (b.val s w f))

/-- IMUL_UNI (R144): Uniform low 32 bits of a times b. -/
def execImulUni (d : SReg) (a : SReg) (b : UOp) (s : State) : Host.Outcome State Fault Refusal :=
  uniform (.imulUni d a b) s (fun w x => x.setS d.toNat ((w.getS a.toNat) * (b.val w)))

/-- IMULHI (R144): Per-cell high 32 bits of the signed product. -/
def execImulhi (d : VReg) (a : VReg) (b : BOp) (s : State) : Host.Outcome State Fault Refusal :=
  perCell (.imulhi d a b) s d (fun s w f => mulHiS (w.getV f a.toNat) (b.val s w f))

/-- IMULHI_UNI (R144): Uniform high 32 bits of the signed product. -/
def execImulhiUni (d : SReg) (a : SReg) (b : UOp) (s : State) : Host.Outcome State Fault Refusal :=
  uniform (.imulhiUni d a b) s (fun w x => x.setS d.toNat (mulHiS (w.getS a.toNat) (b.val w)))

/-- IMAD (R144): Per-cell d plus a times b, wrapping. -/
def execImad (d : VReg) (a : VReg) (b : BOp) (s : State) : Host.Outcome State Fault Refusal :=
  perCell (.imad d a b) s d (fun s w f => (w.getV f d.toNat) + (w.getV f a.toNat) * (b.val s w f))

/-- IMAD_UNI (R144): Uniform d plus a times b, wrapping. -/
def execImadUni (d : SReg) (a : SReg) (b : UOp) (s : State) : Host.Outcome State Fault Refusal :=
  uniform (.imadUni d a b) s (fun w x => x.setS d.toNat ((w.getS d.toNat) + (w.getS a.toNat) * (b.val w)))

/-- IMIN (R144): Per-cell signed minimum. -/
def execImin (d : VReg) (a : VReg) (b : BOp) (s : State) : Host.Outcome State Fault Refusal :=
  perCell (.imin d a b) s d (fun s w f => minS (w.getV f a.toNat) (b.val s w f))

/-- IMIN_UNI (R144): Uniform signed minimum. -/
def execIminUni (d : SReg) (a : SReg) (b : UOp) (s : State) : Host.Outcome State Fault Refusal :=
  uniform (.iminUni d a b) s (fun w x => x.setS d.toNat (minS (w.getS a.toNat) (b.val w)))

/-- IMAX (R144): Per-cell signed maximum. -/
def execImax (d : VReg) (a : VReg) (b : BOp) (s : State) : Host.Outcome State Fault Refusal :=
  perCell (.imax d a b) s d (fun s w f => maxS (w.getV f a.toNat) (b.val s w f))

/-- IMAX_UNI (R144): Uniform signed maximum. -/
def execImaxUni (d : SReg) (a : SReg) (b : UOp) (s : State) : Host.Outcome State Fault Refusal :=
  uniform (.imaxUni d a b) s (fun w x => x.setS d.toNat (maxS (w.getS a.toNat) (b.val w)))

/-- IABS (R144): Per-cell absolute value of b, wrapping. -/
def execIabs (d : VReg) (b : BOp) (s : State) : Host.Outcome State Fault Refusal :=
  perCell (.iabs d b) s d (fun s w f => absW (b.val s w f))

/-- IABS_UNI (R144): Uniform absolute value of b, wrapping. -/
def execIabsUni (d : SReg) (b : UOp) (s : State) : Host.Outcome State Fault Refusal :=
  uniform (.iabsUni d b) s (fun w x => x.setS d.toNat (absW (b.val w)))

/-- INEG (R144): Per-cell negation of b, wrapping. -/
def execIneg (d : VReg) (b : BOp) (s : State) : Host.Outcome State Fault Refusal :=
  perCell (.ineg d b) s d (fun s w f => 0 - (b.val s w f))

/-- INEG_UNI (R144): Uniform negation of b, wrapping. -/
def execInegUni (d : SReg) (b : UOp) (s : State) : Host.Outcome State Fault Refusal :=
  uniform (.inegUni d b) s (fun w x => x.setS d.toNat (0 - (b.val w)))

/-- IADDC (R144): Per-cell add with carry through P6. -/
def execIaddc (d : VReg) (a : VReg) (b : BOp) (s : State) : Host.Outcome State Fault Refusal :=
  issue (.iaddc d a b) s free (fun n w s' =>
    let fs := cellsOf w.active
    s'.modWave n (fun x =>
      (x.setVs d.toNat (fun f => BitVec.ofNat 32 (carrySum (w.getV f a.toNat) (b.val s w f) (w.getP f 6))) fs).setPs 6
        (fun f => carryOut (w.getV f a.toNat) (b.val s w f) (w.getP f 6)) fs))

/-- IADDC_UNI (R144): Uniform add with carry through K6. -/
def execIaddcUni (d : SReg) (a : SReg) (b : UOp) (s : State) : Host.Outcome State Fault Refusal :=
  uniform (.iaddcUni d a b) s (fun w x =>
    (x.setS d.toNat (BitVec.ofNat 32 (carrySum (w.getS a.toNat) (b.val w) (w.getK 6)))).setK 6
      (carryOut (w.getS a.toNat) (b.val w) (w.getK 6)))

/-- ISAT (R144): Per-cell signed saturating add. -/
def execIsat (d : VReg) (a : VReg) (b : BOp) (s : State) : Host.Outcome State Fault Refusal :=
  perCell (.isat d a b) s d (fun s w f => satSigned (w.getV f a.toNat) (b.val s w f))

/-- ISAT_UNI (R144): Uniform signed saturating add. -/
def execIsatUni (d : SReg) (a : SReg) (b : UOp) (s : State) : Host.Outcome State Fault Refusal :=
  uniform (.isatUni d a b) s (fun w x => x.setS d.toNat (satSigned (w.getS a.toNat) (b.val w)))

/-- AND (R146): Per-cell bitwise and. -/
def execAnd (d : VReg) (a : VReg) (b : BOp) (s : State) : Host.Outcome State Fault Refusal :=
  perCell (.and d a b) s d (fun s w f => (w.getV f a.toNat) &&& (b.val s w f))

/-- AND_UNI (R146): Uniform bitwise and. -/
def execAndUni (d : SReg) (a : SReg) (b : UOp) (s : State) : Host.Outcome State Fault Refusal :=
  uniform (.andUni d a b) s (fun w x => x.setS d.toNat ((w.getS a.toNat) &&& (b.val w)))

/-- OR (R146): Per-cell bitwise or. -/
def execOr (d : VReg) (a : VReg) (b : BOp) (s : State) : Host.Outcome State Fault Refusal :=
  perCell (.or d a b) s d (fun s w f => (w.getV f a.toNat) ||| (b.val s w f))

/-- OR_UNI (R146): Uniform bitwise or. -/
def execOrUni (d : SReg) (a : SReg) (b : UOp) (s : State) : Host.Outcome State Fault Refusal :=
  uniform (.orUni d a b) s (fun w x => x.setS d.toNat ((w.getS a.toNat) ||| (b.val w)))

/-- XOR (R146): Per-cell bitwise xor. -/
def execXor (d : VReg) (a : VReg) (b : BOp) (s : State) : Host.Outcome State Fault Refusal :=
  perCell (.xor d a b) s d (fun s w f => (w.getV f a.toNat) ^^^ (b.val s w f))

/-- XOR_UNI (R146): Uniform bitwise xor. -/
def execXorUni (d : SReg) (a : SReg) (b : UOp) (s : State) : Host.Outcome State Fault Refusal :=
  uniform (.xorUni d a b) s (fun w x => x.setS d.toNat ((w.getS a.toNat) ^^^ (b.val w)))

/-- ANDN (R146): Per-cell a and not b. -/
def execAndn (d : VReg) (a : VReg) (b : BOp) (s : State) : Host.Outcome State Fault Refusal :=
  perCell (.andn d a b) s d (fun s w f => (w.getV f a.toNat) &&& ~~~(b.val s w f))

/-- ANDN_UNI (R146): Uniform a and not b. -/
def execAndnUni (d : SReg) (a : SReg) (b : UOp) (s : State) : Host.Outcome State Fault Refusal :=
  uniform (.andnUni d a b) s (fun w x => x.setS d.toNat ((w.getS a.toNat) &&& ~~~(b.val w)))

/-- NOT (R146): Per-cell bitwise not of b. -/
def execNot (d : VReg) (b : BOp) (s : State) : Host.Outcome State Fault Refusal :=
  perCell (.not d b) s d (fun s w f => ~~~(b.val s w f))

/-- NOT_UNI (R146): Uniform bitwise not of b. -/
def execNotUni (d : SReg) (b : UOp) (s : State) : Host.Outcome State Fault Refusal :=
  uniform (.notUni d b) s (fun w x => x.setS d.toNat (~~~(b.val w)))

/-- SHL (R146): Per-cell shift left, zero for counts of 32 or more. -/
def execShl (d : VReg) (a : VReg) (b : BOp) (s : State) : Host.Outcome State Fault Refusal :=
  perCell (.shl d a b) s d (fun s w f => shlW (w.getV f a.toNat) (b.val s w f))

/-- SHL_UNI (R146): Uniform shift left. -/
def execShlUni (d : SReg) (a : SReg) (b : UOp) (s : State) : Host.Outcome State Fault Refusal :=
  uniform (.shlUni d a b) s (fun w x => x.setS d.toNat (shlW (w.getS a.toNat) (b.val w)))

/-- SHR (R146): Per-cell logical shift right. -/
def execShr (d : VReg) (a : VReg) (b : BOp) (s : State) : Host.Outcome State Fault Refusal :=
  perCell (.shr d a b) s d (fun s w f => shrW (w.getV f a.toNat) (b.val s w f))

/-- SHR_UNI (R146): Uniform logical shift right. -/
def execShrUni (d : SReg) (a : SReg) (b : UOp) (s : State) : Host.Outcome State Fault Refusal :=
  uniform (.shrUni d a b) s (fun w x => x.setS d.toNat (shrW (w.getS a.toNat) (b.val w)))

/-- SAR (R146): Per-cell arithmetic shift right. -/
def execSar (d : VReg) (a : VReg) (b : BOp) (s : State) : Host.Outcome State Fault Refusal :=
  perCell (.sar d a b) s d (fun s w f => sarW (w.getV f a.toNat) (b.val s w f))

/-- SAR_UNI (R146): Uniform arithmetic shift right. -/
def execSarUni (d : SReg) (a : SReg) (b : UOp) (s : State) : Host.Outcome State Fault Refusal :=
  uniform (.sarUni d a b) s (fun w x => x.setS d.toNat (sarW (w.getS a.toNat) (b.val w)))

/-- ROT (R146): Per-cell rotate left by b mod 32. -/
def execRot (d : VReg) (a : VReg) (b : BOp) (s : State) : Host.Outcome State Fault Refusal :=
  perCell (.rot d a b) s d (fun s w f => rotW (w.getV f a.toNat) (b.val s w f))

/-- ROT_UNI (R146): Uniform rotate left. -/
def execRotUni (d : SReg) (a : SReg) (b : UOp) (s : State) : Host.Outcome State Fault Refusal :=
  uniform (.rotUni d a b) s (fun w x => x.setS d.toNat (rotW (w.getS a.toNat) (b.val w)))

/-- CLZ (R146): Per-cell count of leading zeros. -/
def execClz (d : VReg) (b : BOp) (s : State) : Host.Outcome State Fault Refusal :=
  perCell (.clz d b) s d (fun s w f => clzW (b.val s w f))

/-- CLZ_UNI (R146): Uniform count of leading zeros. -/
def execClzUni (d : SReg) (b : UOp) (s : State) : Host.Outcome State Fault Refusal :=
  uniform (.clzUni d b) s (fun w x => x.setS d.toNat (clzW (b.val w)))

/-- POPC (R146): Per-cell population count. -/
def execPopc (d : VReg) (b : BOp) (s : State) : Host.Outcome State Fault Refusal :=
  perCell (.popc d b) s d (fun s w f => popcW (b.val s w f))

/-- POPC_UNI (R146): Uniform population count. -/
def execPopcUni (d : SReg) (b : UOp) (s : State) : Host.Outcome State Fault Refusal :=
  uniform (.popcUni d b) s (fun w x => x.setS d.toNat (popcW (b.val w)))

/-- BREV (R146): Per-cell bit reversal. -/
def execBrev (d : VReg) (b : BOp) (s : State) : Host.Outcome State Fault Refusal :=
  perCell (.brev d b) s d (fun s w f => brevW (b.val s w f))

/-- BREV_UNI (R146): Uniform bit reversal. -/
def execBrevUni (d : SReg) (b : UOp) (s : State) : Host.Outcome State Fault Refusal :=
  uniform (.brevUni d b) s (fun w x => x.setS d.toNat (brevW (b.val w)))

/-- BFE (R147): Per-cell signed bit-field extract. -/
def execBfe (d : VReg) (a : VReg) (b : BOp) (s : State) : Host.Outcome State Fault Refusal :=
  perCell (.bfe d a b) s d (fun s w f => bfeS (w.getV f a.toNat) (b.val s w f))

/-- BFE_UNI (R147): Uniform signed bit-field extract. -/
def execBfeUni (d : SReg) (a : SReg) (b : UOp) (s : State) : Host.Outcome State Fault Refusal :=
  uniform (.bfeUni d a b) s (fun w x => x.setS d.toNat (bfeS (w.getS a.toNat) (b.val w)))

/-- BFI (R147): Per-cell bit-field insert into d. -/
def execBfi (d : VReg) (a : VReg) (b : BOp) (s : State) : Host.Outcome State Fault Refusal :=
  perCell (.bfi d a b) s d (fun s w f => bfiW (w.getV f d.toNat) (w.getV f a.toNat) (b.val s w f))

/-- BFI_UNI (R147): Uniform bit-field insert into d. -/
def execBfiUni (d : SReg) (a : SReg) (b : UOp) (s : State) : Host.Outcome State Fault Refusal :=
  uniform (.bfiUni d a b) s (fun w x => x.setS d.toNat (bfiW (w.getS d.toNat) (w.getS a.toNat) (b.val w)))

/-- SEL (R146): Per-cell select a or b by P6. -/
def execSel (d : VReg) (a : VReg) (b : BOp) (s : State) : Host.Outcome State Fault Refusal :=
  perCell (.sel d a b) s d (fun s w f => if w.getP f 6 then (w.getV f a.toNat) else (b.val s w f))

/-- SEL_UNI (R146): Uniform select a or b by K6. -/
def execSelUni (d : SReg) (a : SReg) (b : UOp) (s : State) : Host.Outcome State Fault Refusal :=
  uniform (.selUni d a b) s (fun w x => x.setS d.toNat (if w.getK 6 then (w.getS a.toNat) else (b.val w)))

/-- ICMP (R148): Per-cell signed or equality compare into a P register. -/
def execIcmp (c : ICond) (d : PReg) (a : VReg) (b : BOp) (s : State) : Host.Outcome State Fault Refusal :=
  perCellP (.icmp c d a b) s d (fun s w f => c.holds (w.getV f a.toNat) (b.val s w f))

/-- ICMP_UNI (R148): Uniform signed or equality compare into a K register. -/
def execIcmpUni (c : ICond) (d : KReg) (a : SReg) (b : UOp) (s : State) : Host.Outcome State Fault Refusal :=
  uniform (.icmpUni c d a b) s (fun w x => x.setK d.toNat (c.holds (w.getS a.toNat) (b.val w)))

/-- ICMP_UNSIGNED (R148): Per-cell unsigned compare into a P register. -/
def execIcmpUnsigned (c : UCond) (d : PReg) (a : VReg) (b : BOp) (s : State) : Host.Outcome State Fault Refusal :=
  perCellP (.icmpUnsigned c d a b) s d (fun s w f => c.holds (w.getV f a.toNat) (b.val s w f))

/-- ICMP_UNSIGNED_UNI (R148): Uniform unsigned compare into a K register. -/
def execIcmpUnsignedUni (c : UCond) (d : KReg) (a : SReg) (b : UOp) (s : State) : Host.Outcome State Fault Refusal :=
  uniform (.icmpUnsignedUni c d a b) s (fun w x => x.setK d.toNat (c.holds (w.getS a.toNat) (b.val w)))

/-- PAND (R149): Per-cell predicate and. -/
def execPand (d : PReg) (a : PReg) (b : PReg) (s : State) : Host.Outcome State Fault Refusal :=
  perCellP (.pand d a b) s d (fun _ w f => (w.getP f a.toNat) && (w.getP f b.toNat))

/-- PAND_UNI (R149): Uniform K-register and. -/
def execPandUni (d : KReg) (a : KReg) (b : KReg) (s : State) : Host.Outcome State Fault Refusal :=
  uniform (.pandUni d a b) s (fun w x => x.setK d.toNat ((w.getK a.toNat) && (w.getK b.toNat)))

/-- POR (R149): Per-cell predicate or. -/
def execPor (d : PReg) (a : PReg) (b : PReg) (s : State) : Host.Outcome State Fault Refusal :=
  perCellP (.por d a b) s d (fun _ w f => (w.getP f a.toNat) || (w.getP f b.toNat))

/-- POR_UNI (R149): Uniform K-register or. -/
def execPorUni (d : KReg) (a : KReg) (b : KReg) (s : State) : Host.Outcome State Fault Refusal :=
  uniform (.porUni d a b) s (fun w x => x.setK d.toNat ((w.getK a.toNat) || (w.getK b.toNat)))

/-- PXOR (R149): Per-cell predicate xor. -/
def execPxor (d : PReg) (a : PReg) (b : PReg) (s : State) : Host.Outcome State Fault Refusal :=
  perCellP (.pxor d a b) s d (fun _ w f => (w.getP f a.toNat) != (w.getP f b.toNat))

/-- PXOR_UNI (R149): Uniform K-register xor. -/
def execPxorUni (d : KReg) (a : KReg) (b : KReg) (s : State) : Host.Outcome State Fault Refusal :=
  uniform (.pxorUni d a b) s (fun w x => x.setK d.toNat ((w.getK a.toNat) != (w.getK b.toNat)))

/-- PNOT (R149): Per-cell predicate not. -/
def execPnot (d : PReg) (b : PReg) (s : State) : Host.Outcome State Fault Refusal :=
  perCellP (.pnot d b) s d (fun _ w f => !(w.getP f b.toNat))

/-- PNOT_UNI (R149): Uniform K-register not. -/
def execPnotUni (d : KReg) (b : KReg) (s : State) : Host.Outcome State Fault Refusal :=
  uniform (.pnotUni d b) s (fun w x => x.setK d.toNat (!(w.getK b.toNat)))

/-- VOTE (R150): Reduces a predicate over active cells into a K register. -/
def execVote (m : VoteMode) (d : KReg) (b : PReg) (s : State) : Host.Outcome State Fault Refusal :=
  uniform (.vote m d b) s (fun w x => x.setK d.toNat (Machine.vote m ((cellsOf w.active).map (fun f => w.getP f b.toNat))))

/-- BALLOT (R151): Gathers 32 cells' predicate bits into an S register. -/
def execBallot (d : SReg) (k : BitVec 4) (b : PReg) (s : State) : Host.Outcome State Fault Refusal :=
  uniform (.ballot d k b) s (fun w x => x.setS d.toNat (ballotVal w k.toNat b.toNat))

/-- MOV (R152): Per-cell 32-bit copy of B. -/
def execMov (d : VReg) (b : BOp) (s : State) : Host.Outcome State Fault Refusal :=
  perCell (.mov d b) s d (fun s w f => (b.val s w f))

/-- MOV_UNI (R152): Uniform 32-bit copy of B. -/
def execMovUni (d : SReg) (b : UOp) (s : State) : Host.Outcome State Fault Refusal :=
  uniform (.movUni d b) s (fun w x => x.setS d.toNat ((b.val w)))

/-- MOVL (R152): Per-cell 64-bit pair copy. -/
def execMovl (d : VReg) (b : BOp) (s : State) : Host.Outcome State Fault Refusal :=
  perCell64 (.movl d b) s d (fun s w f => b.val64 s w f)

/-- MOVL_UNI (R152): Uniform 64-bit pair copy. -/
def execMovlUni (d : SReg) (b : UOp) (s : State) : Host.Outcome State Fault Refusal :=
  uniform (.movlUni d b) s (fun w x => x.setS64 d.toNat (b.val64 w))

/-- WIDF (R154): Per-cell read of a WID field, coordinate or WID word. -/
def execWidf (d : VReg) (k : WidSel) (s : State) : Host.Outcome State Fault Refusal :=
  perCell (.widf d k) s d (fun s w f => widfVal (s.hdr w.kern) (w.wid (s.hdr w.kern) f) k)

/-- WIDF_UNI (R154): Uniform read of a WID field with F0 taken as 0. -/
def execWidfUni (d : SReg) (k : WidSel) (s : State) : Host.Outcome State Fault Refusal :=
  uniform (.widfUni d k) s (fun w x => x.setS d.toNat (widfVal (s.hdr w.kern) (w.wid (s.hdr w.kern) 0) k))

/-- AADD (R155): Adds B to an A register. -/
def execAadd (d : AReg) (a : AReg) (b : UOp) (s : State) : Host.Outcome State Fault Refusal :=
  uniform (.aadd d a b) s (fun w x => x.setA d.toNat (w.getA a.toNat + b.val w))

/-- ASET (R155): Sets an A register to B. -/
def execAset (d : AReg) (b : UOp) (s : State) : Host.Outcome State Fault Refusal :=
  uniform (.aset d b) s (fun w x => x.setA d.toNat (b.val w))

/-- The limits of ISET (R157). -/
def isetBad (st bs ln : Word) : Bool :=
  decide (1572864 < uv ln) || decide (1572864 < uv bs + uv ln) || (ln != 0 && decide (uv ln ≤ (sv st).natAbs))

/-- ISET (R157): Loads an I register from three S registers, checking limits. -/
def execIset (d : IReg) (n : SReg) (s : State) : Host.Outcome State Fault Refusal :=
  issue (.iset d n) s
    (fun _ w s => if isetBad (w.getS n.toNat) (w.getS (n.toNat + 1)) (w.getS (n.toNat + 2)) then .trap 5 s.slotArg else .ok)
    (fun k w s' => s'.modWave k (fun x =>
      x.setI d.toNat ⟨w.getS (n.toNat + 2), w.getS (n.toNat + 1), w.getS n.toNat⟩))

/-- MOVI (R153): Per-cell load of a sign-extended 17-bit immediate. -/
def execMovi (d : VReg) (i : BitVec 17) (s : State) : Host.Outcome State Fault Refusal :=
  perCell (.movi d i) s d (fun _ _ _ => i.signExtend 32)

/-- MOVI_UNI (R153): Uniform load of a sign-extended 17-bit immediate. -/
def execMoviUni (d : SReg) (i : BitVec 17) (s : State) : Host.Outcome State Fault Refusal :=
  uniform (.moviUni d i) s (fun _ x => x.setS d.toNat (i.signExtend 32))

/-- IMULHI_UNSIGNED (R145): Per-cell high half of the unsigned product. -/
def execImulhiUnsigned (d : VReg) (a : VReg) (b : BOp) (s : State) : Host.Outcome State Fault Refusal :=
  perCell (.imulhiUnsigned d a b) s d (fun s w f => mulHiU (w.getV f a.toNat) (b.val s w f))

/-- IMULHI_UNSIGNED_UNI (R145): Uniform high half of the unsigned product. -/
def execImulhiUnsignedUni (d : SReg) (a : SReg) (b : UOp) (s : State) : Host.Outcome State Fault Refusal :=
  uniform (.imulhiUnsignedUni d a b) s (fun w x => x.setS d.toNat (mulHiU (w.getS a.toNat) (b.val w)))

/-- IMIN_UNSIGNED (R145): Per-cell unsigned minimum. -/
def execIminUnsigned (d : VReg) (a : VReg) (b : BOp) (s : State) : Host.Outcome State Fault Refusal :=
  perCell (.iminUnsigned d a b) s d (fun s w f => minU (w.getV f a.toNat) (b.val s w f))

/-- IMIN_UNSIGNED_UNI (R145): Uniform unsigned minimum. -/
def execIminUnsignedUni (d : SReg) (a : SReg) (b : UOp) (s : State) : Host.Outcome State Fault Refusal :=
  uniform (.iminUnsignedUni d a b) s (fun w x => x.setS d.toNat (minU (w.getS a.toNat) (b.val w)))

/-- IMAX_UNSIGNED (R145): Per-cell unsigned maximum. -/
def execImaxUnsigned (d : VReg) (a : VReg) (b : BOp) (s : State) : Host.Outcome State Fault Refusal :=
  perCell (.imaxUnsigned d a b) s d (fun s w f => maxU (w.getV f a.toNat) (b.val s w f))

/-- IMAX_UNSIGNED_UNI (R145): Uniform unsigned maximum. -/
def execImaxUnsignedUni (d : SReg) (a : SReg) (b : UOp) (s : State) : Host.Outcome State Fault Refusal :=
  uniform (.imaxUnsignedUni d a b) s (fun w x => x.setS d.toNat (maxU (w.getS a.toNat) (b.val w)))

/-- ISAT_UNSIGNED (R145): Per-cell unsigned saturating add. -/
def execIsatUnsigned (d : VReg) (a : VReg) (b : BOp) (s : State) : Host.Outcome State Fault Refusal :=
  perCell (.isatUnsigned d a b) s d (fun s w f => satUnsigned (w.getV f a.toNat) (b.val s w f))

/-- ISAT_UNSIGNED_UNI (R145): Uniform unsigned saturating add. -/
def execIsatUnsignedUni (d : SReg) (a : SReg) (b : UOp) (s : State) : Host.Outcome State Fault Refusal :=
  uniform (.isatUnsignedUni d a b) s (fun w x => x.setS d.toNat (satUnsigned (w.getS a.toNat) (b.val w)))

/-- BFE_UNSIGNED (R147): Per-cell zero-extended bit-field extract. -/
def execBfeUnsigned (d : VReg) (a : VReg) (b : BOp) (s : State) : Host.Outcome State Fault Refusal :=
  perCell (.bfeUnsigned d a b) s d (fun s w f => bfeU (w.getV f a.toNat) (b.val s w f))

/-- BFE_UNSIGNED_UNI (R147): Uniform zero-extended bit-field extract. -/
def execBfeUnsignedUni (d : SReg) (a : SReg) (b : UOp) (s : State) : Host.Outcome State Fault Refusal :=
  uniform (.bfeUnsignedUni d a b) s (fun w x => x.setS d.toNat (bfeU (w.getS a.toNat) (b.val w)))

end Sys2Proof.Machine
end

