-- ==== Sys2Proof/Machine/Dispatch.lean ====
section
/-! DEFINITION. One arm for each constructor of Instr. -/
namespace Sys2Proof.Machine

/-- The meaning of every instruction and step. -/
def exec (i : Instr) (s : State) : Host.Outcome State Fault Refusal :=
  match i with
  | .iadd d a b => Sys2Proof.Machine.execIadd d a b s
  | .iaddUni d a b => Sys2Proof.Machine.execIaddUni d a b s
  | .isub d a b => Sys2Proof.Machine.execIsub d a b s
  | .isubUni d a b => Sys2Proof.Machine.execIsubUni d a b s
  | .irsub d a b => Sys2Proof.Machine.execIrsub d a b s
  | .irsubUni d a b => Sys2Proof.Machine.execIrsubUni d a b s
  | .imul d a b => Sys2Proof.Machine.execImul d a b s
  | .imulUni d a b => Sys2Proof.Machine.execImulUni d a b s
  | .imulhi d a b => Sys2Proof.Machine.execImulhi d a b s
  | .imulhiUni d a b => Sys2Proof.Machine.execImulhiUni d a b s
  | .imad d a b => Sys2Proof.Machine.execImad d a b s
  | .imadUni d a b => Sys2Proof.Machine.execImadUni d a b s
  | .imin d a b => Sys2Proof.Machine.execImin d a b s
  | .iminUni d a b => Sys2Proof.Machine.execIminUni d a b s
  | .imax d a b => Sys2Proof.Machine.execImax d a b s
  | .imaxUni d a b => Sys2Proof.Machine.execImaxUni d a b s
  | .iabs d b => Sys2Proof.Machine.execIabs d b s
  | .iabsUni d b => Sys2Proof.Machine.execIabsUni d b s
  | .ineg d b => Sys2Proof.Machine.execIneg d b s
  | .inegUni d b => Sys2Proof.Machine.execInegUni d b s
  | .iaddc d a b => Sys2Proof.Machine.execIaddc d a b s
  | .iaddcUni d a b => Sys2Proof.Machine.execIaddcUni d a b s
  | .isat d a b => Sys2Proof.Machine.execIsat d a b s
  | .isatUni d a b => Sys2Proof.Machine.execIsatUni d a b s
  | .and d a b => Sys2Proof.Machine.execAnd d a b s
  | .andUni d a b => Sys2Proof.Machine.execAndUni d a b s
  | .or d a b => Sys2Proof.Machine.execOr d a b s
  | .orUni d a b => Sys2Proof.Machine.execOrUni d a b s
  | .xor d a b => Sys2Proof.Machine.execXor d a b s
  | .xorUni d a b => Sys2Proof.Machine.execXorUni d a b s
  | .andn d a b => Sys2Proof.Machine.execAndn d a b s
  | .andnUni d a b => Sys2Proof.Machine.execAndnUni d a b s
  | .not d b => Sys2Proof.Machine.execNot d b s
  | .notUni d b => Sys2Proof.Machine.execNotUni d b s
  | .shl d a b => Sys2Proof.Machine.execShl d a b s
  | .shlUni d a b => Sys2Proof.Machine.execShlUni d a b s
  | .shr d a b => Sys2Proof.Machine.execShr d a b s
  | .shrUni d a b => Sys2Proof.Machine.execShrUni d a b s
  | .sar d a b => Sys2Proof.Machine.execSar d a b s
  | .sarUni d a b => Sys2Proof.Machine.execSarUni d a b s
  | .rot d a b => Sys2Proof.Machine.execRot d a b s
  | .rotUni d a b => Sys2Proof.Machine.execRotUni d a b s
  | .clz d b => Sys2Proof.Machine.execClz d b s
  | .clzUni d b => Sys2Proof.Machine.execClzUni d b s
  | .popc d b => Sys2Proof.Machine.execPopc d b s
  | .popcUni d b => Sys2Proof.Machine.execPopcUni d b s
  | .brev d b => Sys2Proof.Machine.execBrev d b s
  | .brevUni d b => Sys2Proof.Machine.execBrevUni d b s
  | .bfe d a b => Sys2Proof.Machine.execBfe d a b s
  | .bfeUni d a b => Sys2Proof.Machine.execBfeUni d a b s
  | .bfi d a b => Sys2Proof.Machine.execBfi d a b s
  | .bfiUni d a b => Sys2Proof.Machine.execBfiUni d a b s
  | .sel d a b => Sys2Proof.Machine.execSel d a b s
  | .selUni d a b => Sys2Proof.Machine.execSelUni d a b s
  | .icmp c d a b => Sys2Proof.Machine.execIcmp c d a b s
  | .icmpUni c d a b => Sys2Proof.Machine.execIcmpUni c d a b s
  | .icmpUnsigned c d a b => Sys2Proof.Machine.execIcmpUnsigned c d a b s
  | .icmpUnsignedUni c d a b => Sys2Proof.Machine.execIcmpUnsignedUni c d a b s
  | .pand d a b => Sys2Proof.Machine.execPand d a b s
  | .pandUni d a b => Sys2Proof.Machine.execPandUni d a b s
  | .por d a b => Sys2Proof.Machine.execPor d a b s
  | .porUni d a b => Sys2Proof.Machine.execPorUni d a b s
  | .pxor d a b => Sys2Proof.Machine.execPxor d a b s
  | .pxorUni d a b => Sys2Proof.Machine.execPxorUni d a b s
  | .pnot d b => Sys2Proof.Machine.execPnot d b s
  | .pnotUni d b => Sys2Proof.Machine.execPnotUni d b s
  | .vote m d b => Sys2Proof.Machine.execVote m d b s
  | .ballot d k b => Sys2Proof.Machine.execBallot d k b s
  | .mov d b => Sys2Proof.Machine.execMov d b s
  | .movUni d b => Sys2Proof.Machine.execMovUni d b s
  | .movl d b => Sys2Proof.Machine.execMovl d b s
  | .movlUni d b => Sys2Proof.Machine.execMovlUni d b s
  | .widf d k => Sys2Proof.Machine.execWidf d k s
  | .widfUni d k => Sys2Proof.Machine.execWidfUni d k s
  | .aadd d a b => Sys2Proof.Machine.execAadd d a b s
  | .aset d b => Sys2Proof.Machine.execAset d b s
  | .iset d n => Sys2Proof.Machine.execIset d n s
  | .movi d im => Sys2Proof.Machine.execMovi d im s
  | .moviUni d im => Sys2Proof.Machine.execMoviUni d im s
  | .imulhiUnsigned d a b => Sys2Proof.Machine.execImulhiUnsigned d a b s
  | .imulhiUnsignedUni d a b => Sys2Proof.Machine.execImulhiUnsignedUni d a b s
  | .iminUnsigned d a b => Sys2Proof.Machine.execIminUnsigned d a b s
  | .iminUnsignedUni d a b => Sys2Proof.Machine.execIminUnsignedUni d a b s
  | .imaxUnsigned d a b => Sys2Proof.Machine.execImaxUnsigned d a b s
  | .imaxUnsignedUni d a b => Sys2Proof.Machine.execImaxUnsignedUni d a b s
  | .isatUnsigned d a b => Sys2Proof.Machine.execIsatUnsigned d a b s
  | .isatUnsignedUni d a b => Sys2Proof.Machine.execIsatUnsignedUni d a b s
  | .bfeUnsigned d a b => Sys2Proof.Machine.execBfeUnsigned d a b s
  | .bfeUnsignedUni d a b => Sys2Proof.Machine.execBfeUnsignedUni d a b s
  | .fadd d a b => Sys2Proof.Machine.execFadd d a b s
  | .faddUni d a b => Sys2Proof.Machine.execFaddUni d a b s
  | .fsub d a b => Sys2Proof.Machine.execFsub d a b s
  | .fsubUni d a b => Sys2Proof.Machine.execFsubUni d a b s
  | .fmul d a b => Sys2Proof.Machine.execFmul d a b s
  | .fmulUni d a b => Sys2Proof.Machine.execFmulUni d a b s
  | .ffma d a b => Sys2Proof.Machine.execFfma d a b s
  | .ffmaUni d a b => Sys2Proof.Machine.execFfmaUni d a b s
  | .fmin d a b => Sys2Proof.Machine.execFmin d a b s
  | .fminUni d a b => Sys2Proof.Machine.execFminUni d a b s
  | .fmax d a b => Sys2Proof.Machine.execFmax d a b s
  | .fmaxUni d a b => Sys2Proof.Machine.execFmaxUni d a b s
  | .fabs d b => Sys2Proof.Machine.execFabs d b s
  | .fabsUni d b => Sys2Proof.Machine.execFabsUni d b s
  | .fneg d b => Sys2Proof.Machine.execFneg d b s
  | .fnegUni d b => Sys2Proof.Machine.execFnegUni d b s
  | .frsub d a b => Sys2Proof.Machine.execFrsub d a b s
  | .frsubUni d a b => Sys2Proof.Machine.execFrsubUni d a b s
  | .fcmp c d a b => Sys2Proof.Machine.execFcmp c d a b s
  | .fcmpUni c d a b => Sys2Proof.Machine.execFcmpUni c d a b s
  | .frcp d b => Sys2Proof.Machine.execFrcp d b s
  | .frcpUni d b => Sys2Proof.Machine.execFrcpUni d b s
  | .frsq d b => Sys2Proof.Machine.execFrsq d b s
  | .frsqUni d b => Sys2Proof.Machine.execFrsqUni d b s
  | .fsqrt d b => Sys2Proof.Machine.execFsqrt d b s
  | .fsqrtUni d b => Sys2Proof.Machine.execFsqrtUni d b s
  | .fexp2 d b => Sys2Proof.Machine.execFexp2 d b s
  | .fexp2Uni d b => Sys2Proof.Machine.execFexp2Uni d b s
  | .flog2 d b => Sys2Proof.Machine.execFlog2 d b s
  | .flog2Uni d b => Sys2Proof.Machine.execFlog2Uni d b s
  | .fsin d b => Sys2Proof.Machine.execFsin d b s
  | .fsinUni d b => Sys2Proof.Machine.execFsinUni d b s
  | .fcos d b => Sys2Proof.Machine.execFcos d b s
  | .fcosUni d b => Sys2Proof.Machine.execFcosUni d b s
  | .dadd d a b => Sys2Proof.Machine.execDadd d a b s
  | .dmul d a b => Sys2Proof.Machine.execDmul d a b s
  | .dfma d a b => Sys2Proof.Machine.execDfma d a b s
  | .hadd2 m d a b => Sys2Proof.Machine.execHadd2 m d a b s
  | .hadd2Uni m d a b => Sys2Proof.Machine.execHadd2Uni m d a b s
  | .hmul2 m d a b => Sys2Proof.Machine.execHmul2 m d a b s
  | .hmul2Uni m d a b => Sys2Proof.Machine.execHmul2Uni m d a b s
  | .hfma2 m d a b => Sys2Proof.Machine.execHfma2 m d a b s
  | .hfma2Uni m d a b => Sys2Proof.Machine.execHfma2Uni m d a b s
  | .rand m d => Sys2Proof.Machine.execRand m d s
  | .cvt c m d b => Sys2Proof.Machine.execCvt c m d b s
  | .cvtExt c d b => Sys2Proof.Machine.execCvtExt c d b s
  | .cvtUni c d b => Sys2Proof.Machine.execCvtUni c d b s
  | .npack m d a => Sys2Proof.Machine.execNpack m d a s
  | .nunpack m d a => Sys2Proof.Machine.execNunpack m d a s
  | .ld m d a => Sys2Proof.Machine.execLd m d a s
  | .st m d a => Sys2Proof.Machine.execSt m d a s
  | .ldUni m d a => Sys2Proof.Machine.execLdUni m d a s
  | .stUni d a => Sys2Proof.Machine.execStUni d a s
  | .ldt d a => Sys2Proof.Machine.execLdt d a s
  | .stt d a => Sys2Proof.Machine.execStt d a s
  | .accrd d t b => Sys2Proof.Machine.execAccrd d t b s
  | .accwr t a b => Sys2Proof.Machine.execAccwr t a b s
  | .lshuf m d a b => Sys2Proof.Machine.execLshuf m d a b s
  | .bcast d a b => Sys2Proof.Machine.execBcast d a b s
  | .bcastUni d a b => Sys2Proof.Machine.execBcastUni d a b s
  | .xchg d a b => Sys2Proof.Machine.execXchg d a b s
  | .atom m d a => Sys2Proof.Machine.execAtom m d a s
  | .atomBitwise m d a => Sys2Proof.Machine.execAtomBitwise m d a s
  | .atomFloat m d a => Sys2Proof.Machine.execAtomFloat m d a s
  | .atomUni m d a => Sys2Proof.Machine.execAtomUni m d a s
  | .bra c o => Sys2Proof.Machine.execBra c o s
  | .call k o => Sys2Proof.Machine.execCall k o s
  | .split o => Sys2Proof.Machine.execSplit o s
  | .jmp b => Sys2Proof.Machine.execJmp b s
  | .ret => Sys2Proof.Machine.execRet s
  | .merge => Sys2Proof.Machine.execMerge s
  | .yield => Sys2Proof.Machine.execYield s
  | .exit => Sys2Proof.Machine.execExit s
  | .nop => Sys2Proof.Machine.execNop s
  | .binit n b => Sys2Proof.Machine.execBinit n b s
  | .barr h b => Sys2Proof.Machine.execBarr h b s
  | .bwait b => Sys2Proof.Machine.execBwait b s
  | .bsync h b => Sys2Proof.Machine.execBsync h b s
  | .bqry n b => Sys2Proof.Machine.execBqry n b s
  | .hfork d h => Sys2Proof.Machine.execHfork d h s
  | .hjoin d h e => Sys2Proof.Machine.execHjoin d h e s
  | .hpass h n => Sys2Proof.Machine.execHpass h n s
  | .hrecv d n => Sys2Proof.Machine.execHrecv d n s
  | .hwait h => Sys2Proof.Machine.execHwait h s
  | .hwaitRet h => Sys2Proof.Machine.execHwaitRet h s
  | .fence c h => Sys2Proof.Machine.execFence c h s
  | .fenceAll c => Sys2Proof.Machine.execFenceAll c s
  | .step => Sys2Proof.Machine.execStep s
  | .acq => Sys2Proof.Machine.execAcq s
  | .rel => Sys2Proof.Machine.execRel s
  | .elect d => Sys2Proof.Machine.execElect d s
  | .cpy o => Sys2Proof.Machine.execCpy o s
  | .tcpy o => Sys2Proof.Machine.execTcpy o s
  | .gath o => Sys2Proof.Machine.execGath o s
  | .scat o => Sys2Proof.Machine.execScat o s
  | .cbinit c n => Sys2Proof.Machine.execCbinit c n s
  | .cpyq n h => Sys2Proof.Machine.execCpyq n h s
  | .cpyqRes h => Sys2Proof.Machine.execCpyqRes h s
  | .cpyqAbn h => Sys2Proof.Machine.execCpyqAbn h s
  | .launch t n => Sys2Proof.Machine.execLaunch t n s
  | .qroom n => Sys2Proof.Machine.execQroom n s
  | .rst o => Sys2Proof.Machine.execRst o s
  | .rld o => Sys2Proof.Machine.execRld o s
  | .rred o => Sys2Proof.Machine.execRred o s
  | .ratom o => Sys2Proof.Machine.execRatom o s
  | .rcpy o => Sys2Proof.Machine.execRcpy o s
  | .rwait t n h => Sys2Proof.Machine.execRwait t n h s
  | .swplan n p => Sys2Proof.Machine.execSwplan n p s
  | .swgo o => Sys2Proof.Machine.execSwgo o s
  | .swstat n => Sys2Proof.Machine.execSwstat n s
  | .swresume o => Sys2Proof.Machine.execSwresume o s
  | .swabort h => Sys2Proof.Machine.execSwabort h s
  | .cbtake d c => Sys2Proof.Machine.execCbtake d c s
  | .cbfree c => Sys2Proof.Machine.execCbfree c s
  | .resq d h => Sys2Proof.Machine.execResq d h s
  | .pagereq d h => Sys2Proof.Machine.execPagereq d h s
  | .mzero t => Sys2Proof.Machine.execMzero t s
  | .mrdy => Sys2Proof.Machine.execMrdy s
  | .mwait t => Sys2Proof.Machine.execMwait t s
  | .mdrain m t n im z => Sys2Proof.Machine.execMdrain m t n im z s
  | .mma m o => Sys2Proof.Machine.execMma m o s
  | .sysr d r b => Sys2Proof.Machine.execSysr d r b s
  | .syswTrappc b => Sys2Proof.Machine.execSyswTrappc b s
  | .syswTrapres b => Sys2Proof.Machine.execSyswTrapres b s
  | .trap b => Sys2Proof.Machine.execTrap b s
  | .tret => Sys2Proof.Machine.execTret s
  | .causec d b => Sys2Proof.Machine.execCausec d b s
  | .bkpt im => Sys2Proof.Machine.execBkpt im s
  | .pendingFaultDelivery w => Sys2Proof.Machine.execPendingFaultDelivery w s
  | .notice peer flit => Sys2Proof.Machine.execNotice peer flit s
  | .halo peer flit => Sys2Proof.Machine.execHalo peer flit s
  | .place k t core => Sys2Proof.Machine.execPlace k t core s
  | .evict core => Sys2Proof.Machine.execEvict core s
  | .reload core => Sys2Proof.Machine.execReload core s
  | .quantumEnd t => Sys2Proof.Machine.execQuantumEnd t s
  | .commit t => Sys2Proof.Machine.execCommit t s
  | .tokenPass k => Sys2Proof.Machine.execTokenPass k s
  | .detlock k => Sys2Proof.Machine.execDetlock k s
  | .perform w slot => Sys2Proof.Machine.execPerform w slot s
  | .drain w id => Sys2Proof.Machine.execDrain w id s
  | .accept w id => Sys2Proof.Machine.execAccept w id s
  | .segment op => Sys2Proof.Machine.execSegment op s
  | .complete op => Sys2Proof.Machine.execComplete op s
  | .fault op => Sys2Proof.Machine.execFault op s
  | .deliver ch => Sys2Proof.Machine.execDeliver ch s
  | .ack op => Sys2Proof.Machine.execAck op s
  | .openGate w slot => Sys2Proof.Machine.execOpenGate w slot s
  | .fenceOpen w id => Sys2Proof.Machine.execFenceOpen w id s
  | .rootlaunch box vf q pkt => Sys2Proof.Machine.execRootlaunch box vf q pkt s
  | .bind box vf q base logcap prio => Sys2Proof.Machine.execBind box vf q base logcap prio s
  | .unbind box vf q => Sys2Proof.Machine.execUnbind box vf q s
  | .discard q => Sys2Proof.Machine.execDiscard q s
  | .select part => Sys2Proof.Machine.execSelect part s
  | .translated k => Sys2Proof.Machine.execTranslated k s
  | .kernelDone k => Sys2Proof.Machine.execKernelDone k s
  | .counterPoll q => Sys2Proof.Machine.execCounterPoll q s
  | .memwrite box vf va bytes => Sys2Proof.Machine.execMemwrite box vf va bytes s
  | .filled vf page e1 e2 asked host => Sys2Proof.Machine.execFilled vf page e1 e2 asked host s
  | .noback vf page => Sys2Proof.Machine.execNoback vf page s
  | .shootdown vf pages => Sys2Proof.Machine.execShootdown vf pages s
  | .reclaim vf task => Sys2Proof.Machine.execReclaim vf task s
  | .shootdownTimeout vf => Sys2Proof.Machine.execShootdownTimeout vf s
  | .move vf page pfn => Sys2Proof.Machine.execMove vf page pfn s
  | .moved vf page => Sys2Proof.Machine.execMoved vf page s
  | .waitNoticeTimer ch => Sys2Proof.Machine.execWaitNoticeTimer ch s
  | .parkedComplete ch => Sys2Proof.Machine.execParkedComplete ch s
  | .reserve op => Sys2Proof.Machine.execReserve op s
  | .tokenTick => Sys2Proof.Machine.execTokenTick s
  | .allowanceSet box vf amount => Sys2Proof.Machine.execAllowanceSet box vf amount s
  | .matrixStart pair => Sys2Proof.Machine.execMatrixStart pair s
  | .retire pair => Sys2Proof.Machine.execRetire pair s
  | .create box vf parts => Sys2Proof.Machine.execCreate box vf parts s
  | .ctxConfigure box vf slice grace qtime => Sys2Proof.Machine.execCtxConfigure box vf slice grace qtime s
  | .ctxread box vf => Sys2Proof.Machine.execCtxread box vf s
  | .imgread box vf => Sys2Proof.Machine.execImgread box vf s
  | .destroy box vf => Sys2Proof.Machine.execDestroy box vf s
  | .contextDrained vf => Sys2Proof.Machine.execContextDrained vf s
  | .turn part => Sys2Proof.Machine.execTurn part s
  | .sliceend vf => Sys2Proof.Machine.execSliceend vf s
  | .grace vf => Sys2Proof.Machine.execGrace vf s
  | .halted vf overrun => Sys2Proof.Machine.execHalted vf overrun s
  | .qtimer vf => Sys2Proof.Machine.execQtimer vf s
  | .restored vf first => Sys2Proof.Machine.execRestored vf first s
  | .quench box vf => Sys2Proof.Machine.execQuench box vf s
  | .resetdone vf => Sys2Proof.Machine.execResetdone vf s
  | .blkmove box block part => Sys2Proof.Machine.execBlkmove box block part s
  | .removed block => Sys2Proof.Machine.execRemoved block s
  | .blkmoveTimeout block => Sys2Proof.Machine.execBlkmoveTimeout block s
  | .scrubbed block => Sys2Proof.Machine.execScrubbed block s
  | .correctedError unit => Sys2Proof.Machine.execCorrectedError unit s
  | .uncorrectableError unit reading addr => Sys2Proof.Machine.execUncorrectableError unit reading addr s
  | .hndset box vf off => Sys2Proof.Machine.execHndset box vf off s
  | .fltread box vf => Sys2Proof.Machine.execFltread box vf s
  | .evtread => Sys2Proof.Machine.execEvtread s
  | .runbind box vf peer peerVf => Sys2Proof.Machine.execRunbind box vf peer peerVf s
  | .idle peer flit => Sys2Proof.Machine.execIdle peer flit s
  | .ctrlAck peer flit => Sys2Proof.Machine.execCtrlAck peer flit s
  | .nak peer flit => Sys2Proof.Machine.execNak peer flit s
  | .restripe peer flit => Sys2Proof.Machine.execRestripe peer flit s
  | .ctrlCredit peer flit => Sys2Proof.Machine.execCtrlCredit peer flit s
  | .lol peer flit => Sys2Proof.Machine.execLol peer flit s
  | .req peer flit => Sys2Proof.Machine.execReq peer flit s
  | .data peer flit => Sys2Proof.Machine.execData peer flit s
  | .rsp peer flit => Sys2Proof.Machine.execRsp peer flit s
  | .pass peer flit => Sys2Proof.Machine.execPass peer flit s
  | .done peer flit => Sys2Proof.Machine.execDone peer flit s
  | .wait peer flit => Sys2Proof.Machine.execWait peer flit s
  | .genn peer flit => Sys2Proof.Machine.execGenn peer flit s
  | .ackTimer peer => Sys2Proof.Machine.execAckTimer peer s
  | .replayTimeout peer => Sys2Proof.Machine.execReplayTimeout peer s
  | .lossOfLight peer mask => Sys2Proof.Machine.execLossOfLight peer mask s
  | .berhigh peer wl => Sys2Proof.Machine.execBerhigh peer wl s
  | .wlback peer wl => Sys2Proof.Machine.execWlback peer wl s
  | .wldead peer wl => Sys2Proof.Machine.execWldead peer wl s
  | .retrain peer spares => Sys2Proof.Machine.execRetrain peer spares s
  | .trained peer mask => Sys2Proof.Machine.execTrained peer mask s
  | .trainfail peer => Sys2Proof.Machine.execTrainfail peer s
  | .unreachable peer => Sys2Proof.Machine.execUnreachable peer s
  | .resync peer => Sys2Proof.Machine.execResync peer s
  | .rcpyPacket op => Sys2Proof.Machine.execRcpyPacket op s
  | .written w => Sys2Proof.Machine.execWritten w s
  | .swageSegmentStart op => Sys2Proof.Machine.execSwageSegmentStart op s
  | .swageSegmentDone op seg => Sys2Proof.Machine.execSwageSegmentDone op seg s
  | .linkWidthDrop link => Sys2Proof.Machine.execLinkWidthDrop link s
  | .linkWidthReturn link => Sys2Proof.Machine.execLinkWidthReturn link s
  | .crossbarToken chan => Sys2Proof.Machine.execCrossbarToken chan s
  | .clockHalve die => Sys2Proof.Machine.execClockHalve die s
  | .clockRestore die => Sys2Proof.Machine.execClockRestore die s
  | .thermalTrip die => Sys2Proof.Machine.execThermalTrip die s
  | .powerOn => Sys2Proof.Machine.execPowerOn s
  | .reset => Sys2Proof.Machine.execReset s
  | .romDone => Sys2Proof.Machine.execRomDone s
  | .stackTrained stack => Sys2Proof.Machine.execStackTrained stack s
  | .hbmtrain stack => Sys2Proof.Machine.execHbmtrain stack s
  | .status => Sys2Proof.Machine.execStatus s
  | .attest nonce => Sys2Proof.Machine.execAttest nonce s
  | .attestReport => Sys2Proof.Machine.execAttestReport s
  | .fwload image => Sys2Proof.Machine.execFwload image s
  | .fwcommit => Sys2Proof.Machine.execFwcommit s
  | .registerWrite reg value => Sys2Proof.Machine.execRegisterWrite reg value s
  | .illop slot => Sys2Proof.Machine.execIllop slot s
  | .ucieEvent code => Sys2Proof.Machine.execUcieEvent code s
  | .thermalRelease die => Sys2Proof.Machine.execThermalRelease die s
  | .debuggerAttach on => Sys2Proof.Machine.execDebuggerAttach on s
  | .debuggerResume t => Sys2Proof.Machine.execDebuggerResume t s

end Sys2Proof.Machine
end

