-- ==== Sys2Proof/Machine/Progress.lean ====
section
/-! DEFINITION. What the machine does by itself when the agenda is empty, and the placing of a program word
(spec/13_ordering.md R248, notes/assumptions/11.md, notes/assumptions/12.md). -/
namespace Sys2Proof.Machine

/-! ## The machine's own steps, in the order in which one is looked for -/

/-- A pending fault is delivered. -/
def faultProgress (s : State) : Option State :=
  (s.waves.find? (fun p => faultDue s p.2)).map (fun p => deliverPending p.1 s)

/-- Sequencers and perform buffers. -/
def waveProgress (s : State) : Option State := firstStep (fun p => waveStep p.1 s) s.waves

/-- The segments of a Swage operation that are in flight. -/
def inFlight (o : Op) : List Nat :=
  match o.k with
  | .swage r => r.inflight.map (·.1)
  | _ => []

/-- One operation. -/
def opStep (i : Nat) (o : Op) (s : State) : Option State :=
  match firstStep (fun f => f i s) [reserveStep, segmentStep, completeStep, faultStep, ackAny, rcpyStep, segmentStart] with
  | some s' => some s'
  | none => firstStep (fun f => f s) (landStep i 0 :: (inFlight o).map (segmentDone i))

/-- Engines and the fabric port. -/
def opProgress (s : State) : Option State := firstStep (fun p => opStep p.1 p.2 s) s.ops

/-- FROZEN operations of teams that have resumed are QUEUED as the queue of their pair has room (spec/20_matrix.md R360). -/
def thawStep (key : Nat) (s : State) : Option State :=
  if !(s.thawing key).isEmpty && decide (((Tbl.find s.pairs key).getD {}).queue.length < 8) then some (s.thawPair key) else none

/-- Matrix pairs. -/
def matrixProgress (s : State) : Option State :=
  match firstStep (fun p => retireStep p.1 s) s.pairs with
  | some s' => some s'
  | none =>
    match firstStep (fun k => thawStep k s) ((s.teams.filter (fun t => !t.2.frozen.isEmpty)).map (fun t => t.2.pair)) with
    | some s' => some s'
    | none => firstStep (fun p => matrixStartStep p.1 s) s.pairs

/-- END of a team. -/
def endProgress (s : State) : Option State := firstStep (fun p => endTeam p.1 s) s.teams

/-- The package's networks: a flit or a beat of a mesh link, a token hold of a crossbar channel with packets. -/
def netProgress (s : State) : Option State :=
  match firstStep (fun l => meshStep l.1 s) s.mesh with
  | some s' => some s'
  | none => (s.xbar.find? (fun c => !c.2.queued.isEmpty)).map (fun c => crossbarToken c.1 s)

/-- A wave that waits at SWPLAN begins to generate its plan once its records are at rest. -/
def planBegin (n : Nat) (w : Wave) (s : State) : Option State :=
  if !mayTry s w || w.hold.isNone then none
  else match nextWords s w with
    | [.swplan a b] =>
      let s' := swplanBegin a b n w s
      if (ownPlan a.toNat n s' w).isSome && (ownPlan a.toNat n s w).isNone then some s' else none
    | _ => none

/-- Plans that are being generated. -/
def planProgress (s : State) : Option State :=
  match firstStep (fun p => if p.2.st == 6 then p.2.wave.bind (fun w => writtenStep w s) else none) s.plans with
  | some s' => some s'
  | none => firstStep (fun p => planBegin p.1 p.2 s) s.waves

/-- Fabric channels and parked accesses. -/
def fabricProgress (s : State) : Option State :=
  match firstStep (fun p => parkedStep p.chan s) s.parked with
  | some s' => some s'
  | none => firstStep (fun p => deliverPacket p.1 s) s.channels

/-- Deterministic mode: quanta, commits, rounds and the token. -/
def roundProgress (s : State) : Option State :=
  match firstStep (fun p => firstStep (fun f => f p.1 s) [quantumEnd, commitStep, startRound]) s.teams with
  | some s' => some s'
  | none => firstStep (fun p => tokenPass p.1 s) s.kernels

/-- A core on which a team of a kernel may be placed: one that holds its images beside those it has, if there is one. -/
def placeOn (s : State) (k t : Nat) : Option Nat :=
  let cores := (List.range 320).filter (fun c => placeable s k t c)
  match cores.find? (fun c => fitsOn s c t) with
  | some c => some c
  | none => cores.head?

/-- The next PENDING team of a kernel, in the order of team indices. -/
def placeNext (k : Nat) (s : State) : Option State :=
  match (sortBy (fun p => p.2.idx) (s.teams.filter (fun p => p.2.kern == k && p.2.st == .pending))).head? with
  | none => none
  | some (t, _) => (placeOn s k t).map (fun c => placeTeam k t c s)

/-- Kernels and queues. -/
def kernelProgress (s : State) : Option State :=
  match firstStep (fun p => firstStep (fun f => f p.1 s) [kernelDoneStep, fun k => translatedStep k [], placeNext]) s.kernels with
  | some s' => some s'
  | none =>
    match firstStep (fun p => discardStep p.1 s) s.queues with
    | some s' => some s'
    | none =>
      match firstStep (fun p => match p.2.ents with
          | k :: _ => if ((s.kern k).map (fun x => x.met != countersMet s x)).getD false then some (pollQueue p.1 s) else none
          | [] => none) s.queues with
      | some s' => some s'
      | none => firstStep (fun i => selectStep i s) (List.range s.hearth.parts.length)

/-- Teams that are evicted and reloaded. -/
def coreProgress (s : State) : Option State :=
  let cores := ((s.teams.filter (fun p => p.2.st == .evicted)).map (fun p => p.2.core)).eraseDups
  firstStep (fun c => coreStep c s) cores

/-- Contexts: an image is checked and restored, a quenched context is reset at once, a torn-down one with
nothing outstanding is drained, and the next context with work begins its turn. -/
def ctxProgress (s : State) : Option State :=
  let waits (vf : Nat) := s.peers.any (fun p => p.2.out.any (fun o => uv o.pkt.head.vf == vf))
  match firstStep (fun c => match c.2.st with
      | .restoring => restoredStep c.1 0 s
      | .quenching => some (s.modCtx c.1 (fun x => { x with st := .failed }))
      | .draining => if waits c.1 then none else some (drainedStep c.1 s)
      | _ => none) s.ctxs with
  | some s' => some s'
  | none => firstStep (fun i => turnStep i s) (List.range s.hearth.parts.length)

/-- Memory blocks: one that its new owner is given. -/
def blockProgress (s : State) : Option State := firstStep (fun b => addedStep b.1 s) s.blocks

/-- A step of the machine that has no event of its own in the opcode table. -/
def ownStep (x : OwnStep) (s : State) : Option State :=
  match x with
  | .land op k => landStep op k s
  | .word ch k => landWord ch k s
  | .round t => startRound t s
  | .freeRound t => freeRound t s
  | .endTeam t => endTeam t s
  | .thaw p => thawStep p s
  | .mesh l => meshStep l s
  | .plan n => (s.wave n).bind (fun w => planBegin n w s)
  | .added b => addedStep b s
  | .attempt l => attemptStep l s
  | .retry l wl => retryStep l wl s
  | .far j q up => farStep j q up s
  | .boot => bootStep s

/-- The first step, other than an issue, that is enabled. That a run of several devices is quiet, no single device can see: its
DETLOCK is an event (spec/11_group.md R234, notes/assumptions/11.md). -/
def progress (s : State) : Option State :=
  firstStep (fun f => f s) [faultProgress, waveProgress, opProgress, matrixProgress, planProgress, fabricProgress, endProgress, roundProgress,
    kernelProgress, coreProgress, ctxProgress, blockProgress, netProgress, bootStep, fun s => firstStep (fun p => if (s.hdr p.2.kern).width 5 = 0 then freeRound p.1 s else none) s.teams,
    fun s => firstStep (fun p => if p.2.hdr.width 5 = 0 then detlockStep p.1 s else none) s.kernels]

/-- A context of virtual function 0 with its first page mapped, as the host and a servicer leave it. -/
def bareCtx : Ctx where
  st := .running
  part := 15
  stage1 := [(0, ⟨0, true, true, false⟩)]
  stage2 := [(0, ⟨0, true, true, false⟩)]
  pages := [(0, { st := .resident, pins := 1 })]

/-- A kernel of one cell whose code segment is the packet at address 0. -/
def bareKernel : Kernel where
  vf := 0
  q := 0
  st := .running
  kid := 1
  pins := [0]
  dies := [0]

/-- Its wave. -/
def bareWave : Wave where
  kern := 0
  team := 0
  idx := 0
  live := 1
  active := 1
  h := [(0, { seq := 0, st := .opened })]
  seqs := [(0, {})]

/-- Its team, on core 0. -/
def bareTeam : Team where
  kern := 0
  idx := 0
  st := .resident
  bars := [(0, { st := true, mm := 1 })]
  free := 1

/-- The wave that issues next and the physical address it fetches at: the agenda names a wave that may issue a chain
of its own. -/
def fetchPlace (s : State) : Option Nat :=
  match s.agenda with
  | .issue n :: _ =>
    match s.wave n with
    | none => none
    | some w =>
      if mayTry s w && !faultDue s w && w.hold.isNone && w.redo == 0 && legalTarget s w w.pc && w.pc.toNat % 12 == 0 then
        (s.ctx (s.kernVf w.kern)).bind (fun c => c.phys ((s.hdr w.kern).codebase + uv w.pc))
      else none
  | _ => none

/-- Store a word, with zeros behind it, where the next step fetches; a machine in which no wave is about to issue is
given the least that a launched program is: a context, a kernel, a team and a wave of one cell. -/
def placeWord (s : State) (w : Nat) : State :=
  let bs := bytesOf 12 w
  match fetchPlace s with
  | some pa => s.setHbm pa bs
  | none =>
    { s with
      hearth := { s.hearth with stage := .full }
      ctxs := Tbl.put s.ctxs 0 bareCtx, kernels := Tbl.put s.kernels 0 bareKernel, teams := Tbl.put s.teams 0 bareTeam
      waves := Tbl.put s.waves 0 bareWave, mem := writeBytes memDefault s.mem 0 bs, agenda := [.issue 0] }

end Sys2Proof.Machine
end

