-- ==== Sys2Proof/Machine/Step.lean ====
section
/-! DEFINITION. One step of the machine, and the placing of an instruction where the next step fetches it. -/
namespace Sys2Proof.Machine

/-- One step: the head of the agenda; with an empty agenda the first step of the ordering machine, the engines and the
schedulers that is enabled, else the oldest wave's issue; else nothing (spec/13_ordering.md R248,
notes/assumptions/11.md). -/
def step (s : State) : Host.Outcome State Fault Refusal :=
  match s.agenda with
  | .issue n :: rest => issueWave exec n { s with agenda := rest }
  | .event i :: rest => after State.idle (exec i { s with agenda := rest, cur := none })
  | .own x :: rest => .next ((ownStep x { s with agenda := rest }).getD { s with agenda := rest })
  | [] =>
    match progress s with
    | some s' => .next s'
    | none =>
      match nextWave exec s with
      | some n => issueWave exec n s
      | none => .next s

/-- The state with an instruction stored where the next step fetches (notes/assumptions/12.md). -/
def State.withFetchWord (s : State) (nbits w : Nat) : State := placeWord s (w % 2 ^ nbits)

end Sys2Proof.Machine
end

