-- ==== Sys2Proof/Safety.lean ====
section
/-! DEFINITION. What counts as a safe run, and the terms in which claims speak of one step: the wave that issues, the
words that may issue, what a register file holds after a write, and the state after a word. -/
namespace Sys2Proof
open Machine

/-- A step that answers a next state: the machine has neither stopped with a fault nor turned an instruction away. -/
def goesOn (o : Host.Outcome State Fault Refusal) : Prop := ∃ t, o = .next t

/-- The machine takes n steps from a state without a fault or a refusal. -/
def Safe : Nat → State → Prop
  | 0, _ => True
  | n + 1, s => ∃ t, step s = .next t ∧ Safe n t

/-! ## Reading memory -/

/-- One byte of HBM, by physical address. -/
def byteAt (s : State) (a : Nat) : Byte := NMap.get memDefault s.mem a

/-- One byte of the scratchpad window of a team; 0 where there is no such team. -/
def windowByte (s : State) (t a : Nat) : Byte := ((s.team t).map (fun x => NMap.get 0 x.win a)).getD 0

/-- Every byte of HBM and of every window reads as before. -/
def SameMemory (s t : State) : Prop :=
  (∀ a, byteAt t a = byteAt s a) ∧ (∀ k a, windowByte t k a = windowByte s k a)

/-! ## A word that issues -/

/-- Wave n issues, on its own, the word in hand, and stands in the state w (spec/04_opcode_map.md R79). The word is not one that has waited
in a chain of several, which reads the registers of before the chain (spec/24_traps.md R495). -/
structure Alone (s : State) (n : Nat) (w : Wave) : Prop where
  cur : s.cur = some n
  wave : s.wave n = some w
  direct : s.chain.phase = .direct
  own : w.hold.bind (·.src) = none

/-- Every register that the word names is complete (spec/00_scope.md R14), or the word has been found so already and
waits (spec/24_traps.md R495). -/
def Complete (w : Wave) (i : Instr) : Prop :=
  w.hold ≠ none ∨ ∀ r ∈ i.srcs ++ i.dsts, ∀ p ∈ w.pend, p.1 ≠ r

/-- The wave owns the extended set, or the word names no register V32 to V63 (spec/03_formats.md R68). -/
def HasSet (w : Wave) (i : Instr) : Prop :=
  w.ext = true ∨ ∀ r ∈ i.srcs ++ i.dsts, ∀ n, r = .v n → n < 32

/-- The checks of a neighbour operand pass (R63, spec/06_cell.md R115, R118, R123): its axis has a field, its register
(both registers of a pair) is published, and every wave behind it has reached the step of the reader. -/
def NbrReady (s : State) (w : Wave) : BOp → Bool → Prop
  | .nbr ax plus r, wide =>
    (s.hdr w.kern).axisFields ax.num ≠ [] ∧ (s.hdr w.kern).isPub r.toNat = true ∧
    (wide = true → (s.hdr w.kern).isPub (r.toNat + 1) = true) ∧
    ∀ f, w.active.getLsbD f = true → ∀ x, (s.hdr w.kern).neighbour (w.wid (s.hdr w.kern) f) ax.num plus = .cell x →
      x / (s.hdr w.kern).cells ≠ w.idx → s.stand w (x / (s.hdr w.kern).cells) = .reached
  | _, _ => True

/-- The word passes every check that all words share (R79): wave n, which stands in w, may issue it. -/
structure Issues (s : State) (n : Nat) (w : Wave) (i : Instr) : Prop where
  alone : Alone s n w
  complete : Complete w i
  hasSet : HasSet w i
  nbr : ∀ b wide, i.bop? = some (b, wide) → NbrReady s w b wide

/-- The issuing wave becomes w', and the word has issued; nothing else changes. -/
def Machine.State.issued (s : State) (n : Nat) (w' : Wave) : State :=
  { s.modWave n (fun _ => w') with chain := { s.chain with verdict := .ok } }

/-- The wave past the chain in hand: the PC moves on and the wave is READY. -/
def Machine.Wave.onward (s : State) (w : Wave) : Wave := w.advance s.chain.next

/-! ## What a register file holds after a write -/

/-- In vs, register Vd of every active cell of w has the given value, and every other V register what it had. -/
def WritesV (w : Wave) (vs : NMap Word) (d : Nat) (g : Nat → Word) : Prop :=
  ∀ f r, r < 64 → NMap.get 0 vs (64 * f + r) = if w.active.getLsbD f = true ∧ r = d then g f else w.getV f r

/-- In vs, the pair Vd, Vd+1 of every active cell of w has the given value, and every other V register what it had. -/
def WritesV64 (w : Wave) (vs : NMap Word) (d : Nat) (g : Nat → BitVec 64) : Prop :=
  ∀ f r, r < 64 → NMap.get 0 vs (64 * f + r) =
    if w.active.getLsbD f = true ∧ r = d then (g f).extractLsb' 0 32
    else if w.active.getLsbD f = true ∧ r = d + 1 then (g f).extractLsb' 32 32 else w.getV f r

/-- In ps, predicate Pd of every active cell of w has the given value, and every other predicate what it had; P7 is
never written. -/
def WritesP (w : Wave) (ps : NMap Bool) (d : Nat) (g : Nat → Bool) : Prop :=
  ∀ f r, r < 8 → NMap.get false ps (8 * f + r) =
    if w.active.getLsbD f = true ∧ r = d ∧ d ≠ 7 then g f else NMap.get false w.p (8 * f + r)

/-- In m, register d has the given value and every other register what it had in the map before. -/
def WritesOne {α : Type} (dflt : α) (m m' : NMap α) (d : Nat) (x : α) : Prop :=
  ∀ r, NMap.get dflt m' r = if r = d then x else NMap.get dflt m r

end Sys2Proof
end

