-- ==== Sys2Proof/Certificates/Slice0/Obligations.lean ====
section
/-! DEFINITION. What the provers are to prove of the model: statements from the numbered rules of spec/. Each says in its
docstring which rules it formalises. A list of words beside a statement names every word that it speaks of, with the value
the rule gives it. -/
namespace Sys2Proof
open Machine

/-- The word whose bit k is g k. -/
def wordOfBits (g : Nat → Bool) : Word := BitVec.ofNat 32 (((List.range 32).map (fun k => if g k then 2 ^ k else 0)).sum)

/-! ## Integer words (spec/07_isa_integer.md) -/

/-- The value of BFE and BFE.u (R147): the field of a at POS of LEN bits, the bits above 31 filled with the sign or 0. -/
def fieldOf (signed : Bool) (a b : Word) : Word :=
  let len := min 32 (uv b / 256 % 64)
  let pos := uv b % 32
  if signed then BitVec.ofInt 32 (Int.bmod (sv a / 2 ^ pos) (2 ^ len)) else BitVec.ofNat 32 (uv a / 2 ^ pos % 2 ^ len)

/-- The value of BFI (R147), bit by bit. -/
def fieldInto (d a b : Word) : Word :=
  let len := min 32 (uv b / 256 % 64)
  let pos := uv b % 32
  wordOfBits (fun k => if pos ≤ k ∧ k < pos + len then a.getLsbD (k - pos) else d.getLsbD k)

/-- The values of the integer words with two operands (R144 to R147), from the old value of the destination, A, B and the
predicate that SEL reads. -/
def valAdd (_ a b : Word) (_ : Bool) : Word := BitVec.ofNat 32 (uv a + uv b)
def valSub (_ a b : Word) (_ : Bool) : Word := BitVec.ofInt 32 (uv a - uv b)
def valRsub (_ a b : Word) (_ : Bool) : Word := BitVec.ofInt 32 (uv b - uv a)
def valMul (_ a b : Word) (_ : Bool) : Word := BitVec.ofNat 32 (uv a * uv b)
def valMulhi (_ a b : Word) (_ : Bool) : Word := BitVec.ofInt 32 (sv a * sv b / 2 ^ 32)
def valMad (d a b : Word) (_ : Bool) : Word := BitVec.ofNat 32 (uv d + uv a * uv b)
def valMin (_ a b : Word) (_ : Bool) : Word := BitVec.ofInt 32 (min (sv a) (sv b))
def valMax (_ a b : Word) (_ : Bool) : Word := BitVec.ofInt 32 (max (sv a) (sv b))
def valSat (_ a b : Word) (_ : Bool) : Word := BitVec.ofInt 32 (max (-2 ^ 31) (min (2 ^ 31 - 1) (sv a + sv b)))
def valMulhiU (_ a b : Word) (_ : Bool) : Word := BitVec.ofNat 32 (uv a * uv b / 2 ^ 32)
def valMinU (_ a b : Word) (_ : Bool) : Word := BitVec.ofNat 32 (min (uv a) (uv b))
def valMaxU (_ a b : Word) (_ : Bool) : Word := BitVec.ofNat 32 (max (uv a) (uv b))
def valSatU (_ a b : Word) (_ : Bool) : Word := BitVec.ofNat 32 (min (2 ^ 32 - 1) (uv a + uv b))
def valAnd (_ a b : Word) (_ : Bool) : Word := wordOfBits (fun k => a.getLsbD k && b.getLsbD k)
def valOr (_ a b : Word) (_ : Bool) : Word := wordOfBits (fun k => a.getLsbD k || b.getLsbD k)
def valXor (_ a b : Word) (_ : Bool) : Word := wordOfBits (fun k => a.getLsbD k != b.getLsbD k)
def valAndn (_ a b : Word) (_ : Bool) : Word := wordOfBits (fun k => a.getLsbD k && !b.getLsbD k)
def valShl (_ a b : Word) (_ : Bool) : Word := if 32 ≤ uv b then 0 else BitVec.ofNat 32 (uv a * 2 ^ uv b)
def valShr (_ a b : Word) (_ : Bool) : Word := if 32 ≤ uv b then 0 else BitVec.ofNat 32 (uv a / 2 ^ uv b)
def valSar (_ a b : Word) (_ : Bool) : Word :=
  if 32 ≤ uv b then (if sv a < 0 then 0xFFFFFFFF else 0) else BitVec.ofInt 32 (sv a / 2 ^ uv b)
def valRot (_ a b : Word) (_ : Bool) : Word := wordOfBits (fun k => a.getLsbD ((k + 32 - uv b % 32) % 32))
def valBfe (_ a b : Word) (_ : Bool) : Word := fieldOf true a b
def valBfeU (_ a b : Word) (_ : Bool) : Word := fieldOf false a b
def valBfi (d a b : Word) (_ : Bool) : Word := fieldInto d a b
def valSel (_ a b : Word) (p : Bool) : Word := if p then a else b

/-- The values of the integer words with one operand (R144, R146, R152). -/
def valAbs (b : Word) : Word := if b = 0x80000000 then 0x80000000 else BitVec.ofNat 32 (sv b).natAbs
def valNeg (b : Word) : Word := BitVec.ofInt 32 (0 - sv b)
def valNot (b : Word) : Word := wordOfBits (fun k => !b.getLsbD k)
def valClz (b : Word) : Word := BitVec.ofNat 32 (if b = 0 then 32 else 31 - Nat.log2 (uv b))
def valPopc (b : Word) : Word := BitVec.ofNat 32 ((List.range 32).countP (fun k => b.getLsbD k))
def valBrev (b : Word) : Word := wordOfBits (fun k => b.getLsbD (31 - k))
def valMov (b : Word) : Word := b

/-- The per-cell words with two operands. -/
def intCellWords : List ((VReg → VReg → BOp → Instr) × (Word → Word → Word → Bool → Word)) :=
  [(.iadd, valAdd), (.isub, valSub), (.irsub, valRsub), (.imul, valMul), (.imulhi, valMulhi), (.imad, valMad),
   (.imin, valMin), (.imax, valMax), (.isat, valSat), (.imulhiUnsigned, valMulhiU), (.iminUnsigned, valMinU),
   (.imaxUnsigned, valMaxU), (.isatUnsigned, valSatU), (.and, valAnd), (.or, valOr), (.xor, valXor), (.andn, valAndn),
   (.shl, valShl), (.shr, valShr), (.sar, valSar), (.rot, valRot), (.bfe, valBfe), (.bfeUnsigned, valBfeU),
   (.bfi, valBfi), (.sel, valSel)]

/-- The per-cell words with one operand. -/
def intCellWords1 : List ((VReg → BOp → Instr) × (Word → Word)) :=
  [(.iabs, valAbs), (.ineg, valNeg), (.not, valNot), (.clz, valClz), (.popc, valPopc), (.brev, valBrev), (.mov, valMov)]

/-- The uniform words with two operands. -/
def intUniWords : List ((SReg → SReg → UOp → Instr) × (Word → Word → Word → Bool → Word)) :=
  [(.iaddUni, valAdd), (.isubUni, valSub), (.irsubUni, valRsub), (.imulUni, valMul), (.imulhiUni, valMulhi),
   (.imadUni, valMad), (.iminUni, valMin), (.imaxUni, valMax), (.isatUni, valSat), (.imulhiUnsignedUni, valMulhiU),
   (.iminUnsignedUni, valMinU), (.imaxUnsignedUni, valMaxU), (.isatUnsignedUni, valSatU), (.andUni, valAnd),
   (.orUni, valOr), (.xorUni, valXor), (.andnUni, valAndn), (.shlUni, valShl), (.shrUni, valShr), (.sarUni, valSar),
   (.rotUni, valRot), (.bfeUni, valBfe), (.bfeUnsignedUni, valBfeU), (.bfiUni, valBfi), (.selUni, valSel)]

/-- The uniform words with one operand. -/
def intUniWords1 : List ((SReg → UOp → Instr) × (Word → Word)) :=
  [(.iabsUni, valAbs), (.inegUni, valNeg), (.notUni, valNot), (.clzUni, valClz), (.popcUni, valPopc), (.brevUni, valBrev),
   (.movUni, valMov)]

end Sys2Proof

section
open Sys2Proof Machine

/-- R142, R144 to R147, R152: a per-cell integer word that may issue answers a next state in which Vd of every active cell
has the value that the rule gives; nothing else in the wave but its place in the program changes, and no byte of memory. -/
def Obligations.PerCellIntegerWordsGiveTheirValue : Prop :=
  (∀ e ∈ intCellWords, ∀ (d a : VReg) (b : BOp) (s : State) (n : Nat) (w : Wave), Issues s n w (e.1 d a b) →
    ∃ vs, exec (e.1 d a b) s = .next (s.issued n { w.onward s with v := vs }) ∧
      WritesV w vs d.toNat (fun f => e.2 (w.getV f d.toNat) (w.getV f a.toNat) (b.val s w f) (w.getP f 6)) ∧
      SameMemory s (s.issued n { w.onward s with v := vs })) ∧
  (∀ e ∈ intCellWords1, ∀ (d : VReg) (b : BOp) (s : State) (n : Nat) (w : Wave), Issues s n w (e.1 d b) →
    ∃ vs, exec (e.1 d b) s = .next (s.issued n { w.onward s with v := vs }) ∧
      WritesV w vs d.toNat (fun f => e.2 (b.val s w f)) ∧ SameMemory s (s.issued n { w.onward s with v := vs }))

/-- R142, R144 to R147, R152: a uniform integer word that may issue answers a next state in which Sd has the value that the
rule gives, whatever the active mask; nothing else in the wave but its place in the program changes, and no byte of
memory. -/
def Obligations.UniformIntegerWordsGiveTheirValue : Prop :=
  (∀ e ∈ intUniWords, ∀ (d a : SReg) (b : UOp) (s : State) (n : Nat) (w : Wave), Issues s n w (e.1 d a b) →
    ∃ ss, exec (e.1 d a b) s = .next (s.issued n { w.onward s with s := ss }) ∧
      WritesOne 0 w.s ss d.toNat (e.2 (w.getS d.toNat) (w.getS a.toNat) (b.val w) (w.getK 6)) ∧
      SameMemory s (s.issued n { w.onward s with s := ss })) ∧
  (∀ e ∈ intUniWords1, ∀ (d : SReg) (b : UOp) (s : State) (n : Nat) (w : Wave), Issues s n w (e.1 d b) →
    ∃ ss, exec (e.1 d b) s = .next (s.issued n { w.onward s with s := ss }) ∧
      WritesOne 0 w.s ss d.toNat (e.2 (b.val w)) ∧ SameMemory s (s.issued n { w.onward s with s := ss }))

/-- R144: IADDC adds the carry of P6 (K6 in the uniform form), and leaves the new carry there; the other registers, flags
and memory keep what they had. -/
def Obligations.AddWithCarryReadsAndWritesTheCarry : Prop :=
  (∀ (d a : VReg) (b : BOp) (s : State) (n : Nat) (w : Wave), Issues s n w (.iaddc d a b) →
    ∃ vs ps, exec (.iaddc d a b) s = .next (s.issued n { w.onward s with v := vs, p := ps }) ∧
      WritesV w vs d.toNat (fun f => BitVec.ofNat 32 (uv (w.getV f a.toNat) + uv (b.val s w f) + (w.getP f 6).toNat)) ∧
      WritesP w ps 6 (fun f => decide (2 ^ 32 ≤ uv (w.getV f a.toNat) + uv (b.val s w f) + (w.getP f 6).toNat)) ∧
      SameMemory s (s.issued n { w.onward s with v := vs, p := ps })) ∧
  (∀ (d a : SReg) (b : UOp) (s : State) (n : Nat) (w : Wave), Issues s n w (.iaddcUni d a b) →
    ∃ ss ks, exec (.iaddcUni d a b) s = .next (s.issued n { w.onward s with s := ss, k := ks }) ∧
      WritesOne 0 w.s ss d.toNat (BitVec.ofNat 32 (uv (w.getS a.toNat) + uv (b.val w) + (w.getK 6).toNat)) ∧
      WritesOne false w.k ks 6 (decide (2 ^ 32 ≤ uv (w.getS a.toNat) + uv (b.val w) + (w.getK 6).toNat)) ∧
      SameMemory s (s.issued n { w.onward s with s := ss, k := ks }))

end

namespace Sys2Proof
open Machine

/-- The conditions of R148. -/
def condS (c : ICond) (a b : Word) : Prop :=
  match c with
  | .eq => a = b
  | .ne => a ≠ b
  | .lt => sv a < sv b
  | .le => sv a ≤ sv b
  | .gt => sv a > sv b
  | .ge => sv a ≥ sv b
def condU (c : UCond) (a b : Word) : Prop :=
  match c with
  | .ltu => uv a < uv b
  | .leu => uv a ≤ uv b
  | .gtu => uv a > uv b
  | .geu => uv a ≥ uv b

/-- In ps, predicate Pd of every active cell of w is true exactly where g holds, and every other predicate is what it was;
P7 is never written. -/
def SetsP (w : Wave) (ps : NMap Bool) (d : Nat) (g : Nat → Prop) : Prop :=
  ∀ f r, r < 8 →
    ((w.active.getLsbD f = true ∧ r = d ∧ d ≠ 7) → (NMap.get false ps (8 * f + r) = true ↔ g f)) ∧
    (¬(w.active.getLsbD f = true ∧ r = d ∧ d ≠ 7) → NMap.get false ps (8 * f + r) = NMap.get false w.p (8 * f + r))

/-- In ks, Kd is true exactly where g holds, and every other K register is what it was; K7 is never written. -/
def SetsK (w : Wave) (ks : NMap Bool) (d : Nat) (g : Prop) : Prop :=
  ∀ r, ((r = d ∧ d ≠ 7) → (NMap.get false ks r = true ↔ g)) ∧
    (¬(r = d ∧ d ≠ 7) → NMap.get false ks r = NMap.get false w.k r)

/-- The predicate words (R149). -/
def predWords : List ((PReg → PReg → PReg → Instr) × (Bool → Bool → Bool)) :=
  [(.pand, fun a b => a && b), (.por, fun a b => a || b), (.pxor, fun a b => a != b), (fun d _ b => .pnot d b, fun _ b => !b)]
def predUniWords : List ((KReg → KReg → KReg → Instr) × (Bool → Bool → Bool)) :=
  [(.pandUni, fun a b => a && b), (.porUni, fun a b => a || b), (.pxorUni, fun a b => a != b),
   (fun d _ b => .pnotUni d b, fun _ b => !b)]

/-- When VOTE sets Kd (R150). -/
def votes (m : VoteMode) (w : Wave) (p : PReg) : Prop :=
  match m with
  | .all => ∀ f, w.active.getLsbD f = true → w.getP f p.toNat = true
  | .any => ∃ f, w.active.getLsbD f = true ∧ w.getP f p.toNat = true
  | .uni => ∀ f g, w.active.getLsbD f = true → w.active.getLsbD g = true → w.getP f p.toNat = w.getP g p.toNat

end Sys2Proof

section
open Sys2Proof Machine

/-- R142, R148, R149: a per-cell compare or predicate word sets Pd of the active cells to its condition and changes no other
predicate and no memory; a write to P7 is discarded. -/
def Obligations.PerCellComparesSetTheirPredicate : Prop :=
  (∀ (c : ICond) (d : PReg) (a : VReg) (b : BOp) (s : State) (n : Nat) (w : Wave), Issues s n w (.icmp c d a b) →
    ∃ ps, exec (.icmp c d a b) s = .next (s.issued n { w.onward s with p := ps }) ∧
      SetsP w ps d.toNat (fun f => condS c (w.getV f a.toNat) (b.val s w f)) ∧
      SameMemory s (s.issued n { w.onward s with p := ps })) ∧
  (∀ (c : UCond) (d : PReg) (a : VReg) (b : BOp) (s : State) (n : Nat) (w : Wave), Issues s n w (.icmpUnsigned c d a b) →
    ∃ ps, exec (.icmpUnsigned c d a b) s = .next (s.issued n { w.onward s with p := ps }) ∧
      SetsP w ps d.toNat (fun f => condU c (w.getV f a.toNat) (b.val s w f)) ∧
      SameMemory s (s.issued n { w.onward s with p := ps })) ∧
  (∀ e ∈ predWords, ∀ (d a b : PReg) (s : State) (n : Nat) (w : Wave), Issues s n w (e.1 d a b) →
    ∃ ps, exec (e.1 d a b) s = .next (s.issued n { w.onward s with p := ps }) ∧
      SetsP w ps d.toNat (fun f => e.2 (w.getP f a.toNat) (w.getP f b.toNat) = true) ∧
      SameMemory s (s.issued n { w.onward s with p := ps }))

/-- R142, R148 to R151: the uniform compares, the K-register words and VOTE set Kd and nothing else, a write to K7 being
discarded; BALLOT gathers one predicate of 32 cells into Sd. -/
def Obligations.UniformComparesVotesAndBallots : Prop :=
  (∀ (c : ICond) (d : KReg) (a : SReg) (b : UOp) (s : State) (n : Nat) (w : Wave), Issues s n w (.icmpUni c d a b) →
    ∃ ks, exec (.icmpUni c d a b) s = .next (s.issued n { w.onward s with k := ks }) ∧
      SetsK w ks d.toNat (condS c (w.getS a.toNat) (b.val w)) ∧ SameMemory s (s.issued n { w.onward s with k := ks })) ∧
  (∀ (c : UCond) (d : KReg) (a : SReg) (b : UOp) (s : State) (n : Nat) (w : Wave), Issues s n w (.icmpUnsignedUni c d a b) →
    ∃ ks, exec (.icmpUnsignedUni c d a b) s = .next (s.issued n { w.onward s with k := ks }) ∧
      SetsK w ks d.toNat (condU c (w.getS a.toNat) (b.val w)) ∧ SameMemory s (s.issued n { w.onward s with k := ks })) ∧
  (∀ e ∈ predUniWords, ∀ (d a b : KReg) (s : State) (n : Nat) (w : Wave), Issues s n w (e.1 d a b) →
    ∃ ks, exec (e.1 d a b) s = .next (s.issued n { w.onward s with k := ks }) ∧
      SetsK w ks d.toNat (e.2 (w.getK a.toNat) (w.getK b.toNat) = true) ∧
      SameMemory s (s.issued n { w.onward s with k := ks })) ∧
  (∀ (m : VoteMode) (d : KReg) (b : PReg) (s : State) (n : Nat) (w : Wave), Issues s n w (.vote m d b) →
    ∃ ks, exec (.vote m d b) s = .next (s.issued n { w.onward s with k := ks }) ∧
      SetsK w ks d.toNat (votes m w b) ∧ SameMemory s (s.issued n { w.onward s with k := ks })) ∧
  (∀ (d : SReg) (k : BitVec 4) (b : PReg) (s : State) (n : Nat) (w : Wave), Issues s n w (.ballot d k b) →
    ∃ ss, exec (.ballot d k b) s = .next (s.issued n { w.onward s with s := ss }) ∧
      WritesOne 0 w.s ss d.toNat (wordOfBits (fun i => w.active.getLsbD (32 * k.toNat + i) && w.getP (32 * k.toNat + i) b.toNat)) ∧
      SameMemory s (s.issued n { w.onward s with s := ss }))

/-- R152 to R157: MOVL, MOVI, WIDF, AADD, ASET and ISET write their destination and nothing else; ISET of values outside
its limits raises ADDRERR instead. -/
def Obligations.MovesAndAddressRegisters : Prop :=
  (∀ (d : VReg) (b : BOp) (s : State) (n : Nat) (w : Wave), (Instr.movl d b).wf = true → Issues s n w (.movl d b) →
    ∃ vs, exec (.movl d b) s = .next (s.issued n { w.onward s with v := vs }) ∧
      WritesV64 w vs d.toNat (fun f => b.val64 s w f) ∧ SameMemory s (s.issued n { w.onward s with v := vs })) ∧
  (∀ (d : SReg) (b : UOp) (s : State) (n : Nat) (w : Wave), (Instr.movlUni d b).wf = true → Issues s n w (.movlUni d b) →
    ∃ ss, exec (.movlUni d b) s = .next (s.issued n { w.onward s with s := ss }) ∧
      (∀ r, NMap.get 0 ss r = if r = d.toNat then (b.val64 w).extractLsb' 0 32
        else if r = d.toNat + 1 then (b.val64 w).extractLsb' 32 32 else w.getS r) ∧
      SameMemory s (s.issued n { w.onward s with s := ss })) ∧
  (∀ (d : VReg) (i : BitVec 17) (s : State) (n : Nat) (w : Wave), Issues s n w (.movi d i) →
    ∃ vs, exec (.movi d i) s = .next (s.issued n { w.onward s with v := vs }) ∧
      WritesV w vs d.toNat (fun _ => BitVec.ofInt 32 (sv i)) ∧ SameMemory s (s.issued n { w.onward s with v := vs })) ∧
  (∀ (d : SReg) (i : BitVec 17) (s : State) (n : Nat) (w : Wave), Issues s n w (.moviUni d i) →
    ∃ ss, exec (.moviUni d i) s = .next (s.issued n { w.onward s with s := ss }) ∧
      WritesOne 0 w.s ss d.toNat (BitVec.ofInt 32 (sv i)) ∧ SameMemory s (s.issued n { w.onward s with s := ss })) ∧
  (∀ (d : VReg) (k : WidSel) (s : State) (n : Nat) (w : Wave), Issues s n w (.widf d k) →
    ∃ vs, exec (.widf d k) s = .next (s.issued n { w.onward s with v := vs }) ∧
      WritesV w vs d.toNat (fun f => widfVal (s.hdr w.kern) (w.idx * (s.hdr w.kern).cells + f) k) ∧
      SameMemory s (s.issued n { w.onward s with v := vs })) ∧
  (∀ (d : SReg) (k : WidSel) (s : State) (n : Nat) (w : Wave), Issues s n w (.widfUni d k) →
    ∃ ss, exec (.widfUni d k) s = .next (s.issued n { w.onward s with s := ss }) ∧
      WritesOne 0 w.s ss d.toNat (widfVal (s.hdr w.kern) (w.idx * (s.hdr w.kern).cells) k) ∧
      SameMemory s (s.issued n { w.onward s with s := ss })) ∧
  (∀ (d a : AReg) (b : UOp) (s : State) (n : Nat) (w : Wave), Issues s n w (.aadd d a b) →
    ∃ as, exec (.aadd d a b) s = .next (s.issued n { w.onward s with a := as }) ∧
      WritesOne 0 w.a as d.toNat (BitVec.ofNat 32 (uv (w.getA a.toNat) + uv (b.val w))) ∧
      SameMemory s (s.issued n { w.onward s with a := as })) ∧
  (∀ (d : AReg) (b : UOp) (s : State) (n : Nat) (w : Wave), Issues s n w (.aset d b) →
    ∃ as, exec (.aset d b) s = .next (s.issued n { w.onward s with a := as }) ∧
      WritesOne 0 w.a as d.toNat (b.val w) ∧ SameMemory s (s.issued n { w.onward s with a := as })) ∧
  (∀ (d : IReg) (r : SReg) (s : State) (n : Nat) (w : Wave), Issues s n w (.iset d r) →
    let st := w.getS r.toNat
    let bs := w.getS (r.toNat + 1)
    let ln := w.getS (r.toNat + 2)
    let inLimits := uv ln ≤ 1572864 ∧ uv bs + uv ln ≤ 1572864 ∧ (ln = 0 ∨ (sv st).natAbs < uv ln)
    (inLimits → ∃ is, exec (.iset d r) s = .next (s.issued n { w.onward s with i := is }) ∧
      WritesOne {} w.i is d.toNat ⟨ln, bs, st⟩ ∧ SameMemory s (s.issued n { w.onward s with i := is })) ∧
    (¬inLimits → exec (.iset d r) s = .next (turnAway n (.trap 5 (BitVec.ofNat 32 s.chain.slot)) s)))

end

namespace Sys2Proof
open Machine

/-! ## Floating-point words (spec/08_isa_float.md) -/

/-- The exact value of an FP32 word, and the FP32 word nearest to a value (ties to even; a NaN is the canonical one). -/
def fp32 (x : Word) : FVal := f32.decode (uv x)
def toFp32 (x : FVal) : Word := BitVec.ofNat 32 (f32.roundNE x)
def fp64 (x : BitVec 64) : FVal := f64.decode (uv x)
def toFp64 (x : FVal) : BitVec 64 := BitVec.ofNat 64 (f64.roundNE x)

/-- FMIN and FMAX (R165): the other operand where one is NaN, the canonical NaN where both are, −0 below +0. -/
def minNumber (mx : Bool) (a b : Word) : Word :=
  if (fp32 a).isNan && (fp32 b).isNan then 0x7FC00000
  else if (fp32 a).isNan then b
  else if (fp32 b).isNan then a
  else match (fp32 a).cmp (fp32 b) with
    | some .lt => if mx then b else a
    | some .gt => if mx then a else b
    | _ => if mx then a &&& b else a ||| b

/-- The relations of FCMP (R166): −0 equals +0, and a NaN is unordered with everything. -/
def condF (c : FCond) (a b : Word) : Prop :=
  match c with
  | .eq => (fp32 a).cmp (fp32 b) = some .eq
  | .ne => (fp32 a).cmp (fp32 b) ≠ some .eq
  | .lt => (fp32 a).cmp (fp32 b) = some .lt
  | .le => (fp32 a).cmp (fp32 b) = some .lt ∨ (fp32 a).cmp (fp32 b) = some .eq
  | .gt => (fp32 a).cmp (fp32 b) = some .gt
  | .ge => (fp32 a).cmp (fp32 b) = some .gt ∨ (fp32 a).cmp (fp32 b) = some .eq
  | .un => (fp32 a).isNan = true ∨ (fp32 b).isNan = true
  | .ord => (fp32 a).isNan = false ∧ (fp32 b).isNan = false

/-- The values of the FP32 words with two operands (R164, R165), from the old destination, A and B. -/
def valFadd (_ a b : Word) : Word := toFp32 ((fp32 a).add (fp32 b))
def valFsub (_ a b : Word) : Word := toFp32 ((fp32 a).add (fp32 b).neg)
def valFrsub (_ a b : Word) : Word := toFp32 ((fp32 b).add (fp32 a).neg)
def valFmul (_ a b : Word) : Word := toFp32 ((fp32 a).mul (fp32 b))
def valFfma (d a b : Word) : Word := toFp32 (((fp32 a).mul (fp32 b)).add (fp32 d))
def valFmin (_ a b : Word) : Word := minNumber false a b
def valFmax (_ a b : Word) : Word := minNumber true a b

/-- A value of each half of a word (R85, R170): the low element in bits 15:0, the high one in bits 31:16. -/
def halves (g : BitVec 16 → BitVec 16 → BitVec 16 → BitVec 16) (d a b : Word) : Word :=
  g (d.extractLsb' 16 16) (a.extractLsb' 16 16) (b.extractLsb' 16 16) ++
  g (d.extractLsb' 0 16) (a.extractLsb' 0 16) (b.extractLsb' 0 16)
def fp16 (m : HFmt) (x : BitVec 16) : FVal := (hfmt m).decode (uv x)
def toFp16 (m : HFmt) (x : FVal) : BitVec 16 := BitVec.ofNat 16 ((hfmt m).roundNE x)
def valHadd (m : HFmt) (d a b : Word) : Word := halves (fun _ x y => toFp16 m ((fp16 m x).add (fp16 m y))) d a b
def valHmul (m : HFmt) (d a b : Word) : Word := halves (fun _ x y => toFp16 m ((fp16 m x).mul (fp16 m y))) d a b
def valHfma (m : HFmt) (d a b : Word) : Word :=
  halves (fun z x y => toFp16 m (((fp16 m x).mul (fp16 m y)).add (fp16 m z))) d a b

/-- The per-cell FP32 words with two operands, and those with one. -/
def fltCellWords : List ((VReg → VReg → BOp → Instr) × (Word → Word → Word → Word)) :=
  [(.fadd, valFadd), (.fsub, valFsub), (.frsub, valFrsub), (.fmul, valFmul), (.ffma, valFfma), (.fmin, valFmin),
   (.fmax, valFmax)]
def fltCellWords1 : List ((VReg → BOp → Instr) × (Word → Word)) :=
  [(.fabs, fun b => b &&& 0x7FFFFFFF), (.fneg, fun b => b ^^^ 0x80000000), (.frcp, frcp), (.frsq, frsq), (.fsqrt, fsqrt),
   (.fexp2, fexp2), (.flog2, flog2), (.fsin, ftrig false), (.fcos, ftrig true)]
def halfCellWords : List ((HFmt → VReg → VReg → BOp → Instr) × (HFmt → Word → Word → Word → Word)) :=
  [(.hadd2, valHadd), (.hmul2, valHmul), (.hfma2, valHfma)]

/-- The uniform FP32 words. -/
def fltUniWords : List ((SReg → SReg → UOp → Instr) × (Word → Word → Word → Word)) :=
  [(.faddUni, valFadd), (.fsubUni, valFsub), (.frsubUni, valFrsub), (.fmulUni, valFmul), (.ffmaUni, valFfma),
   (.fminUni, valFmin), (.fmaxUni, valFmax)]
def fltUniWords1 : List ((SReg → UOp → Instr) × (Word → Word)) :=
  [(.fabsUni, fun b => b &&& 0x7FFFFFFF), (.fnegUni, fun b => b ^^^ 0x80000000), (.frcpUni, frcp), (.frsqUni, frsq),
   (.fsqrtUni, fsqrt), (.fexp2Uni, fexp2), (.flog2Uni, flog2), (.fsinUni, ftrig false), (.fcosUni, ftrig true)]
def halfUniWords : List ((HFmt → SReg → SReg → UOp → Instr) × (HFmt → Word → Word → Word → Word)) :=
  [(.hadd2Uni, valHadd), (.hmul2Uni, valHmul), (.hfma2Uni, valHfma)]

/-- The FP64 words (R169). -/
def dblWords : List ((VReg → VReg → BOp → Instr) × (BitVec 64 → BitVec 64 → BitVec 64 → BitVec 64)) :=
  [(.dadd, fun _ a b => toFp64 ((fp64 a).add (fp64 b))), (.dmul, fun _ a b => toFp64 ((fp64 a).mul (fp64 b))),
   (.dfma, fun d a b => toFp64 (((fp64 a).mul (fp64 b)).add (fp64 d)))]

/-- RNGWRAP (cause 49), when the counter of an active cell is about to wrap (R174, R176). -/
def wrapBit {k : Nat} (w : Wave) (m : NMap (BitVec k)) : BitVec 64 :=
  if (cellsOf w.active).any (fun f => NMap.get 0 m f == BitVec.allOnes k) then BitVec.ofNat 64 (2 ^ 49) else 0

end Sys2Proof

section
open Sys2Proof Machine

/-- R162, R164, R165, R167, R170: a per-cell FP32 or packed word that may issue answers a next state in which Vd of every
active cell has the value that the rule gives, rounded once; nothing else in the wave but its place in the program changes,
and no byte of memory. FSQRT and the six approximated functions are the model's fsqrt, frcp, frsq, fexp2, flog2 and ftrig, a free value
within the bound of R167 (notes/assumptions/6.md); Obligations.RoundingKeepsNumbersAndCanonicalNaN says what these answer. -/
def Obligations.PerCellFloatWordsGiveTheirValue : Prop :=
  (∀ e ∈ fltCellWords, ∀ (d a : VReg) (b : BOp) (s : State) (n : Nat) (w : Wave), Issues s n w (e.1 d a b) →
    ∃ vs, exec (e.1 d a b) s = .next (s.issued n { w.onward s with v := vs }) ∧
      WritesV w vs d.toNat (fun f => e.2 (w.getV f d.toNat) (w.getV f a.toNat) (b.fval s w f)) ∧
      SameMemory s (s.issued n { w.onward s with v := vs })) ∧
  (∀ e ∈ fltCellWords1, ∀ (d : VReg) (b : BOp) (s : State) (n : Nat) (w : Wave), Issues s n w (e.1 d b) →
    ∃ vs, exec (e.1 d b) s = .next (s.issued n { w.onward s with v := vs }) ∧
      WritesV w vs d.toNat (fun f => e.2 (b.fval s w f)) ∧ SameMemory s (s.issued n { w.onward s with v := vs })) ∧
  (∀ e ∈ halfCellWords, ∀ (m : HFmt) (d a : VReg) (b : BOp) (s : State) (n : Nat) (w : Wave), Issues s n w (e.1 m d a b) →
    ∃ vs, exec (e.1 m d a b) s = .next (s.issued n { w.onward s with v := vs }) ∧
      WritesV w vs d.toNat (fun f => e.2 m (w.getV f d.toNat) (w.getV f a.toNat) (b.hval s w m f)) ∧
      SameMemory s (s.issued n { w.onward s with v := vs }))

/-- R162, R164, R165, R167, R170, R171: the uniform floating-point words give the same values in Sd, FRCP, FRSQ, FEXP2, FLOG2, FSIN and
FCOS a free value within their bound (notes/assumptions/6.md). -/
def Obligations.UniformFloatWordsGiveTheirValue : Prop :=
  (∀ e ∈ fltUniWords, ∀ (d a : SReg) (b : UOp) (s : State) (n : Nat) (w : Wave), Issues s n w (e.1 d a b) →
    ∃ ss, exec (e.1 d a b) s = .next (s.issued n { w.onward s with s := ss }) ∧
      WritesOne 0 w.s ss d.toNat (e.2 (w.getS d.toNat) (w.getS a.toNat) (b.fval w)) ∧
      SameMemory s (s.issued n { w.onward s with s := ss })) ∧
  (∀ e ∈ fltUniWords1, ∀ (d : SReg) (b : UOp) (s : State) (n : Nat) (w : Wave), Issues s n w (e.1 d b) →
    ∃ ss, exec (e.1 d b) s = .next (s.issued n { w.onward s with s := ss }) ∧
      WritesOne 0 w.s ss d.toNat (e.2 (b.fval w)) ∧ SameMemory s (s.issued n { w.onward s with s := ss })) ∧
  (∀ e ∈ halfUniWords, ∀ (m : HFmt) (d a : SReg) (b : UOp) (s : State) (n : Nat) (w : Wave), Issues s n w (e.1 m d a b) →
    ∃ ss, exec (e.1 m d a b) s = .next (s.issued n { w.onward s with s := ss }) ∧
      WritesOne 0 w.s ss d.toNat (e.2 m (w.getS d.toNat) (w.getS a.toNat) (b.hval w m)) ∧
      SameMemory s (s.issued n { w.onward s with s := ss })) ∧
  (∀ (d : SReg) (b : UOp) (s : State) (n : Nat) (w : Wave), Issues s n w (.cvtUni .s32f32rz d b) →
    ∃ ss, exec (.cvtUni .s32f32rz d b) s = .next (s.issued n { w.onward s with s := ss }) ∧
      WritesOne 0 w.s ss d.toNat (BitVec.ofInt 32 (toIntSat .rz (-2 ^ 31) (2 ^ 31 - 1) (fp32 (b.fval w)))) ∧
      SameMemory s (s.issued n { w.onward s with s := ss })) ∧
  (∀ (d : SReg) (b : UOp) (s : State) (n : Nat) (w : Wave), Issues s n w (.cvtUni .f32s32 d b) →
    ∃ ss, exec (.cvtUni .f32s32 d b) s = .next (s.issued n { w.onward s with s := ss }) ∧
      WritesOne 0 w.s ss d.toNat (toFp32 (ofInt (sv (b.val w)))) ∧
      SameMemory s (s.issued n { w.onward s with s := ss }))

/-- R162, R166: FCMP sets Pd of the active cells, or Kd in the uniform form, exactly where its relation holds. -/
def Obligations.FloatComparesSetTheirPredicate : Prop :=
  (∀ (c : FCond) (d : PReg) (a : VReg) (b : BOp) (s : State) (n : Nat) (w : Wave), Issues s n w (.fcmp c d a b) →
    ∃ ps, exec (.fcmp c d a b) s = .next (s.issued n { w.onward s with p := ps }) ∧
      SetsP w ps d.toNat (fun f => condF c (w.getV f a.toNat) (b.fval s w f)) ∧
      SameMemory s (s.issued n { w.onward s with p := ps })) ∧
  (∀ (c : FCond) (d : KReg) (a : SReg) (b : UOp) (s : State) (n : Nat) (w : Wave), Issues s n w (.fcmpUni c d a b) →
    ∃ ks, exec (.fcmpUni c d a b) s = .next (s.issued n { w.onward s with k := ks }) ∧
      SetsK w ks d.toNat (condF c (w.getS a.toNat) (b.fval w)) ∧ SameMemory s (s.issued n { w.onward s with k := ks }))

/-- R169, R171, R172: the FP64 words and the conversions write their value, a 64-bit one to the pair Vd, Vd+1. The packed
sources of CVT read the low half of their operand. -/
def Obligations.DoublesAndConversions : Prop :=
  (∀ e ∈ dblWords, ∀ (d a : VReg) (b : BOp) (s : State) (n : Nat) (w : Wave), (e.1 d a b).wf = true → Issues s n w (e.1 d a b) →
    ∃ vs, exec (e.1 d a b) s = .next (s.issued n { w.onward s with v := vs }) ∧
      WritesV64 w vs d.toNat (fun f => e.2 (w.getV64 f d.toNat) (w.getV64 f a.toNat) (b.dval s w f)) ∧
      SameMemory s (s.issued n { w.onward s with v := vs })) ∧
  (∀ (c : CvtKind) (m : Rnd) (d : VReg) (b : BOp) (s : State) (n : Nat) (w : Wave), Issues s n w (.cvt c m d b) →
    ∃ vs, exec (.cvt c m d b) s = .next (s.issued n { w.onward s with v := vs }) ∧
      WritesV w vs d.toNat (fun f => match c with
        | .f16f32 => BitVec.ofNat 32 (f16.round m (fp32 (b.fval s w f)))
        | .bf16f32 => BitVec.ofNat 32 (bf16.round m (fp32 (b.fval s w f)))
        | .f32f64 => BitVec.ofNat 32 (f32.round m (fp64 (b.dval s w f)))
        | .s32f32 => BitVec.ofInt 32 (toIntSat m (-2 ^ 31) (2 ^ 31 - 1) (fp32 (b.fval s w f)))) ∧
      SameMemory s (s.issued n { w.onward s with v := vs })) ∧
  (∀ (c : CvtExt) (d : VReg) (b : BOp) (s : State) (n : Nat) (w : Wave), c.dst64 = false → Issues s n w (.cvtExt c d b) →
    ∃ vs, exec (.cvtExt c d b) s = .next (s.issued n { w.onward s with v := vs }) ∧
      WritesV w vs d.toNat (fun f => match c with
        | .u32f32rn => BitVec.ofInt 32 (toIntSat .rn 0 (2 ^ 32 - 1) (fp32 (b.fval s w f)))
        | .u32f32rz => BitVec.ofInt 32 (toIntSat .rz 0 (2 ^ 32 - 1) (fp32 (b.fval s w f)))
        | .u32f32rp => BitVec.ofInt 32 (toIntSat .rp 0 (2 ^ 32 - 1) (fp32 (b.fval s w f)))
        | .u32f32rm => BitVec.ofInt 32 (toIntSat .rm 0 (2 ^ 32 - 1) (fp32 (b.fval s w f)))
        | .s32f64rn => BitVec.ofInt 32 (toIntSat .rn (-2 ^ 31) (2 ^ 31 - 1) (fp64 (b.dval s w f)))
        | .s32f64rz => BitVec.ofInt 32 (toIntSat .rz (-2 ^ 31) (2 ^ 31 - 1) (fp64 (b.dval s w f)))
        | .f32f16 => toFp32 (fp16 .f16 ((b.hval s w .f16 f).extractLsb' 0 16))
        | .f32bf16 => toFp32 (fp16 .bf16 ((b.hval s w .bf16 f).extractLsb' 0 16))
        | .f32s32 => toFp32 (ofInt (sv (b.val s w f)))
        | .f32u32 => toFp32 (ofInt (uv (b.val s w f)))
        | .f64f32 => 0
        | .f64s32 => 0
        | .f64u32 => 0) ∧
      SameMemory s (s.issued n { w.onward s with v := vs })) ∧
  (∀ (c : CvtExt) (d : VReg) (b : BOp) (s : State) (n : Nat) (w : Wave), c.dst64 = true → (Instr.cvtExt c d b).wf = true →
    Issues s n w (.cvtExt c d b) →
    ∃ vs, exec (.cvtExt c d b) s = .next (s.issued n { w.onward s with v := vs }) ∧
      WritesV64 w vs d.toNat (fun f => match c with
        | .f64f32 => toFp64 (fp32 (b.fval s w f))
        | .f64s32 => toFp64 (ofInt (sv (b.val s w f)))
        | _ => toFp64 (ofInt (uv (b.val s w f)))) ∧
      SameMemory s (s.issued n { w.onward s with v := vs }))

/-- R173 to R176: RAND writes a draw of the cell's stream to Vd and advances its draw counter; NPACK writes the block of 32
registers and advances the conversion counter; a counter that wraps sets the sticky cause RNGWRAP. NUNPACK writes the 32
values of a block. Nothing else changes. -/
def Obligations.RandomDrawsAndNarrowBlocks : Prop :=
  (∀ (m : RandKind) (d : VReg) (s : State) (n : Nat) (w : Wave), Issues s n w (.rand m d) →
    ∃ vs ds, exec (.rand m d) s =
        .next (s.issued n { w.onward s with v := vs, draw := ds, wcause := w.wcause ||| wrapBit w w.draw }) ∧
      (let z := fun f => draw 0 (s.hdr w.kern).seed (BitVec.ofNat 64 (w.wid (s.hdr w.kern) f)) ((NMap.get 0 w.draw f).setWidth 64)
       WritesV w vs d.toNat (fun f => match m with
        | .u32 => (z f).extractLsb' 32 32
        | .f32 => toFp32 (.fin false (uv (z f) / 2 ^ 40) (-24)))) ∧
      (∀ f, NMap.get 0 ds f = if w.active.getLsbD f = true then NMap.get 0 w.draw f + 1 else NMap.get 0 w.draw f)) ∧
  (∀ (m : NFmt) (d a : VReg) (s : State) (n : Nat) (w : Wave), (Instr.npack m d a).wf = true → Issues s n w (.npack m d a) →
    ∃ vs cs, exec (.npack m d a) s =
        .next (s.issued n { w.onward s with v := vs, conv := cs, wcause := w.wcause ||| wrapBit w w.conv }) ∧
      (∀ f r, r < 64 → NMap.get 0 vs (64 * f + r) =
        if w.active.getLsbD f = true ∧ d.toNat ≤ r ∧ r < d.toNat + m.regs then
          BitVec.ofNat 32 (natAt (m.bytes (m.quant ((List.range 32).map (fun e => fp32 (w.getV f (a.toNat + e))))
            (fun e => draw domCell (s.hdr w.kern).seed (BitVec.ofNat 64 (w.wid (s.hdr w.kern) f))
              (BitVec.ofNat 64 (32 * (NMap.get 0 w.conv f).toNat + e))))) (4 * (r - d.toNat)) 4)
        else w.getV f r) ∧
      (∀ f, NMap.get 0 cs f = if w.active.getLsbD f = true then NMap.get 0 w.conv f + 1 else NMap.get 0 w.conv f)) ∧
  (∀ (m : NFmt) (d a : VReg) (s : State) (n : Nat) (w : Wave), (Instr.nunpack m d a).wf = true → Issues s n w (.nunpack m d a) →
    ∃ vs, exec (.nunpack m d a) s = .next (s.issued n { w.onward s with v := vs }) ∧
      ∀ f r, r < 64 → NMap.get 0 vs (64 * f + r) =
        if w.active.getLsbD f = true ∧ d.toNat ≤ r ∧ r < d.toNat + 32 then
          toFp32 (m.val ((List.range m.regs).flatMap (fun i => bytesOf 4 (uv (w.getV f (a.toNat + i))))) (r - d.toNat))
        else w.getV f r)

end

namespace Sys2Proof
open Machine

/-- A value is a number, and that number exactly. -/
def isNumber : FVal → Bool
  | .fin _ _ _ => true
  | _ => false
def exactly : FVal → Rat
  | .fin neg m e => (if neg then -1 else 1) * (m : Rat) * (2 : Rat) ^ e
  | _ => 0

/-- The special values of R167, by function: operand and result. -/
def specialValues : List ((Word → Word) × List (Word × Word)) :=
  [(frcp, [(0, 0x7F800000), (0x80000000, 0xFF800000), (0x7F800000, 0), (0xFF800000, 0x80000000)]),
   (frsq, [(0, 0x7F800000), (0x80000000, 0xFF800000), (0x7F800000, 0), (0xFF800000, 0x7FC00000)]),
   (fsqrt, [(0, 0), (0x80000000, 0x80000000), (0x7F800000, 0x7F800000), (0xFF800000, 0x7FC00000)]),
   (fexp2, [(0xFF800000, 0), (0x7F800000, 0x7F800000)]),
   (flog2, [(0, 0xFF800000), (0x80000000, 0xFF800000), (0x7F800000, 0x7F800000), (0xFF800000, 0x7FC00000), (0x3F800000, 0)]),
   (ftrig false, [(0, 0), (0x80000000, 0x80000000), (0x7F800000, 0x7FC00000), (0xFF800000, 0x7FC00000)]),
   (ftrig true, [(0, 0x3F800000), (0x80000000, 0x3F800000), (0x7F800000, 0x7FC00000), (0xFF800000, 0x7FC00000)])]

/-- One unit in the last place of FP32 at a magnitude is at most 2^k: the magnitude lies below 2^(k+24). -/
def ulpUpTo (k : Int) (y : Rat) : Prop := -149 ≤ k ∧ y.abs < (2 : Rat) ^ (k + 24)

end Sys2Proof

section
open Sys2Proof Machine

/-- R87, R88: rounding to nearest gives the canonical NaN of the format for a NaN and a pattern that is no NaN for every
other value, and it gives every number of the format back unchanged, in all four formats. R167, R168: the special values; a NaN gives
the canonical NaN, as a number below 0 does in FRSQ, FSQRT and FLOG2; no FP32 number lies nearer to the root than FSQRT's result; FRCP
lies within one ulp of the exact reciprocal, or is the infinity where that exceeds the range, and FRSQ within one ulp, widened by the
model's enclosure of the root (notes/assumptions/6.md), which for FEXP2, FLOG2, FSIN and FCOS the model alone gives; FEXP2 from 128 on and
below -150; and the results that are exact. -/
def Obligations.RoundingKeepsNumbersAndCanonicalNaN : Prop :=
  (∀ F ∈ [f64, f32, f16, bf16],
    (∀ x : FVal, (F.decode (F.roundNE x)).isNan = x.isNan) ∧ F.roundNE .nan = F.canon ∧
    (∀ b, b < 2 ^ (F.signPos + 1) → (F.decode b).isNan = false → F.roundNE (F.decode b) = b)) ∧
  (∀ e ∈ specialValues, (∀ x ∈ e.2, e.1 x.1 = x.2) ∧ ∀ b, (fp32 b).isNan = true → e.1 b = 0x7FC00000) ∧
  (∀ f ∈ [frsq, fsqrt, flog2], ∀ b, exactly (fp32 b) < 0 → f b = 0x7FC00000) ∧
  (∀ b, 0 < exactly (fp32 b) →
    let r := exactly (fp32 (fsqrt b))
    0 < r ∧ ∀ c, isNumber (fp32 c) = true → 0 ≤ exactly (fp32 c) →
      let q := exactly (fp32 c)
      (r < q → exactly (fp32 b) ≤ ((r + q) / 2) ^ 2) ∧ (q < r → ((r + q) / 2) ^ 2 ≤ exactly (fp32 b))) ∧
  (∀ b, exactly (fp32 b) ≠ 0 →
    let y := (exactly (fp32 b))⁻¹
    (isNumber (fp32 (frcp b)) = true ∧ ∀ k, ulpUpTo k y → (exactly (fp32 (frcp b)) - y).abs ≤ (2 : Rat) ^ k) ∨
    ((2 : Rat) ^ (128 : Int) - (2 : Rat) ^ (103 : Int) ≤ y.abs ∧ frcp b = if y < 0 then 0xFF800000 else 0x7F800000)) ∧
  (∀ (b : Word) (k : Int), 0 < exactly (fp32 b) → -149 ≤ k → 1 < exactly (fp32 b) * ((2 : Rat) ^ (k + 24)) ^ 2 →
    let r := exactly (fp32 (frsq b))
    let u := (2 : Rat) ^ k * (1 + (2 : Rat) ^ (-20 : Int))
    isNumber (fp32 (frsq b)) = true ∧ (u ≤ r → (r - u) ^ 2 * exactly (fp32 b) ≤ 1) ∧ 1 ≤ (r + u) ^ 2 * exactly (fp32 b)) ∧
  (∀ b, isNumber (fp32 b) = true → (128 ≤ exactly (fp32 b) → fexp2 b = 0x7F800000) ∧ (exactly (fp32 b) < -150 → fexp2 b = 0)) ∧
  (∀ (b : Word) (n : Int), isNumber (fp32 b) = true →
    ((exactly (fp32 b)).abs = (2 : Rat) ^ n → -127 ≤ n → n ≤ 149 →
      isNumber (fp32 (frcp b)) = true ∧ exactly (fp32 (frcp b)) = (exactly (fp32 b))⁻¹) ∧
    (exactly (fp32 b) = (4 : Rat) ^ n → exactly (fp32 (frsq b)) = (2 : Rat) ^ (-n)) ∧
    (exactly (fp32 b) = (n : Rat) → -149 ≤ n → n ≤ 127 → exactly (fp32 (fexp2 b)) = (2 : Rat) ^ n) ∧
    (exactly (fp32 b) = (2 : Rat) ^ n → isNumber (fp32 (flog2 b)) = true ∧ exactly (fp32 (flog2 b)) = (n : Rat)))

end

namespace Sys2Proof
open Machine

/-! ## Scratchpad words (spec/09_isa_memory.md) -/

/-- Handle h names a sequencer that has room for one more entry (R270, R272). -/
def Takes (w : Wave) (h : Nat) : Prop := (w.getH h).st ≠ .retired ∧ ((w.seqAt (w.getH h).seq).entries).length < 64

/-- In qs, sequencer q has one more entry at its tail, with the wave's next number; every other sequencer is as before. -/
def Appends (w : Wave) (qs : Tbl Seq) (q : Nat) (k : EntryKind) : Prop :=
  ∀ j, Tbl.find qs j =
    if j = q then some { w.seqAt q with entries := (w.seqAt q).entries ++ [⟨w.nextId, k, .queued⟩] } else Tbl.find w.seqs j

/-- The address register after a word (R182): with post-increment it advances through the I register, within its region. -/
def Advances (w : Wave) (as : NMap Word) (pi : Bool) (a : AReg) (i : IReg) : Prop :=
  let an := w.getA a.toNat
  let im := w.getI i.toNat
  WritesOne 0 w.a as a.toNat
    (if pi = false then an
     else if im.len = 0 then BitVec.ofInt 32 (uv an + sv im.stride)
     else BitVec.ofInt 32 (uv im.base + ((uv an : Int) - uv im.base + sv im.stride) % (uv im.len : Int)))

/-- The post-increment is allowed (R183): the address register lies in the region of its I register. -/
def InRegion (w : Wave) (pi : Bool) (a : AReg) (i : IReg) : Prop :=
  pi = true → (w.getI i.toNat).len ≠ 0 →
    uv (w.getI i.toNat).base ≤ uv (w.getA a.toNat) ∧
    uv (w.getA a.toNat) < uv (w.getI i.toNat).base + uv (w.getI i.toNat).len

/-- The addresses of a word in scope layout are legal (R183): aligned, and inside the window for every listed cell. -/
def Reaches (s : State) (w : Wave) (o : FmOp) (sz : Nat) (cells : List Nat) : Prop :=
  o.ea w % sz = 0 ∧ (∀ f ∈ cells, o.ea w + sz * f + sz ≤ (s.hdr w.kern).window) ∧ InRegion w o.pi o.a o.i

/-- One cell's part of an access at ea + sz × f (R181). -/
def touchAt (o : FmOp) (w : Wave) (sz f : Nat) (val : BitVec 64) (new : Word) : Touch := ⟨f, o.ea w + sz * f, val, new⟩

/-- The words in scope layout: for each its size, the cells it touches, the registers it will write when its access is
performed, and the access that it appends (R181, R185, R194). -/
inductive ScopeWord (o : FmOp) (w : Wave) : Instr → Nat → List Nat → List RegRef → Access → Prop
  | ld (m : LdSize) (d : VReg) :
    ScopeWord o w (.ld m d o) m.bytes (cellsOf w.active) (if m = .b64 then [.v d.toNat, .v (d.toNat + 1)] else [.v d.toNat])
      ⟨.load m, m.bytes, o.scope == .team, false, d.toNat, (cellsOf w.active).map (fun f => touchAt o w m.bytes f 0 0)⟩
  | st (m : StSize) (d : VReg) :
    ScopeWord o w (.st m d o) m.bytes (cellsOf w.active) []
      ⟨.store, m.bytes, o.scope == .team, false, d.toNat, (cellsOf w.active).map (fun f => touchAt o w m.bytes f
        (if m = .b64 then w.getV64 f d.toNat else (w.getV f d.toNat).setWidth 64) 0)⟩
  | ldUni (m : LdSize) (d : SReg) :
    ScopeWord o w (.ldUni m d o) m.bytes [0] [.s d.toNat]
      ⟨.load m, m.bytes, o.scope == .team, true, d.toNat, [⟨0, o.ea w, 0, 0⟩]⟩
  | stUni (d : SReg) :
    ScopeWord o w (.stUni d o) 4 [0] []
      ⟨.store, 4, o.scope == .team, true, d.toNat, [⟨0, o.ea w, (w.getS d.toNat).setWidth 64, 0⟩]⟩
  | atom (m : AtomArith) (d : VReg) :
    ScopeWord o w (.atom m d o) 4 (cellsOf w.active) [.v d.toNat]
      ⟨.atom m.op, 4, o.scope == .team, false, d.toNat, (cellsOf w.active).map (fun f => touchAt o w 4 f
        ((w.getV f d.toNat).setWidth 64) (w.getV f (d.toNat + 1)))⟩
  | atomBitwise (m : AtomBit) (d : VReg) :
    ScopeWord o w (.atomBitwise m d o) 4 (cellsOf w.active) [.v d.toNat]
      ⟨.atom m.op, 4, o.scope == .team, false, d.toNat, (cellsOf w.active).map (fun f => touchAt o w 4 f
        ((w.getV f d.toNat).setWidth 64) (w.getV f (d.toNat + 1)))⟩
  | atomFloat (m : AtomFloat) (d : VReg) :
    ScopeWord o w (.atomFloat m d o) 4 (cellsOf w.active) [.v d.toNat]
      ⟨.atom m.op, 4, o.scope == .team, false, d.toNat, (cellsOf w.active).map (fun f => touchAt o w 4 f
        ((w.getV f d.toNat).setWidth 64) (w.getV f (d.toNat + 1)))⟩
  | atomUni (m : AtomUni) (d : SReg) :
    ScopeWord o w (.atomUni m d o) 4 [0] [.s d.toNat]
      ⟨.atom m.op, 4, o.scope == .team, true, d.toNat,
        [⟨0, o.ea w, (w.getS d.toNat).setWidth 64, w.getS (d.toNat + 1)⟩]⟩

/-- The teams after a word that appends an access (R184): in deterministic mode the bytes of a `.wave` store are hidden from the
other waves of its team until a barrier that both pass; no other word changes a team. -/
def Veils (s : State) (n : Nat) (w : Wave) (acc : Access) (ts : Tbl Team) : Prop :=
  if (s.hdr w.kern).det = true ∧ acc.kind = .store ∧ acc.team = false ∧ (s.hdr w.kern).waves ≠ 1 then
    ts = Tbl.modify (fun t => t.veil { own := n, rs := acc.cells.map (fun c => (c.addr, acc.sz)), id := w.nextId }) s.teams w.team
  else ts = s.teams

/-- The tile word that cell f touches (R190). -/
def tileAt (s : State) (w : Wave) (o : TileOp) (f : Nat) : Nat × Nat :=
  let h := s.hdr w.kern
  let n := uv (w.getD o.d.toNat).pitch / 4
  let r := o.ea w / 4 / n
  let c := o.ea w / 4 % n
  if o.col then (r + f % h.lanes, c + f / h.lanes) else (r + f / h.lanes, c + f % h.lanes)

/-- TileAddr of a word of the tile (R189). -/
def tileAddr (w : Wave) (o : TileOp) (x : Nat × Nat) : Nat :=
  let d := w.getD o.d.toNat
  uv d.base + x.1 * uv d.pitch + 256 * (x.2 / 64) + 4 * ((x.2 % 64 + x.1) % 64)

/-- The addresses of a tile word are legal (R183, R187): a descriptor that was set, an aligned start, and every active
cell's word inside the tile and inside the window. -/
def TileReaches (s : State) (w : Wave) (o : TileOp) : Prop :=
  w.getD o.d.toNat ≠ {} ∧ o.ea w % 4 = 0 ∧ InRegion w o.pi o.a o.i ∧
  ∀ f, w.active.getLsbD f = true →
    (tileAt s w o f).1 < (w.getD o.d.toNat).rows.toNat ∧ (tileAt s w o f).2 < uv (w.getD o.d.toNat).pitch / 4 ∧
    tileAddr w o (tileAt s w o f) + 4 ≤ (s.hdr w.kern).window

end Sys2Proof

section
open Sys2Proof Machine

/-- R60, R181 to R186, R194, R195: LD, ST and ATOM, per cell or uniform, append one access at the tail of their handle's
sequencer, with the addresses and the values that the rules give; the registers that the access will write become pending,
and the address register advances. No byte of memory changes until the access is performed, and of the teams only what hides the
bytes of a `.wave` store in deterministic mode. Under a handle that is not open
the word raises HNDERR (cause 6) with the handle's number; under an open one with addresses that are not legal it raises
ADDRERR (cause 5) with its slot; it then has no other effect. -/
def Obligations.ScratchpadWordsAppendTheirAccess : Prop :=
  ∀ (o : FmOp) (i : Instr) (s : State) (n : Nat) (w : Wave) (sz : Nat) (cells : List Nat) (rs : List RegRef) (acc : Access),
    ScopeWord o w i sz cells rs acc → Issues s n w i →
    (Takes w o.h.toNat → Reaches s w o sz cells →
      ∃ qs as ts, exec i s = .next { s.issued n { w.onward s with
          seqs := qs, nextId := w.nextId + 1, pend := w.pend ++ rs.map (fun r => (r, w.nextId)), a := as } with teams := ts } ∧
        Appends w qs (w.getH o.h.toNat).seq (.access acc) ∧ Advances w as o.pi o.a o.i ∧ Veils s n w acc ts ∧
        SameMemory s { s.issued n { w.onward s with
          seqs := qs, nextId := w.nextId + 1, pend := w.pend ++ rs.map (fun r => (r, w.nextId)), a := as } with teams := ts }) ∧
    ((w.getH o.h.toNat).st = .retired → exec i s = .next (turnAway n (.trap 6 (BitVec.ofNat 32 o.h.toNat)) s)) ∧
    ((w.getH o.h.toNat).st ≠ .retired → ¬ Reaches s w o sz cells →
      exec i s = .next (turnAway n (.trap 5 (BitVec.ofNat 32 s.chain.slot)) s))

/-- R189, R190: LDT and STT append an access of team scope, in which every active cell touches one word of the tile, by row
or by column. -/
def Obligations.TileWordsAppendTheirAccess : Prop :=
  ∀ (o : TileOp) (d : VReg) (s : State) (n : Nat) (w : Wave), Takes w o.h.toNat → TileReaches s w o →
    (Issues s n w (.ldt d o) →
      ∃ qs as, exec (.ldt d o) s = .next (s.issued n { w.onward s with
          seqs := qs, nextId := w.nextId + 1, pend := w.pend ++ [(.v d.toNat, w.nextId)], a := as }) ∧
        Appends w qs (w.getH o.h.toNat).seq (.access ⟨.load .b32, 4, true, false, d.toNat,
          (cellsOf w.active).map (fun f => ⟨f, tileAddr w o (tileAt s w o f), 0, 0⟩)⟩) ∧ Advances w as o.pi o.a o.i) ∧
    (Issues s n w (.stt d o) →
      ∃ qs as, exec (.stt d o) s =
          .next (s.issued n { w.onward s with seqs := qs, nextId := w.nextId + 1, a := as }) ∧
        Appends w qs (w.getH o.h.toNat).seq (.access ⟨.store, 4, true, false, d.toNat,
          (cellsOf w.active).map (fun f => ⟨f, tileAddr w o (tileAt s w o f), (w.getV f d.toNat).setWidth 64, 0⟩)⟩) ∧
        Advances w as o.pi o.a o.i)

end

namespace Sys2Proof
open Machine

/-- Row and column of an accumulator selector on a core (R191, R192): a core with an odd number has rows 64 to 127. -/
def accAt (core : Nat) (sel : Word) : Nat × Nat := (uv sel % 64 + 64 * (core % 2), uv sel / 64 % 128)

/-- The tiles of a pair. -/
def tilesOf (s : State) (p : Nat) : NMap Word := ((Tbl.find s.pairs p).getD {}).tiles

/-- The source cell of LSHUF (R197). -/
def shuffled (m : ShufMode) (nn f n : Nat) : Option Nat :=
  match m with
  | .idx => some (n % nn)
  | .up => if n ≤ f then some (f - n) else none
  | .down => if f + n < nn then some (f + n) else none
  | .xor => some (f ^^^ (n % nn))

/-- Va of a cell that exists and is active, else of the asking cell (R197, R198). -/
def fromCell (w : Wave) (a : VReg) (own : Nat) (src : Option Nat) : Word :=
  match src with
  | some x => if w.active.getLsbD x then w.getV x a.toNat else w.getV own a.toNat
  | none => w.getV own a.toNat

end Sys2Proof

section
open Sys2Proof Machine

/-- R191 to R193: while no operation in use has their tile, ACCRD reads an element of it into Vd of each active cell, and
ACCWR writes Va to elements of it, the highest F0 value last; every other element, register and byte of memory keeps its
value. While one has, ACCRD leaves free values in Vd of the active cells, and nothing else changes in the wave. -/
def Obligations.AccumulatorWordsReadAndWriteElements : Prop :=
  (∀ (d : VReg) (t : TReg) (b : BOp) (s : State) (n : Nat) (w : Wave), Issues s n w (.accrd d t b) →
    (tileUsers s (s.pairOf w) t.toNat = [] →
      ∃ vs, exec (.accrd d t b) s = .next (s.issued n { w.onward s with v := vs }) ∧
        WritesV w vs d.toNat (fun f =>
          let e := accAt (s.coreOf w) (b.val s w f)
          NMap.get 0 (tilesOf s (s.pairOf w)) (tileKey t.toNat e.1 e.2))) ∧
    (tileUsers s (s.pairOf w) t.toNat ≠ [] →
      ∃ vs, exec (.accrd d t b) s =
          .next { s.issued n { w.onward s with v := vs } with tick := s.tick + (cellsOf w.active).length } ∧
        ∀ f r, r < 64 → ¬(w.active.getLsbD f = true ∧ r = d.toNat) → NMap.get 0 vs (64 * f + r) = w.getV f r)) ∧
  (∀ (t : TReg) (a : VReg) (b : BOp) (s : State) (n : Nat) (w : Wave), Issues s n w (.accwr t a b) →
    tileUsers s (s.pairOf w) t.toNat = [] →
    ∃ ps, exec (.accwr t a b) s = .next { s.issued n (w.onward s) with pairs := ps } ∧
      (∀ k, k ≠ s.pairOf w → Tbl.find ps k = Tbl.find s.pairs k) ∧
      (∀ t' r c, r < 128 → c < 128 → NMap.get 0 ((Tbl.find ps (s.pairOf w)).getD {}).tiles (tileKey t' r c) =
        match (cellsOf w.active).reverse.find? (fun f => t' == t.toNat && accAt (s.coreOf w) (b.val s w f) == (r, c)) with
        | some f => w.getV f a.toNat
        | none => NMap.get 0 (tilesOf s (s.pairOf w)) (tileKey t' r c)) ∧
      ((Tbl.find ps (s.pairOf w)).getD {}).queue = ((Tbl.find s.pairs (s.pairOf w)).getD {}).queue)

/-- R197, R198: LSHUF and BCAST write Va of the source cell to Vd of each active cell, or the cell's own Va where the source
does not exist or is not active; the uniform BCAST writes Sd. -/
def Obligations.ShuffleAndBroadcast : Prop :=
  (∀ (m : ShufMode) (d a : VReg) (b : BOp) (s : State) (n : Nat) (w : Wave), Issues s n w (.lshuf m d a b) →
    ∃ vs, exec (.lshuf m d a b) s = .next (s.issued n { w.onward s with v := vs }) ∧
      WritesV w vs d.toNat (fun f =>
        fromCell w a f (shuffled m ((s.hdr w.kern).lanes * (s.hdr w.kern).depth) f (uv (b.val s w f)))) ∧
      SameMemory s (s.issued n { w.onward s with v := vs })) ∧
  (∀ (d a : VReg) (b : UOp) (s : State) (n : Nat) (w : Wave), Issues s n w (.bcast d a b) →
    ∃ vs, exec (.bcast d a b) s = .next (s.issued n { w.onward s with v := vs }) ∧
      WritesV w vs d.toNat (fun f => fromCell w a f (some (uv (b.val w) % ((s.hdr w.kern).lanes * (s.hdr w.kern).depth)))) ∧
      SameMemory s (s.issued n { w.onward s with v := vs })) ∧
  (∀ (d : SReg) (a : VReg) (b : UOp) (s : State) (n : Nat) (w : Wave), Issues s n w (.bcastUni d a b) →
    ∃ ss x, exec (.bcastUni d a b) s = .next (s.issued n { w.onward s with s := ss }) ∧ WritesOne 0 w.s ss d.toNat x ∧
      SameMemory s (s.issued n { w.onward s with s := ss }) ∧
      (let c := uv (b.val w) % ((s.hdr w.kern).lanes * (s.hdr w.kern).depth)
       (w.active.getLsbD c = true → x = w.getV c a.toNat) ∧
       (w.active.getLsbD c = false → ∀ f, w.active.getLsbD f = true → (∀ g, w.active.getLsbD g = true → f ≤ g) →
        x = w.getV f a.toNat) ∧
       (w.active = 0 → x = 0)))

/-- R199, R200: XCHG waits with an open offer until its partner q has issued the XCHG that names it; then each side has in
Vd, for the cells active in both, what the other had in Va. The partner must be another wave of the run on this device, of
another band and on another cluster, that has not exited; one of the own band, or a partner that names another wave, is
XCHGERR (cause 12) with the partner's index. In deterministic mode the offer of a partner counts when it stood as the wave's
quantum began (R231, notes/assumptions/100.md). -/
def Obligations.ExchangeMeetsItsPartner : Prop :=
  ∀ (d a : VReg) (b : UOp) (s : State) (n m : Nat) (w p : Wave), Issues s n w (.xchg d a b) →
    let h := s.hdr w.kern
    let q := uv (b.val w)
    w.offer = none → h.onDev s.dev (q * h.cells) = true →
    q < 2 ^ (h.widths.drop 1).sum → q ≠ w.idx → s.waveAt w.kern q = some (m, p) → m ≠ n →
    (∀ c e, s.placedCore w.team = some c → s.placedCore p.team = some e → c / 4 ≠ e / 4) →
    s.runOversubscribed w.kern = false → p.past = false →
    (h.band (q / h.waves) = h.band (w.idx / h.waves) → exec (.xchg d a b) s = .next (turnAway n (.trap 12 (b.val w)) s)) ∧
    (h.band (q / h.waves) ≠ h.band (w.idx / h.waves) →
      (s.offers p = none → exec (.xchg d a b) s = .next (turnAway n (.offer q a.toNat) s)) ∧
      (w.sawOffer q = false → exec (.xchg d a b) s = .next (turnAway n (.offer q a.toNat) s)) ∧
      (w.sawOffer q = true → ∀ o, s.offers p = some o → o.partner ≠ w.idx →
        exec (.xchg d a b) s = .next (turnAway n (.trap 12 (b.val w)) s)) ∧
      (w.sawOffer q = true → ∀ o, s.offers p = some o → o.partner = w.idx → s.wave m = some p →
        (∀ y ∈ s.waves, y.2.kern = w.kern → y.1 ≠ m → ∀ o', s.offers y.2 = some o' → o'.partner ≠ w.idx) →
        ∃ vs xs, exec (.xchg d a b) s = .next ((s.issued n { w.onward s with v := vs, offer := none }).modWave m
            (fun x => { x with offer := some { o with got := some xs } })) ∧
          (∀ f r, r < 64 → NMap.get 0 vs (64 * f + r) =
            if w.active.getLsbD f = true ∧ p.active.getLsbD f = true ∧ r = d.toNat then p.getV f o.a else w.getV f r) ∧
          (∀ f, w.active.getLsbD f = true → p.active.getLsbD f = true → NMap.get 0 xs f = w.getV f a.toNat)))

end

namespace Sys2Proof
open Machine

/-! ## Control, system registers and traps (spec/10_isa_control.md, spec/24_traps.md) -/

/-- The target of a branch word: its own PC plus 4 × OFF (R64). -/
def targetOf (s : State) (o : BitVec 21) : Word := BitVec.ofInt 32 (uv s.chain.wordPc + 4 * sv o)

/-- The wave goes on at a target, if that is a legal one; otherwise BADTGT (cause 1) is delivered, with the branch's own
PC, after the chain has completed (R57). `x` is the wave past the chain. -/
def GoesTo (i : Instr) (s : State) (n : Nat) (w x : Wave) (target : Word) : Prop :=
  (legalTarget s w target = true → exec i s = .next (s.issued n { x with pc := target })) ∧
  (legalTarget s w target = false → exec i s = .next (deliver n 1 target s.chain.wordPc 0 (s.issued n x)))

/-- The active cells in which Pp is true. -/
def takes (w : Wave) (p : Nat) (m : Mask) : Prop := ∀ f, m.getLsbD f = (w.active.getLsbD f && w.getP f p)

end Sys2Proof

section
open Sys2Proof Machine

/-- R57, R64, R205, R207: what a branch does. On a K register it is taken whole or falls through. On a predicate it is taken
whole when every active cell takes it and falls through when none does; when they differ it pushes a path entry for the
cells that take it and goes on with the others, and raises DIVERR (cause 8) without a split entry or with a full mask
stack. The target of a path entry is checked at the MERGE that goes there (notes/assumptions/22.md). -/
def Obligations.BranchesTakeFallThroughOrDiverge : Prop :=
  ∀ (o : BitVec 21) (s : State) (n : Nat) (w : Wave),
    (∀ k : BitVec 3, Issues s n w (.bra (1#1 ++ k) o) →
      (w.getK k.toNat = true → GoesTo (.bra (1#1 ++ k) o) s n w (w.onward s) (targetOf s o)) ∧
      (w.getK k.toNat = false → exec (.bra (1#1 ++ k) o) s = .next (s.issued n (w.onward s)))) ∧
    (∀ (p : BitVec 3) (t : Mask), Issues s n w (.bra (0#1 ++ p) o) → takes w p.toNat t →
      (t = w.active → GoesTo (.bra (0#1 ++ p) o) s n w (w.onward s) (targetOf s o)) ∧
      (t = 0 → t ≠ w.active → exec (.bra (0#1 ++ p) o) s = .next (s.issued n (w.onward s))) ∧
      (t ≠ w.active → t ≠ 0 → (∃ r sv, MaskEntry.split r sv ∈ w.ms) → w.ms.length < 32 →
        exec (.bra (0#1 ++ p) o) s = .next (s.issued n
          { w.onward s with ms := .path (targetOf s o) t :: w.ms, active := w.active &&& ~~~t })) ∧
      (t ≠ w.active → t ≠ 0 → ((∀ r sv, MaskEntry.split r sv ∉ w.ms) ∨ 32 ≤ w.ms.length) →
        exec (.bra (0#1 ++ p) o) s = .next (turnAway n (.trap 8 0) s)))

/-- R205: CALL pushes the PC after it and the mask depth when its K register is true, and RET goes back there; CALL with 16
entries and RET with none raise CALLERR (cause 9), and RET at another mask depth raises DIVERR. JMP goes to its operand.
R207, R208: SPLIT pushes the reconvergence point with the active mask. MERGE, after popping the paths whose mask has
become empty, switches to the path on top of the stack, or closes the split whose rpc is its own PC; a wave that is left
with no active cell goes to the rpc of the innermost split that is still open. An empty stack or another rpc is DIVERR. A path's target
that is not legal is BADTGT with the MERGE's own PC (notes/assumptions/22.md). -/
def Obligations.CallsJumpsSplitAndMerge : Prop :=
  ∀ (s : State) (n : Nat) (w : Wave),
    (∀ (k : KReg) (o : BitVec 21), Issues s n w (.call k o) →
      (w.getK k.toNat = false → exec (.call k o) s = .next (s.issued n (w.onward s))) ∧
      (w.getK k.toNat = true → w.cs.length < 16 → GoesTo (.call k o) s n w
        { w.onward s with cs := ⟨s.chain.wordPc + 4, w.ms.length⟩ :: w.cs } (targetOf s o)) ∧
      (w.getK k.toNat = true → 16 ≤ w.cs.length → exec (.call k o) s = .next (turnAway n (.trap 9 0) s))) ∧
    (∀ b : UOp, Issues s n w (.jmp b) → GoesTo (.jmp b) s n w (w.onward s) (b.val w)) ∧
    (Issues s n w .ret →
      (w.cs = [] → exec .ret s = .next (turnAway n (.trap 9 0) s)) ∧
      (∀ e rest, w.cs = e :: rest → w.ms.length ≠ e.ms → exec .ret s = .next (turnAway n (.trap 8 0) s)) ∧
      (∀ e rest, w.cs = e :: rest → w.ms.length = e.ms → GoesTo .ret s n w { w.onward s with cs := rest } e.ret)) ∧
    (∀ o : BitVec 21, Issues s n w (.split o) →
      (w.ms.length < 32 → exec (.split o) s =
        .next (s.issued n { w.onward s with ms := .split (targetOf s o) w.active :: w.ms })) ∧
      (32 ≤ w.ms.length → exec (.split o) s = .next (turnAway n (.trap 8 0) s))) ∧
    (Issues s n w .merge → ∀ es : List MaskEntry, (∀ e ∈ es, ∃ q, e = .path q 0) →
      (w.ms = es → exec .merge s = .next (turnAway n (.trap 8 0) s)) ∧
      (∀ q m rest, m ≠ 0 → w.ms = es ++ .path q m :: rest →
        GoesTo .merge s n w { w.onward s with ms := rest, active := m } q) ∧
      (∀ r sv rest, w.ms = es ++ .split r sv :: rest → r ≠ s.chain.wordPc →
        exec .merge s = .next (turnAway n (.trap 8 0) s)) ∧
      (∀ sv rest, w.ms = es ++ .split s.chain.wordPc sv :: rest → sv &&& w.live ≠ 0 →
        exec .merge s = .next (s.issued n { w.onward s with ms := rest, active := sv &&& w.live })) ∧
      (∀ sv rest, w.ms = es ++ .split s.chain.wordPc sv :: rest → (∀ e ∈ rest, ∃ q m, e = MaskEntry.path q m) →
        sv &&& w.live = 0 → exec .merge s = .next (s.issued n { w.onward s with ms := rest, active := 0 })) ∧
      (∀ sv r sv' ps rest, w.ms = es ++ .split s.chain.wordPc sv :: (ps ++ .split r sv' :: rest) →
        (∀ e ∈ ps, ∃ q m, e = MaskEntry.path q m) → sv &&& w.live = 0 →
        exec .merge s = .next (s.issued n { w.onward s with ms := ps ++ .split r sv' :: rest, active := 0, pc := r })))

end

namespace Sys2Proof
open Machine

/-- SysReg(r, k) in the table of R212, for a register that is not TIME. -/
def sysRegister (s : State) (w : Wave) (r k : Nat) : Word :=
  let h := s.hdr w.kern
  let maskAt (m : Mask) : Word := if h.lanes * h.depth ≤ 32 * k then 0 else wordOfBits (fun i => m.getLsbD (32 * k + i))
  match r with
  | 0 => w.step
  | 1 => maskAt w.live
  | 2 => maskAt w.active
  | 3 => BitVec.ofNat 32 w.ms.length
  | 4 => BitVec.ofNat 32 w.cs.length
  | 5 => BitVec.ofNat 32 (uv w.wcause)
  | 6 => BitVec.ofNat 32 (uv w.wcause / 2 ^ 32)
  | 7 => w.trappc
  | 8 => BitVec.ofNat 32 (8 * uv w.skid + uv w.resume)
  | 9 => w.traparg
  | 10 => s.handler w
  | 11 => BitVec.ofNat 32 (h.det.toNat + 2 * w.hmode.toNat + 4 * s.dbgatt.toNat)
  | 12 => if h.det then BitVec.ofNat 32 w.qcount else 0
  | 13 => BitVec.ofNat 32 (uv w.time)
  | 14 => BitVec.ofNat 32 (uv w.time / 2 ^ 32)
  | 15 => if h.det then 0xFFFFFFFF
    else BitVec.ofNat 32 (s.relCore (s.kernVf w.kern) (((s.team w.team).map (·.core)).getD 0))
  | _ => BitVec.ofNat 32 s.dev

end Sys2Proof

section
open Sys2Proof Machine

/-- R210, R212 to R214, and NOP and YIELD (R80, R210): NOP and YIELD move the PC alone. SYSR reads the register of the table
of R212 into Sd. TIME is in deterministic mode the wave's retired words, and in throughput mode one count of the context's clock,
which never goes back: the reading moves the clock on by a free number of cycles (notes/assumptions/7.md). SYSW writes TRAPPC or the resume mask in handler mode and raises PRIVOP (cause 11) outside it. -/
def Obligations.SystemRegistersReadAndWrite : Prop :=
  ∀ (s : State) (n : Nat) (w : Wave),
    (Issues s n w .nop → exec .nop s = .next (s.issued n (w.onward s))) ∧
    (Issues s n w .yield → exec .yield s = .next (s.issued n (w.onward s))) ∧
    (∀ (d : SReg) (r : BitVec 6) (b : Option UOp), Issues s n w (.sysr d r b) →
      (((s.hdr w.kern).det = true ∨ (r ≠ 13 ∧ r ≠ 14)) →
        ∃ ss, exec (.sysr d r b) s = .next (s.issued n { w.onward s with s := ss }) ∧
          WritesOne 0 w.s ss d.toNat (sysRegister s w r.toNat (b.elim 0 (fun u => uv (u.val w))))) ∧
      ((s.hdr w.kern).det = false → (r = 13 ∨ r = 14) →
        ∃ ss c, exec (.sysr d r b) s = .next { (s.issued n { w.onward s with s := ss }).modCtx (s.kernVf w.kern)
            (fun x => { x with clock := c }) with tick := s.tick + 1 } ∧
          (∀ x, s.ctx (s.kernVf w.kern) = some x → x.clock ≤ c) ∧
          WritesOne 0 w.s ss d.toNat (if r = 13 then BitVec.ofNat 32 c else BitVec.ofNat 32 (c / 2 ^ 32)))) ∧
    (∀ b : UOp, Issues s n w (.syswTrappc b) →
      (w.hmode = true → exec (.syswTrappc b) s = .next (s.issued n { w.onward s with trappc := b.val w })) ∧
      (w.hmode = false → exec (.syswTrappc b) s = .next (turnAway n (.trap 11 0) s))) ∧
    (∀ b : UOp, Issues s n w (.syswTrapres b) →
      (w.hmode = true →
        exec (.syswTrapres b) s = .next (s.issued n { w.onward s with resume := BitVec.ofNat 3 (uv (b.val w)) })) ∧
      (w.hmode = false → exec (.syswTrapres b) s = .next (turnAway n (.trap 11 0) s)))

end

namespace Sys2Proof
open Machine

/-- The shadow set has changed places with S28 to S31 and K5 (R411). -/
def Swapped (w : Wave) (ss sh : NMap Word) (ks : NMap Bool) (shK : Bool) : Prop :=
  (∀ r, NMap.get 0 ss r = if 28 ≤ r ∧ r ≤ 31 then NMap.get 0 w.shadow r else NMap.get 0 w.s r) ∧
  (∀ r, NMap.get 0 sh r = if 28 ≤ r ∧ r ≤ 31 then NMap.get 0 w.s r else NMap.get 0 w.shadow r) ∧
  (∀ r, NMap.get false ks r = if r = 5 then w.shadowK else NMap.get false w.k r) ∧ shK = NMap.get false w.k 5

/-- No wave is generating a Swage plan. -/
def NoPlanGenerating (s : State) : Prop := ∀ p ∈ s.plans, p.2.st ≠ 6

end Sys2Proof

section
open Sys2Proof Machine

/-- R407 to R411: how a fault reaches a wave. A sticky cause (48 and above) only sets its bit. A fault of a wave outside the
handler, in a context that has a handler, sets its bit, saves the chain's PC, the resume mask and the argument, saves the
active mask and the depths of both stacks, makes every live cell active, exchanges the shadow set, and goes on at HANDLER in
handler mode, in a halted team (a wave of an evicted team once the team is back); an exchange that the partner has completed is
kept aside; no byte of memory changes. R413: a fault of a wave in the handler, or in a context without a
handler, escalates: the context's escalation record holds the kernel, the PC, the wave, WCAUSE with the new cause, the argument
and the mode, and the kernel ends FAILED with reason FAULTED (6). The wave that faults reads SKID 0 in the handler, whatever it had
counted (notes/assumptions/21.md). Its siblings count from 0: one that is READY in throughput mode, in a team that runs, may issue four
further chains, and no other may issue; each chain adds 1 to SKID and takes one of the four, and a wave with none left stops. -/
def Obligations.FaultsEnterTheHandler : Prop :=
  ∀ (s : State) (n i : Nat) (w : Wave) (a p : Word) (m : BitVec 3), s.wave n = some w →
    (48 ≤ i → deliver n i a p m s = s.modWave n (fun x => { x with wcause := x.wcause ||| BitVec.ofNat 64 (2 ^ i) })) ∧
    (i < 48 → w.hmode = false → s.handler w ≠ 0xFFFFFFFF → NoPlanGenerating s → ∀ tm, s.team w.team = some tm →
      ∃ ss sh ks shK, Swapped w ss sh ks shK ∧
        (deliver n i a p m s).wave n = some { w with
          wcause := w.wcause ||| BitVec.ofNat 64 (2 ^ i), trappc := p, resume := m, skid := 0, traparg := a
          savedActive := w.active, active := w.live, entryMS := w.ms.length, entryCS := w.cs.length, hmode := true
          pc := s.handler w, st := if w.st = .evicted then .evicted else .ready, heldBack := w.st == .held, hold := none, redo := 0, skidLeft := 0
          qended := true, view := none, savedOffer := w.offer.filter (fun o => o.got.isSome), offer := none, s := ss, shadow := sh, k := ks, shadowK := shK } ∧
        ((deliver n i a p m s).team w.team).map (·.haltF) = some true ∧
        (∀ j, j ≠ n → ∀ x, s.wave j = some x → (x.team ≠ w.team ∨ x.hmode = true ∨ tm.haltF = true) →
          (deliver n i a p m s).wave j = some x) ∧
        (∀ j, j ≠ n → ∀ x, s.wave j = some x → x.team = w.team → x.hmode = false → tm.haltF = false →
          let runs := tm.st = .resident ∧ tm.haltD = false ∧ tm.haltP = false
          (deliver n i a p m s).wave j = some { x with
            skid := 0, skidLeft := if (s.hdr w.kern).det = false ∧ runs ∧ x.st = .ready then 4 else 0
            qended := (s.hdr w.kern).det || x.qended, view := none, hold := x.hold.map (fun h => { h with pkt := [] }) }) ∧
        SameMemory s (deliver n i a p m s)) ∧
    (∀ k c, i < 48 → s.kern w.kern = some k → s.ctx k.vf = some c → (w.hmode = true ∨ c.handler = 0xFFFFFFFF) →
      ((deliver n i a p m s).ctx k.vf).map (·.esc) = some
        ⟨k.kid, p, BitVec.ofNat 64 (w.wid k.hdr 0), w.wcause ||| BitVec.ofNat 64 (2 ^ i), a, w.hmode⟩ ∧
      ((deliver n i a p m s).kern w.kern).map (fun x => (x.st, x.reason)) = some (.failed, 6)) ∧
    (∀ tm, s.team w.team = some tm → tm.haltF = true → w.hmode = false → w.skidLeft = 0 → mayTry s w = false) ∧
    (∀ words b, b.hmode = false → w.hmode = false → b.hold.bind (·.src) = none →
      ((account n words b s).wave n).map (fun x => (x.skid, x.skidLeft)) =
        some (if b.skidLeft = 0 then (w.skid, 0) else (w.skid + 1, b.skidLeft - 1)))

/-- R212, R215: TRAP raises SWTRAP (cause 21) with its code. BKPT halts the team for an attached debugger, with its code in
TRAPARG and no cause, and raises BRKPT (cause 22) without one and in the handler (R412, where it escalates); a LAUNCH of the team
that waits reads its packet again (R310). CAUSEC reads one bit of WCAUSE and clears it. A fault is
delivered at the chain's PC with resume mask 0, as FaultsEnterTheHandler says. -/
def Obligations.TrapWords : Prop :=
  ∀ (s : State) (n : Nat) (w : Wave),
    (∀ b : UOp, Issues s n w (.trap b) →
      exec (.trap b) s = .next (deliver n 21 (b.val w) s.chain.pc 0 (s.issued n (w.onward s)))) ∧
    (∀ i : BitVec 6, Issues s n w (.bkpt i) →
      (s.dbgatt = false ∨ w.hmode = true →
        exec (.bkpt i) s = .next (deliver n 22 (BitVec.ofInt 32 (sv i)) s.chain.pc 0 (s.issued n (w.onward s)))) ∧
      (s.dbgatt = true → w.hmode = false → ∀ tm, s.team w.team = some tm → ∃ t, exec (.bkpt i) s = .next t ∧
        t.wave n = some { w.onward s with traparg := BitVec.ofInt 32 (sv i) } ∧
        (t.team w.team).map (·.haltD) = some true ∧ SameMemory s t ∧
        ∀ j, j ≠ n → ∀ x, s.wave j = some x →
          t.wave j = some (if x.team = w.team then { x with hold := x.hold.map (fun h => { h with pkt := [] }) } else x))) ∧
    (∀ (d : SReg) (b : UOp), Issues s n w (.causec d b) →
      ∃ ss, exec (.causec d b) s = .next (s.issued n { w.onward s with
          s := ss, wcause := w.wcause &&& ~~~(BitVec.ofNat 64 (2 ^ (uv (b.val w) % 64))) }) ∧
        WritesOne 0 w.s ss d.toNat (if w.wcause.getLsbD (uv (b.val w) % 64) then 1 else 0))

/-- R215, R412: TRET outside the handler raises PRIVOP; with other depths than those at entry, DIVERR; with a fault bit still
set it enters the handler again; with an illegal TRAPPC it raises BADTGT. Otherwise it leaves handler mode, HELD again where it was HELD
as the fault came and has not been released since (R117): the saved active
mask with the live cells, the shadow set and an exchange kept aside back in their place, and the PC of the recorded chain with the words that RESUME
marks, or of the chain after it; when no other wave of the team is in the handler the team resumes. -/
def Obligations.TrapReturnRestoresTheWave : Prop :=
  ∀ (s : State) (n : Nat) (w : Wave), Issues s n w .tret →
    (w.hmode = false → exec .tret s = .next (turnAway n (.trap 11 0) s)) ∧
    (w.hmode = true → (w.ms.length ≠ w.entryMS ∨ w.cs.length ≠ w.entryCS) →
      exec .tret s = .next (turnAway n (.trap 8 0) s)) ∧
    (w.hmode = true → w.ms.length = w.entryMS → w.cs.length = w.entryCS →
      (w.wcause.extractLsb' 0 48 ≠ 0 → exec .tret s = .next (s.issued n { w.onward s with pc := s.handler w })) ∧
      (w.wcause.extractLsb' 0 48 = 0 → legalTarget s w w.trappc = false →
        exec .tret s = .next (turnAway n (.trap 1 w.trappc) s)) ∧
      (w.wcause.extractLsb' 0 48 = 0 → legalTarget s w w.trappc = true → ∀ tm, s.team w.team = some tm →
        ∃ t ss sh ks shK, exec .tret s = .next t ∧ Swapped w ss sh ks shK ∧ SameMemory s t ∧
          (let back : Wave := { w.onward s with
            active := w.savedActive &&& w.live, hmode := false, redo := w.resume
            st := if w.heldBack = true then .held else .ready, heldBack := false
            pc := if w.resume = 0 then afterChain s w w.trappc else w.trappc
            offer := w.savedOffer, savedOffer := none, s := ss, shadow := sh, k := ks, shadowK := shK }
          ((∃ x ∈ s.waves, x.1 ≠ n ∧ x.2.team = w.team ∧ x.2.hmode = true) → t.wave n = some back ∧ t.team w.team = some tm) ∧
          ((∀ x ∈ s.waves, x.1 ≠ n → x.2.team = w.team → x.2.hmode = false) →
            (s.waves.map (·.1)).Nodup →
            t.wave n = some { back with skidLeft := 0, age := 0 } ∧ (t.team w.team).map (·.haltF) = some false))))

end

namespace Sys2Proof
open Machine

/-! ## The lattice, the register pool and placement (spec/06_cell.md, spec/11_group.md) -/

/-- In bs, bank b of every published register of the listed cells holds the cell's working value, and every other bank entry
is as before (R120, R137). -/
def Publishes (s : State) (w : Wave) (bs : NMap Word) (b : Nat) (cells : Mask) : Prop :=
  ∀ f r c, f < 512 → r < 32 → c < 2 → NMap.get 0 bs (64 * f + 2 * r + c) =
    if cells.getLsbD f = true ∧ (s.hdr w.kern).isPub r = true ∧ c = b then w.getV f r else w.getBank f r c

/-- Every wave of the neighbour set has reached the step of the wave, or has exited (R121, R123). -/
def SetReached (s : State) (w : Wave) : Prop :=
  ∀ i ∈ nbrSet (s.hdr w.kern) w, s.stand w i = .reached

/-- The wave still waits for a write of a published register (R14). -/
def PubPending (s : State) (w : Wave) : Prop := ∃ p ∈ w.pend, ∃ v, p.1 = .v v ∧ (s.hdr w.kern).isPub v = true

/-- No matrix operation, of a queue or FROZEN, takes its A from the registers of wave n (R366). -/
def NoRegsRead (s : State) (n : Nat) : Prop :=
  (∀ p ∈ s.pairs, ∀ o ∈ p.2.queue ++ p.2.settled, o.readsRegs n = false) ∧
  ∀ x ∈ s.teams, ∀ o ∈ x.2.frozen, o.readsRegs n = false

/-- No other wave changes, but that a HELD one may be READY again, and one in its handler may be so when it returns (R117, R133). -/
def OthersStay (s t : State) (n : Nat) : Prop :=
  ∀ j, j ≠ n → ∀ x, s.wave j = some x → t.wave j = some x ∨ ((x.st = .held ∨ x.heldBack = true) ∧
    t.wave j = some { x with st := if x.st = .held then .ready else x.st, heldBack := false })

/-- Cell f of wave w has a neighbour on device d, another device of its run (R127, R493). -/
def ReadOn (s : State) (w : Wave) (d f : Nat) : Prop :=
  let h := s.hdr w.kern
  h.width 5 ≠ 0 ∧ d < 2 ^ h.width 5 ∧ d ≠ s.dev ∧ f < h.cells ∧
    ∃ ax, ax < 3 ∧ h.axisFields ax ≠ [] ∧ ∃ plus n, h.neighbour (w.wid h f) ax plus = .cell n ∧ h.field n 5 = d

/-- The two kinds of packet of the halo class, to device d, for the virtual function of a kernel. -/
def haloFlit (s : State) (k d kind : Nat) (payload : List Byte) : Flit :=
  { bareFlit kind with
    src := BitVec.ofNat 4 s.dev, dst := BitVec.ofNat 4 d, vf := BitVec.ofNat 4 (s.kernVf k), gen := s.genOf (s.kernVf k), payload := payload }

/-- To every device that reads a cell of wave w go, in this order and behind whatever waits for it, the values that the listed cells
have published, in packets of at most 4096 bytes (notes/assumptions/15.md), and a step notice with a count, flags and a mask; to no other
device goes anything (R127, R418). -/
def TellsPeers (s t : State) (w : Wave) (step count flags : Nat) (m cells : Mask) : Prop :=
  ∀ d p, s.peer d = some p →
    ((∀ f, ¬ ReadOn s w d f) → (t.peer d).map (·.out) = some p.out) ∧
    ((∃ f, ReadOn s w d f) → ∃ (p' : Peer) (fs : List Nat) (hs : List Packet), t.peer d = some p' ∧ fs.Pairwise (· < ·) ∧
      (∀ f, f ∈ fs ↔ ReadOn s w d f ∧ cells.getLsbD f = true) ∧
      (∀ x ∈ hs, x.data.length ≤ 4096 ∧ ∃ c, x.head = haloFlit s w.kern d 6 (bytesOf 8 w.idx ++ bytesOf 4 step ++ bytesOf 4 c)) ∧
      hs.flatMap (·.data) = (if (s.hdr w.kern).pubs = [] then [] else
        fs.flatMap (fun f => bytesOf 4 f ++ (s.hdr w.kern).pubs.flatMap (fun v => bytesOf 4 (uv (w.getV f v))))) ∧
      (let new := hs ++ [{ head := haloFlit s w.kern d 7 (bytesOf 8 w.idx ++ bytesOf 4 count ++ bytesOf 4 flags ++ bytesOf 64 (uv m)), data := [] }]
       (p'.out.map (·.pkt)).Perm (p.out.map (·.pkt) ++ new) ∧ new.Sublist (p'.out.map (·.pkt))))

/-- A wave of the neighbour set stands on a peer that no route reaches (R129). -/
def SetLost (s : State) (w : Wave) (d : Nat) : Prop := ∃ i ∈ nbrSet (s.hdr w.kern) w, s.stand w i = .lost d

/-- A mask stack entry without the cells that have exited (R208). -/
def leftBy (m : Mask) : MaskEntry → MaskEntry
  | .split r sv => .split r (sv &&& ~~~m)
  | .path q x => .path q (x &&& ~~~m)

/-- In vs, V32 to V63 of every cell read 0 and V0 to V31 what they had (R225). -/
def ClearsHigh (w : Wave) (vs : NMap Word) : Prop :=
  ∀ f r, r < 64 → NMap.get 0 vs (64 * f + r) = if 32 ≤ r then 0 else w.getV f r

end Sys2Proof

section
open Sys2Proof Machine

/-- R14, R120, R123, R127, R129, R137, R138: STEP in handler mode raises PRIVOP and with an open split STEPDIV (cause 10), and it waits for a
published register that is still to be written. It raises LINKERR (cause 18) with a peer that no route reaches, and stalls behind a
neighbour. With the neighbour
set at its step it copies the published registers of the live cells to bank (step mod 2) and adds 1
to the step count, and sends the bank and a notice to the devices that read it; it is HELD only on a core with an evicted team. No byte of
memory changes. -/
def Obligations.StepPublishesAndAdvances : Prop :=
  ∀ (s : State) (n : Nat) (w : Wave), Issues s n w .step →
    (w.hmode = true → exec .step s = .next (turnAway n (.trap 11 0) s)) ∧
    (w.hmode = false → w.ms ≠ [] → exec .step s = .next (turnAway n (.trap 10 0) s)) ∧
    (w.hmode = false → w.ms = [] → PubPending s w → exec .step s = .next (turnAway n .pend s)) ∧
    (w.hmode = false → w.ms = [] → ¬ PubPending s w → (∃ d, SetLost s w d) →
      ∃ d, SetLost s w d ∧ exec .step s = .next (turnAway n (.trap 18 (BitVec.ofNat 32 d)) s)) ∧
    (w.hmode = false → w.ms = [] → ¬ PubPending s w → (∀ d, ¬ SetLost s w d) → ¬ SetReached s w →
      exec .step s = .next (turnAway n .stall s)) ∧
    (w.hmode = false → w.ms = [] → ¬ PubPending s w → SetReached s w →
      ∃ t bs st hb, exec .step s = .next t ∧ TellsPeers s t w (uv w.step) (uv (w.step + 1)) 0 0 w.live ∧
        t.wave n = some { w.onward s with bank := bs, step := w.step + 1, st := st, heldBack := hb } ∧
        (w.heldBack = false → hb = false) ∧
        (st = .ready ∨ st = .held) ∧ ((∀ x ∈ s.teams, x.2.st ≠ .evicted) → st = .ready) ∧
        Publishes s w bs (uv w.step % 2) w.live ∧ OthersStay s t n ∧ t.teams = s.teams ∧ SameMemory s t)

/-- R14, R126, R127, R129, R208, R211: EXIT in handler mode raises PRIVOP, and it waits for a published register that is still to be written. It
raises LINKERR (cause 18) with a peer that no route reaches, and stalls behind a neighbour. With the neighbour set at its step the
active cells publish, take the step as their exit step, and leave the live mask and every mask on the stack; the devices that read the
wave are sent the bank and a notice with the EXITED bit, the WHOLE bit where no cell is left, and the mask; when no cell is
left live the wave is wholly exited, and DONE once everything it issued has been performed, until then DRAINING. -/
def Obligations.ExitEndsTheActiveCells : Prop :=
  ∀ (s : State) (n : Nat) (w : Wave), Issues s n w .exit →
    (w.hmode = true → exec .exit s = .next (turnAway n (.trap 11 0) s)) ∧
    (w.hmode = false → PubPending s w → exec .exit s = .next (turnAway n .pend s)) ∧
    (w.hmode = false → ¬ PubPending s w → (∃ d, SetLost s w d) →
      ∃ d, SetLost s w d ∧ exec .exit s = .next (turnAway n (.trap 18 (BitVec.ofNat 32 d)) s)) ∧
    (w.hmode = false → ¬ PubPending s w → (∀ d, ¬ SetLost s w d) → ¬ SetReached s w → exec .exit s = .next (turnAway n .stall s)) ∧
    (w.hmode = false → ¬ PubPending s w → SetReached s w →
      ∃ t bs es hb, exec .exit s = .next t ∧ (w.heldBack = false → hb = false) ∧
        (cellsOf w.active ≠ [] →
          TellsPeers s t w (uv w.step) (uv w.step) (if w.live &&& ~~~w.active = 0 then 3 else 1) w.active w.active) ∧
        Publishes s w bs (uv w.step % 2) w.active ∧ SameMemory s t ∧
        (∀ f, Tbl.find es f = if w.active.getLsbD f = true then some w.step else Tbl.find w.exits f) ∧
        (w.live &&& ~~~w.active ≠ 0 → w.ms = [] →
          t.wave n = some { w.onward s with
            bank := bs, exits := es, live := w.live &&& ~~~w.active, active := 0, whole := false, heldBack := hb }) ∧
        (w.live &&& ~~~w.active ≠ 0 → ∀ ps r sv rest, w.ms = ps ++ .split r sv :: rest →
          (∀ e ∈ ps, ∃ q m, e = MaskEntry.path q m) →
          t.wave n = some { w.onward s with
            bank := bs, exits := es, live := w.live &&& ~~~w.active, active := 0, whole := false, heldBack := hb
            ms := w.ms.map (leftBy w.active), pc := r }) ∧
        (w.live &&& ~~~w.active = 0 → ∃ x, t.wave n = some x ∧ x.live = 0 ∧ x.whole = true ∧ x.exits = es ∧ x.bank = bs ∧
          (quiet s n w = false → x.st = .draining ∧ x.ext = w.ext) ∧
          (quiet s n w = true → x.st = .done ∧ x.ms = [] ∧ x.cs = [] ∧ x.ext = false)))

/-- R218, R225 to R227, R232: ACQ gives a wave in throughput mode a set of V32 to V63, all 0, when one is free and it is first
in line, and otherwise waits in line; in deterministic mode it takes the set that the round's commit has granted to the wave. REL
gives the set back. ELECT sets Kd exactly in the wave with the lowest index among
those of its team with a live cell, on a core with an even number, with an active cell. -/
def Obligations.RegisterSetsAndElection : Prop :=
  ∀ (s : State) (n : Nat) (w : Wave) (tm : Team), s.team w.team = some tm →
    (Issues s n w .acq → w.hmode = true → exec .acq s = .next (turnAway n (.trap 11 0) s)) ∧
    (Issues s n w .acq → w.hmode = false → w.ext = true →
      exec .acq s = .next (turnAway n (.trap 2 (BitVec.ofNat 32 s.chain.slot)) s)) ∧
    (Issues s n w .acq → w.hmode = false → w.ext = false → w.granted = true →
      ∃ vs, exec .acq s = .next (s.issued n { w.onward s with ext := true, granted := false, v := vs }) ∧ ClearsHigh w vs) ∧
    (Issues s n w .acq → w.hmode = false → w.ext = false → w.granted = false → (s.hdr w.kern).det = false → 0 < tm.free →
      (tm.reqs = [] ∨ tm.reqs.head? = some n) →
      ∃ t vs, exec .acq s = .next t ∧ t.wave n = some { w.onward s with ext := true, v := vs } ∧ ClearsHigh w vs ∧
        t.team w.team = some { tm with free := tm.free - 1, reqs := tm.reqs.filter (fun x => x != n) } ∧
        (∀ j, j ≠ n → t.wave j = s.wave j) ∧ SameMemory s t) ∧
    (Issues s n w .acq → w.hmode = false → w.ext = false → w.granted = false → w.hold = none → (s.hdr w.kern).det = false →
      tm.free = 0 →
      ∃ t, exec .acq s = .next t ∧ (t.wave n).map (·.st) = some .waiting ∧
        (t.team w.team).map (·.reqs) = some (if tm.reqs.contains n || tm.stage.any (fun x => x.wave == n && x.k == .acq)
          then tm.reqs else tm.reqs ++ [n])) ∧
    (Issues s n w .rel → w.ext = false → exec .rel s = .next (turnAway n (.trap 2 (BitVec.ofNat 32 s.chain.slot)) s)) ∧
    (Issues s n w .rel → w.ext = true → (∀ p ∈ w.pend, ∀ r, p.1 = .v r → r < 32) →
      ∃ t vs fr, exec .rel s = .next t ∧ ClearsHigh w vs ∧ (∀ j, j ≠ n → t.wave j = s.wave j) ∧ SameMemory s t ∧
        (NoRegsRead s n → t.pairs = s.pairs ∧ fr = tm.frozen) ∧
        ((s.hdr w.kern).det = false →
          t.wave n = some { w.onward s with ext := false, v := vs } ∧
          t.team w.team = some { tm with free := tm.free + 1, frozen := fr }) ∧
        ((s.hdr w.kern).det = true →
          t.wave n = some { w.onward s with ext := false, v := vs, nextId := w.nextId + 1 } ∧
          t.team w.team = some { tm with stage := tm.stage ++ [⟨n, 32, w.nextId, .rel⟩], frozen := fr })) ∧
    (∀ d : KReg, Issues s n w (.elect d) →
      ∃ ks, exec (.elect d) s = .next (s.issued n { w.onward s with k := ks }) ∧
        SetsK w ks d.toNat ((∃ x ∈ s.waves, x.2.team = w.team ∧ x.2.live ≠ 0 ∧ x.2.idx = w.idx) ∧
          (∀ x ∈ s.waves, x.2.team = w.team → x.2.live ≠ 0 → w.idx ≤ x.2.idx) ∧ s.coreOf w % 2 = 0 ∧ w.active ≠ 0))

end

namespace Sys2Proof
open Machine

/-- A team of the context that runs stands on a core in a state. -/
def StandsOn (s : State) (core : Nat) (st : TeamSt) (p : Nat × Team) : Prop :=
  p ∈ s.teams ∧ p.2.core = core ∧ p.2.st = st ∧ p.2.haltP = false

/-- A resident team that can be evicted (R132): it is not halted, and every one of its waves is HELD, or stalled at a STEP, or waits at a
round's boundary for such a one, with no register write pending. A DONE wave does not count (notes/assumptions/107.md). -/
def CanLeave (s : State) (core : Nat) (p : Nat × Team) : Prop :=
  StandsOn s core .resident p ∧ p.2.haltF = false ∧ p.2.haltD = false ∧
    ∀ x ∈ s.waves, x.2.team = p.1 → x.2.st = .done ∨
      (x.2.pend = [] ∧ (x.2.st = .held ∨ atStep s x.2 = true ∨ heldAtBoundary s x.2 = true))

/-- The step counts of all waves lie within 2^31 of one another, so that their signed differences order them (R125). -/
def StepsNear (s : State) : Prop := ∃ b : Word, ∀ x ∈ s.waves, uv (x.2.step - b) < 2 ^ 31

/-- A team's step count is below another's: the lowest of its waves that are not DONE (notes/assumptions/30.md). -/
def StepsBelow (s : State) (p q : Nat × Team) : Prop := stepBelow (teamStep s p.1) (teamStep s q.1) = true

end Sys2Proof

section
open Sys2Proof Machine

/-- R131 to R134, R218, R221, R222: PLACE puts a PENDING team on a core that it may have, its window holding its image and 0
beyond it, RESIDENT with its waves READY, or EVICTED where the core cannot hold the images of the context's teams; HBM changes in save areas
alone, and nowhere when no PARKED context has to leave the stores that the team needs (R396). EVICT, where some team of the core is EVICTED
and some resident one can leave, evicts of these the one with the highest step, the lowest team index on a tie; RELOAD brings back, of the
EVICTED ones, the one with the lowest step, again the lowest index on a tie, once its images fit (notes/assumptions/30.md). Where no team may
be placed, evicted or reloaded nothing changes (notes/assumptions/1.md). Which frames a save area takes is the model's choice
(notes/assumptions/91.md). -/
def Obligations.TeamsArePlacedEvictedAndReloaded : Prop :=
  ∀ (s : State) (core : Nat),
    (∀ (k t : Nat) (tm : Team) (kn : Kernel), s.team t = some tm → s.kern k = some kn → placeable s k t core = true →
      ∃ s' tm', exec (.place k t core) s = .next s' ∧ s'.team t = some tm' ∧ tm'.core = core ∧
        (tm'.st = .resident ∨ tm'.st = .evicted) ∧
        (∀ a, windowByte s' t a = (spadBytes s kn).getD a 0) ∧
        (∀ a, (∀ c ∈ s'.ctxs, a / 65536 ∉ c.2.area) → byteAt s' a = byteAt s a) ∧
        ((∀ x ∈ placeNeeds s kn.vf t core, victims s kn.vf x.1 x.2 = []) → ∀ a, byteAt s' a = byteAt s a) ∧
        (tm'.st = .resident → ∀ j x, s.wave j = some x → x.team = t → s'.wave j = some { x with st := .ready, age := 0 }) ∧
        ((∀ x ∈ s.teams, x.1 ≠ t → x.2.kern = k → x.2.st ≠ .pending) → (s.teams.map (·.1)).Nodup →
          (s'.kern k).map (·.st) = some .running)) ∧
    (∀ k t, placeable s k t core = false → exec (.place k t core) s = .next s) ∧
    ((∃ p, StandsOn s core .evicted p) → (∃ p, CanLeave s core p) → StepsNear s →
      ∃ t tm s', CanLeave s core (t, tm) ∧ exec (.evict core) s = .next s' ∧
        (∀ q, CanLeave s core q → ¬ StepsBelow s (t, tm) q ∧ (¬ StepsBelow s q (t, tm) → tm.idx ≤ q.2.idx)) ∧
        (s'.team t).map (·.st) = (s.team t).map (fun _ => TeamSt.evicted) ∧ SameMemory s s' ∧
        ∀ j x, s.wave j = some x →
          s'.wave j = some (if x.team = t ∧ x.st ≠ .done then { x with st := .evicted } else x)) ∧
    ((∀ p, ¬ StandsOn s core .evicted p) ∨ (∀ p, ¬ CanLeave s core p) → exec (.evict core) s = .next s) ∧
    ((∃ p, StandsOn s core .evicted p) → StepsNear s →
      ∃ t tm, StandsOn s core .evicted (t, tm) ∧
        (∀ q, StandsOn s core .evicted q → ¬ StepsBelow s q (t, tm) ∧ (¬ StepsBelow s (t, tm) q → tm.idx ≤ q.2.idx)) ∧
        (fitsOn s core t = false → exec (.reload core) s = .next s) ∧
        (fitsOn s core t = true → (∀ x ∈ coreNeeds s tm.vf core (teamImages s t) 0, victims s tm.vf x.1 x.2 = []) →
          ∃ s', exec (.reload core) s = .next s' ∧ (s'.team t).map (·.st) = (s.team t).map (fun _ => TeamSt.resident) ∧
            SameMemory s s' ∧
            ∀ j x, s.wave j = some x → x.team = t → x.st = .evicted →
              ∃ hb, s'.wave j = some { x with st := .ready, age := 0, heldBack := hb } ∧ (x.heldBack = false → hb = false))) ∧
    ((∀ p, ¬ StandsOn s core .evicted p) → exec (.reload core) s = .next s)

end

namespace Sys2Proof
open Machine

/-! ## Barriers and handles (spec/12_barrier.md, spec/14_handle.md) -/

/-- In t, barrier b of the wave's team is x, what is hidden of the team's window is changed by g, and every other barrier, what
the waves still see of it, and every other part of the team is as before. -/
def BarrierIs (s t : State) (team b : Nat) (x : Barrier) (g : List Veil → List Veil) : Prop :=
  ∀ tm, s.team team = some tm → ∃ bs fr, t.team team = some { tm with bars := bs, freshB := fr, veils := g tm.veils } ∧
    (∀ j, Tbl.find bs j = if j = b then some x else Tbl.find tm.bars j) ∧
    fr.filter (fun e => e.2.1 != b) = tm.freshB.filter (fun e => e.2.1 != b)

/-- What was hidden from wave n is hidden no more where its writer arrived in phase ph of barrier b (R184). -/
def passed (n b : Nat) (ph : BitVec 16) (vs : List Veil) : List Veil :=
  vs.map (fun v => if v.arrived.contains (b, ph) then { v with clear := n :: v.clear } else v)

/-- The wave may arrive at a barrier (R245): it is set up, the wave is a member that has not arrived, and no arrival of the
wave is outstanding. -/
def MayArrive (s : State) (n : Nat) (w : Wave) (b : Nat) : Prop :=
  (s.barOf w b).st = true ∧ (s.barOf w b).mm.getLsbD w.f1 = true ∧ (s.barOf w b).am.getLsbD w.f1 = false ∧
  (∀ e ∈ w.standing, e.k ≠ .arrival b) ∧ (∀ x ∈ s.stagedOf n w, x.k ≠ .arrival b)

/-- The phase in which a wait of the wave finds barrier b: in deterministic mode the one in which it stood as the wave's quantum began
(R231, R242). -/
def seenPhase (s : State) (w : Wave) (b : Nat) : BitVec 16 :=
  match w.view with
  | some v => NMap.get 0 v.phases b
  | none => (s.barOf w b).ph

/-- In v, what a wave saw as its quantum began, it has itself seen barrier b reach a phase. -/
def SeesPhase (w : Wave) (v : Option View) (b : Nat) (ph : BitVec 16) : Prop :=
  (w.view = none → v = none) ∧ ∀ y, w.view = some y → ∃ phs, v = some { y with phases := phs } ∧ WritesOne 0 y.phases phs b ph

/-- The wave consumes one completion (R245). -/
def consumed (x : Barrier) (ws : NMap (BitVec 16)) (i : Nat) : Barrier :=
  { x with w := ws, ar := x.ar &&& ~~~(BitVec.ofNat 16 (2 ^ i)) }

end Sys2Proof

section
open Sys2Proof Machine

/-- R236, R237, R242, R245: BINIT sets the member mask and the external count of a barrier of the team that no arrival and no
operation uses, nor a slice of a copy that gathers, and the credit of external arrivals completes phases of a barrier without
members; other values are BARERR (cause 7) with the barrier's number. In deterministic mode the wave itself sees the barrier
so set, and every other wave that has not set it in the round what it saw before. BQRY reads the barrier, as the wave sees it,
into three S registers. -/
def Obligations.BarriersAreSetUpAndRead : Prop :=
  ∀ (s : State) (n : Nat) (w : Wave) (r : SReg) (b : BReg) (tm : Team), s.team w.team = some tm →
    (Issues s n w (.binit r b) →
      let v := w.getS r.toNat
      let x := tm.bar b.toNat
      let mm := uv v % 2 ^ 16
      let e := uv v / 2 ^ 16 % 2 ^ 8
      let good := (s.barOf w b.toNat).am = 0 ∧ (∀ o ∈ s.ops, ¬(o.2.team = w.team ∧ o.2.namesBar b.toNat = true)) ∧
        mm < 2 ^ (s.hdr w.kern).waves ∧ ¬(mm = 0 ∧ e = 0)
      (good → ∃ t z v, exec (.binit r b) s = .next t ∧ t.wave n = some { w.onward s with view := v } ∧ SameMemory s t ∧
        SeesPhase w v b.toNat (t.barOf w b.toNat).ph ∧
        BarrierIs s t w.team b.toNat z id ∧ z = { x with st := true, mm := BitVec.ofNat 16 mm, e := BitVec.ofNat 8 e }.eval ∧
        (x.am = 0 → z = { x with
          st := true, mm := BitVec.ofNat 16 mm, e := BitVec.ofNat 8 e
          xa := if mm = 0 then x.xa % e else x.xa
          ph := if mm = 0 then x.ph + BitVec.ofNat 16 (x.xa / e) else x.ph }) ∧
        ((s.hdr w.kern).det = true → t.barOf w b.toNat = z ∧
          ∀ y : Wave, y.team = w.team → y.idx ≠ w.idx → (∀ f ∈ tm.freshB, ¬(f.1 = y.idx ∧ f.2.1 = b.toNat)) →
            t.barOf y b.toNat = s.barOf y b.toNat)) ∧
      (¬good → exec (.binit r b) s = .next (turnAway n (.trap 7 (BitVec.ofNat 32 b.toNat)) s))) ∧
    ((Instr.bqry r b).wf = true → Issues s n w (.bqry r b) →
      let x := s.barOf w b.toNat
      ∃ ss, exec (.bqry r b) s = .next (s.issued n { w.onward s with s := ss }) ∧
        ∀ j, NMap.get 0 ss j =
          if j = r.toNat then BitVec.ofNat 32 (2 ^ 16 * uv x.mm + uv x.am)
          else if j = r.toNat + 1 then BitVec.ofNat 32 (2 ^ 16 * uv (NMap.get 0 x.w w.f1) + uv x.ph)
          else if j = r.toNat + 2 then BitVec.ofNat 32 (2 ^ 24 * x.st.toNat + 2 ^ 16 * uv x.e + x.xa % 2 ^ 16)
          else w.getS j)

/-- R242, R243, R245: BARR appends an arrival under its handle, or raises BARERR where the wave may not arrive. BWAIT goes on when
a phase has completed that the wave has not consumed, in deterministic mode as the wave's quantum began, and consumes it: what the phase's members wrote
before they arrived is hidden from the wave no more (R184); else it waits. BSYNC arrives once, and goes on as BWAIT does. -/
def Obligations.BarriersArriveAndWait : Prop :=
  ∀ (s : State) (n : Nat) (w : Wave) (h : HReg) (b : BReg) (tm : Team), s.team w.team = some tm →
    let x := s.barOf w b.toNat
    let y := tm.bar b.toNat
    let ph := NMap.get 0 x.w w.f1
    let complete := seenPhase s w b.toNat ≠ ph
    (Issues s n w (.barr h b) →
      ((w.getH h.toNat).st = .retired → exec (.barr h b) s = .next (turnAway n (.trap 6 (BitVec.ofNat 32 h.toNat)) s)) ∧
      ((w.getH h.toNat).st ≠ .retired → ¬ MayArrive s n w b.toNat →
        exec (.barr h b) s = .next (turnAway n (.trap 7 (BitVec.ofNat 32 b.toNat)) s)) ∧
      (Takes w h.toNat → MayArrive s n w b.toNat →
        ∃ qs, exec (.barr h b) s = .next (s.issued n { w.onward s with seqs := qs, nextId := w.nextId + 1 }) ∧
          Appends w qs (w.getH h.toNat).seq (.arrival b.toNat))) ∧
    (Issues s n w (.bwait b) →
      (x.st = false → exec (.bwait b) s = .next (turnAway n (.trap 7 (BitVec.ofNat 32 b.toNat)) s)) ∧
      (x.st = true → ¬complete → exec (.bwait b) s = .next (turnAway n (.wait []) s)) ∧
      (x.st = true → complete → ∃ t ws, exec (.bwait b) s = .next t ∧ t.wave n = some (w.onward s) ∧ SameMemory s t ∧
        WritesOne 0 y.w ws w.f1 (NMap.get 0 y.w w.f1 + 1) ∧
        BarrierIs s t w.team b.toNat (consumed y ws w.f1) (passed n b.toNat ph))) ∧
    (Issues s n w (.bsync h b) →
      (x.ar.getLsbD w.f1 = true → ¬complete →
        exec (.bsync h b) s = .next (turnAway n (.wait []) s)) ∧
      (x.ar.getLsbD w.f1 = true → complete →
        ∃ t ws, exec (.bsync h b) s = .next t ∧ t.wave n = some (w.onward s) ∧ SameMemory s t ∧
          WritesOne 0 y.w ws w.f1 (NMap.get 0 y.w w.f1 + 1) ∧
          BarrierIs s t w.team b.toNat (consumed y ws w.f1) (passed n b.toNat ph)) ∧
      (x.ar.getLsbD w.f1 = false → Takes w h.toNat → MayArrive s n w b.toNat → ¬complete → w.hold = none →
        ∃ t qs v, exec (.bsync h b) s = .next t ∧ t.wave n = some v ∧ v.st = .waiting ∧ v.seqs = qs ∧ v.pc = w.pc ∧
          Appends w qs (w.getH h.toNat).seq (.arrival b.toNat) ∧
          BarrierIs s t w.team b.toNat { y with ar := y.ar ||| BitVec.ofNat 16 (2 ^ w.f1) } id) ∧
      (x.ar.getLsbD w.f1 = false → Takes w h.toNat → MayArrive s n w b.toNat → complete → w.f1 < 16 →
        ∃ t qs ws ar, exec (.bsync h b) s = .next t ∧
          t.wave n = some { w.onward s with seqs := qs, nextId := w.nextId + 1 } ∧
          Appends w qs (w.getH h.toNat).seq (.arrival b.toNat) ∧ WritesOne 0 y.w ws w.f1 (NMap.get 0 y.w w.f1 + 1) ∧
          BarrierIs s t w.team b.toNat { y with w := ws, ar := ar } (passed n b.toNat ph) ∧
          ∀ i, ar.getLsbD i = (y.ar.getLsbD i && i != w.f1)))

end

namespace Sys2Proof
open Machine

/-- In hs and qs, register d names sequencer q, which holds one gate; the sequencer that the register named before is
detached (R270, R271, R280). -/
def MakesSeq (w : Wave) (hs : NMap HandleReg) (qs : Tbl Seq) (d q : Nat) (gate : EntryKind) : Prop :=
  WritesOne {} w.h hs d ⟨q, .gated⟩ ∧ Tbl.find qs q = some { entries := [⟨w.nextId, gate, .queued⟩] } ∧
  ∀ j, j ≠ q → Tbl.find qs j =
    (Tbl.find w.seqs j).map (fun x => if (w.getH d).st ≠ .retired ∧ (w.getH d).seq = j then { x with named := false } else x)

/-- What has left the sequencer that slot q had before, and is not performed, belongs to no slot (R271, R272). -/
def retag (n q : Nat) (xs : List Staged) : List Staged :=
  xs.map (fun x => if x.wave = n ∧ x.seq = q then { x with seq := 32 } else x)

/-- The state after the issue of a word of wave n that makes a sequencer in slot q. -/
def slotTaken (s : State) (n : Nat) (w : Wave) (q : Nat) (qs : Tbl Seq) (hs : NMap HandleReg) : State :=
  { s.issued n { w.onward s with
      seqs := qs, h := hs, nextId := w.nextId + 1, buf := retag n q w.buf
      passed := w.passed.map (fun x => if x.2.1 = q then (x.1, 32, x.2.2) else x) } with
    teams := Tbl.modify (fun t => { t with stage := retag n q t.stage }) s.teams w.team }

/-- The entries of a handle's sequencer that are not PERFORMED (R258). -/
def unperformed (s : State) (n : Nat) (w : Wave) (h : Nat) : List Nat := entriesOf s n w (w.getH h).seq

/-- The receiver of an HPASS stands on another device of the run, under which the device knows a peer (R281). -/
def FarReceiver (s : State) (w : Wave) (r : Nat) (p : Peer) : Prop :=
  let h := s.hdr w.kern
  h.onDev s.dev (r * h.cells) = false ∧ h.field (r * h.cells) 5 < s.devs ∧ Tbl.find s.peers (h.field (r * h.cells) 5) = some p

/-- The receiver of an HPASS exists and, on another device, can be reached (R281). -/
def Receives (s : State) (w : Wave) (r : Nat) : Prop :=
  r < 2 ^ ((s.hdr w.kern).widths.drop 1).sum ∧
  ((s.hdr w.kern).onDev s.dev (r * (s.hdr w.kern).cells) = true ∨ ∃ p, FarReceiver s w r p ∧ p.reach ≠ .unreachable)

end Sys2Proof

section
open Sys2Proof Machine

/-- R270 to R275, R280, R281: HFORK, HJOIN and HRECV name in Hd the lowest free sequencer (notes/assumptions/29.md), which holds a gate for the
entries of the parents that are not performed, or for a pass under the key; what has left the slot's sequencer before, passes among them,
belongs to no slot (notes/assumptions/20.md). HPASS appends a pass for its receiver. A handle that is
not open raises HNDERR (cause 6), of two such parents with the first's number (notes/assumptions/109.md), as does a receiver beyond the run or
on a device that the run does not have; one on a peer that no route reaches raises LINKERR (cause 18). Without a free slot the word
waits. -/
def Obligations.HandlesForkJoinAndPass : Prop :=
  ∀ (s : State) (n : Nat) (w : Wave),
    (∀ d h : HReg, Issues s n w (.hfork d h) →
      ((w.getH h.toNat).st = .retired → exec (.hfork d h) s = .next (turnAway n (.trap 6 (BitVec.ofNat 32 h.toNat)) s)) ∧
      ((w.getH h.toNat).st ≠ .retired → w.freeSlot = none → exec (.hfork d h) s = .next (turnAway n .pend s)) ∧
      (∀ q, (w.getH h.toNat).st ≠ .retired → w.freeSlot = some q →
        ∃ qs hs, exec (.hfork d h) s = .next (slotTaken s n w q qs hs) ∧
          MakesSeq w hs qs d.toNat q (.gateFork (unperformed s n w h.toNat)))) ∧
    (∀ d h e : HReg, Issues s n w (.hjoin d h e) → ∀ q, (w.getH h.toNat).st ≠ .retired → (w.getH e.toNat).st ≠ .retired →
      w.freeSlot = some q →
      ∃ qs hs, exec (.hjoin d h e) s = .next (slotTaken s n w q qs hs) ∧
        MakesSeq w hs qs d.toNat q (.gateFork (unperformed s n w h.toNat ++ unperformed s n w e.toNat))) ∧
    (∀ d h e : HReg, Issues s n w (.hjoin d h e) →
      ((w.getH h.toNat).st = .retired → exec (.hjoin d h e) s = .next (turnAway n (.trap 6 (BitVec.ofNat 32 h.toNat)) s)) ∧
      ((w.getH h.toNat).st ≠ .retired → (w.getH e.toNat).st = .retired →
        exec (.hjoin d h e) s = .next (turnAway n (.trap 6 (BitVec.ofNat 32 e.toNat)) s))) ∧
    (∀ (d : HReg) (r : SReg), Issues s n w (.hrecv d r) → ∀ q, w.freeSlot = some q →
      ∃ qs hs, exec (.hrecv d r) s = .next (slotTaken s n w q qs hs) ∧
        MakesSeq w hs qs d.toNat q (.gateRecv (BitVec.ofNat 16 (uv (w.getS r.toNat))))) ∧
    (∀ (h : HReg) (r : SReg), Issues s n w (.hpass h r) → Takes w h.toNat → Receives s w (uv (w.getS64 r.toNat)) →
      ∃ qs, exec (.hpass h r) s = .next (s.issued n { w.onward s with seqs := qs, nextId := w.nextId + 1 }) ∧
        Appends w qs (w.getH h.toNat).seq (.pass (uv (w.getS64 r.toNat)) (BitVec.ofNat 16 (uv (w.getS (r.toNat + 2)))))) ∧
    (∀ (h : HReg) (r : SReg), Issues s n w (.hpass h r) → (w.getH h.toNat).st ≠ .retired →
      let x := uv (w.getS64 r.toNat)
      let dev := (s.hdr w.kern).field (x * (s.hdr w.kern).cells) 5
      (2 ^ ((s.hdr w.kern).widths.drop 1).sum ≤ x ∨
          ((s.hdr w.kern).onDev s.dev (x * (s.hdr w.kern).cells) = false ∧ (s.devs ≤ dev ∨ Tbl.find s.peers dev = none)) →
        exec (.hpass h r) s = .next (turnAway n (.trap 6 (BitVec.ofNat 32 h.toNat)) s)) ∧
      (x < 2 ^ ((s.hdr w.kern).widths.drop 1).sum → ∀ p, FarReceiver s w x p → p.reach = .unreachable →
        exec (.hpass h r) s = .next (turnAway n (.trap 18 (BitVec.ofNat 32 dev)) s)))

/-- R231, R259, R260, R270, R280: HWAIT goes on when every entry of its handle that it found is performed (in deterministic mode as
the wave's quantum began), and waits for them until then; HWAIT.ret also retires the register, and may not name H0. FENCE appends a fence under its handle, and FENCE.all
one at the tail of every live sequencer. -/
def Obligations.HandlesWaitAndFence : Prop :=
  ∀ (s : State) (n : Nat) (w : Wave),
    let seen (id : Nat) : Prop := performed s n w id = true ∧ w.saw id = true
    (∀ h : HReg, Issues s n w (.hwait h) →
      ((w.getH h.toNat).st = .retired → exec (.hwait h) s = .next (turnAway n (.trap 6 (BitVec.ofNat 32 h.toNat)) s)) ∧
      ((w.getH h.toNat).st ≠ .retired → w.hold = none →
        ((∀ id ∈ unperformed s n w h.toNat, seen id) → exec (.hwait h) s = .next (s.issued n (w.onward s))) ∧
        (¬(∀ id ∈ unperformed s n w h.toNat, seen id) →
          exec (.hwait h) s = .next (turnAway n (.wait (unperformed s n w h.toNat)) s))) ∧
      (∀ x, (w.getH h.toNat).st ≠ .retired → w.hold = some x → (∀ id ∈ x.data, seen id) →
        exec (.hwait h) s = .next (s.issued n (w.onward s)))) ∧
    (∀ h : HReg, Issues s n w (.hwaitRet h) →
      (h = 0 → exec (.hwaitRet h) s = .next (turnAway n (.trap 6 0) s)) ∧
      ((w.getH h.toNat).st ≠ .retired → h ≠ 0 → w.hold = none →
        (∀ id ∈ unperformed s n w h.toNat, seen id) →
        ∃ qs hs, exec (.hwaitRet h) s = .next (s.issued n { w.onward s with seqs := qs, h := hs }) ∧
          WritesOne {} w.h hs h.toNat ⟨0, .retired⟩ ∧
          ∀ j, Tbl.find qs j =
            (Tbl.find w.seqs j).map (fun x => if (w.getH h.toNat).seq = j then { x with named := false } else x))) ∧
    (∀ (c : Scope) (h : HReg), Issues s n w (.fence c h) → Takes w h.toNat →
      ∃ qs, exec (.fence c h) s = .next (s.issued n { w.onward s with seqs := qs, nextId := w.nextId + 1 }) ∧
        Appends w qs (w.getH h.toNat).seq (.fence c false false none)) ∧
    (∀ c : Scope, Issues s n w (.fenceAll c) → (∀ x ∈ w.seqs, x.2.live = true → x.2.entries.length < 64) →
      ∃ qs, exec (.fenceAll c) s = .next (s.issued n { w.onward s with seqs := qs, nextId := w.nextId + 1 }) ∧
        ∀ j, Tbl.find qs j = (Tbl.find w.seqs j).map (fun x =>
          if x.live = true then { x with entries := x.entries ++ [⟨w.nextId, .fence c true false none, .queued⟩] } else x))

end

namespace Sys2Proof
open Machine

/-! ## The ordering machine (spec/13_ordering.md) -/

/-- The cells of an access touch disjoint bytes. -/
def Disjoint (a : Access) : Prop := a.cells.Pairwise (fun c d => c.addr + a.sz ≤ d.addr ∨ d.addr + a.sz ≤ c.addr)

/-- Entry e stands at the head of sequencer q of wave n, and the access or arrival may be performed there. -/
structure AtHead (s : State) (n q : Nat) (w : Wave) (e : Entry) : Prop where
  wave : s.wave n = some w
  head : (w.seqAt q).entries.head? = some e
  queued : e.st = .queued
  unstaged : s.isStaged n w e.id = false
  runs : buffersRun s w = true
  alive : w.st ≠ .draining

/-- No matrix operation that has started is left: a store spoils none (spec/09_isa_memory.md R202). -/
def NoneStarted (s : State) : Prop := ∀ p ∈ s.pairs, ∀ o ∈ p.2.queue ++ p.2.settled, o.started = false

/-- What an ATOM does of its words one after another, from the bytes of a window: each cell with the old value that it finds, and the
bytes at the end (R195). -/
def atomsOf (op : AtomOp) (m : Nat → Byte) : List Touch → List (Touch × Word) × (Nat → Byte)
  | [] => ([], m)
  | c :: cs =>
    let old : Word := BitVec.ofNat 32 (natOf ((List.range 4).map (fun i => m (c.addr + i))))
    let new := op.new old (BitVec.ofNat 32 (uv c.val)) c.new
    let r := atomsOf op (fun x => if c.addr ≤ x ∧ x < c.addr + 4 then BitVec.ofNat 8 (uv new / 256 ^ (x - c.addr)) else m x) cs
    ((c, old) :: r.1, r.2)

/-- What an ATOM leaves: each cell's old value in its register (a uniform one's in its S register), the words in the window, no byte of HBM
changed, and the registers of its entry complete. -/
def AtomDone (s t : State) (n : Nat) (w : Wave) (id : Nat) (a : Access) (op : AtomOp) : Prop :=
  let r := atomsOf op (windowByte s w.team) a.cells
  ∃ y, t.wave n = some y ∧ y.pend = w.pend.filter (fun p => p.2 != id) ∧ (∀ x, byteAt t x = byteAt s x) ∧
    (∀ x, windowByte t w.team x = r.2 x) ∧
    (a.uni = false → ∀ p ∈ r.1, y.getV p.1.f a.d = p.2) ∧ (a.uni = true → ∀ p ∈ r.1, y.getS a.d = p.2)

/-- The cells of an ATOM as it is issued: one for a uniform one, else each cell once in ascending F0 (R195). -/
def AtomCells (a : Access) : Prop :=
  (a.uni = true ∧ ∃ c, a.cells = [c]) ∨ (a.uni = false ∧ a.d < 64 ∧ (a.cells.map (·.f)).Pairwise (· < ·))

/-- In t the entry has left the sequencers of wave n. -/
def Left (t : State) (n id : Nat) : Prop := ∀ w, t.wave n = some w → ∀ e ∈ w.standing, e.id ≠ id

end Sys2Proof

section
open Sys2Proof Machine

/-- R252: PERFORM of a load writes each cell's register with the bytes read, from the wave's own youngest store that holds
them, else from the window, and completes the register. A byte that the window hides from the wave reads as a free value (R184,
R347, R379). -/
def Obligations.PerformedLoadsReadTheirBytes : Prop :=
  (∀ (s : State) (n q : Nat) (w : Wave) (e : Entry) (a : Access) (m : LdSize), AtHead s n q w e → e.k = .access a →
    a.kind = .load m → mayPerform s n w e a = true →
    let x := fun (k : Nat) (c : Touch) =>
      m.extend (natOf ((List.range a.sz).map (fun i => readOwn s n w (c.addr + i) (a.sz * k + i))))
    ∃ t y, exec (.perform n q) s = .next t ∧ t.wave n = some y ∧ Left t n e.id ∧ SameMemory s t ∧
      y.pend = w.pend.filter (fun p => p.2 != e.id) ∧
      (a.uni = false → m ≠ .b64 → a.d < 64 → (a.cells.map (·.f)).Nodup → ∀ k c, a.cells[k]? = some c →
        y.getV c.f a.d = BitVec.ofNat 32 (uv (x k c))) ∧
      (a.uni = false → m = .b64 → a.d + 1 < 64 → (a.cells.map (·.f)).Nodup → ∀ k c, a.cells[k]? = some c →
        y.getV64 c.f a.d = x k c) ∧
      (a.uni = true → ∀ c, a.cells = [c] → y.getS a.d = BitVec.ofNat 32 (uv (x 0 c)))) ∧
  (∀ (s : State) (n : Nat) (w : Wave) (x i : Nat), ownStores s n w = [] →
    (hidden s n w x = false → readOwn s n w x i = windowByte s w.team x) ∧
    (hidden s n w x = true → readOwn s n w x i = Config.freeByte (s.tick + i))) ∧
  (∀ (s : State) (n : Nat) (w : Wave) (x i : Nat) (xs : List Access) (st : Access) (b : Byte),
    ownStores s n w = xs ++ [st] → st.byteAt x = some b → readOwn s n w x i = b)

/-- R184, R252, R266: PERFORM of a store of team scope writes its bytes into the team's window in throughput mode and stages
the store in deterministic mode; a store of wave scope stands in the perform buffer, and its bytes reach the window at its
DRAIN (R253). While no matrix operation that has started is left, no other byte of any window, and no byte of HBM, changes. -/
def Obligations.PerformedStoresWriteTheirBytes : Prop :=
  ∀ (s : State) (n : Nat) (w : Wave) (tm : Team) (a : Access), a.kind = .store → Disjoint a → s.team w.team = some tm →
    NoneStarted s →
    (∀ q e, AtHead s n q w e → e.k = .access a → mayPerform s n w e a = true →
      ∃ t, exec (.perform n q) s = .next t ∧ Left t n e.id ∧ (∀ x, byteAt t x = byteAt s x) ∧
        (∀ k, k ≠ w.team → ∀ x, windowByte t k x = windowByte s k x) ∧
        (a.team = true → (s.hdr w.kern).det = false →
          ∀ x, windowByte t w.team x = (a.byteAt x).getD (windowByte s w.team x)) ∧
        (a.team = false → (∀ x, windowByte t w.team x = windowByte s w.team x) ∧
          (t.wave n).map (·.buf) = some (w.buf ++ [⟨n, q, e.id, .access a⟩])) ∧
        (a.team = true → (s.hdr w.kern).det = true → (∀ x, windowByte t w.team x = windowByte s w.team x) ∧
          (t.team w.team).map (·.stage) = some (tm.stage ++ [⟨n, q, e.id, .access a⟩]))) ∧
    (∀ q id, s.wave n = some w → w.st ≠ .draining → buffersRun s w = true →
      w.buf.find? (fun x => x.id == id) = some ⟨n, q, id, .access a⟩ →
      (∀ y ∈ w.buf, y.id < id →
        meets (Machine.touched s n w y.k) (a.cells.map (fun c => (c.addr, a.sz))) = false) →
      ∃ t, exec (.drain n id) s = .next t ∧ (t.wave n).map (·.buf) = some (w.buf.filter (fun y => y.id != id)) ∧
        (∀ x, byteAt t x = byteAt s x) ∧ (∀ k, k ≠ w.team → ∀ x, windowByte t k x = windowByte s k x) ∧
        ∀ x, windowByte t w.team x = (a.byteAt x).getD (windowByte s w.team x))

/-- R195, R196, R252: PERFORM of an ATOM reads each of its words and writes the new one that its operation gives, cell by cell in ascending
F0, so that several cells on one word see one another, and leaves each old value in its register, in one step; where the window hides a byte
of its word from the wave, a uniform one finds a free value. In deterministic mode PERFORM puts the ATOM into the commit stage and changes
no byte, and COMMIT does the same to the words when the entry's turn comes; a floating-point one then waits for the token (R233), and
nothing changes until the team has it (notes/assumptions/1.md). -/
def Obligations.PerformedAtomicsReadAndWriteOnce : Prop :=
  (∀ (s : State) (n q : Nat) (w : Wave) (tm : Team) (e : Entry) (a : Access) (op : AtomOp), AtHead s n q w e →
    e.k = .access a → a.kind = .atom op → AtomCells a → mayPerform s n w e a = true → s.team w.team = some tm →
    ((s.hdr w.kern).det = false → NoneStarted s → (∀ c ∈ a.cells, ∀ i, i < 4 → hidden s n w (c.addr + i) = false) →
      ∃ t, exec (.perform n q) s = .next t ∧ Left t n e.id ∧ AtomDone s t n w e.id a op) ∧
    ((s.hdr w.kern).det = true →
      ∃ t, exec (.perform n q) s = .next t ∧ Left t n e.id ∧ SameMemory s t ∧
        (t.team w.team).map (·.stage) = some (tm.stage ++ [⟨n, q, e.id, .access a⟩]) ∧ (t.wave n).map (·.pend) = some w.pend)) ∧
  (∀ (s : State) (k : Nat) (w : Wave) (tm : Team) (x : Staged) (a : Access) (op : AtomOp), s.team k = some tm →
    s.wave x.wave = some w → w.team = k → w.st ≠ .draining → (s.hdr tm.kern).det = true → tm.goes = true →
    (s.hdr tm.kern).waves ≤ tm.turn → orderingIdle s k = true → firstStaged s tm = some x → x.k = .access a → a.kind = .atom op →
    AtomCells a →
    (op.isFloat = true → tokenHere s tm = false → exec (.commit k) s = .next s) ∧
    ((op.isFloat = false ∨ tokenHere s tm = true) → NoneStarted s →
      (∀ c ∈ a.cells, ∀ i, i < 4 → hidden s x.wave w (c.addr + i) = false) →
      ∃ t, exec (.commit k) s = .next t ∧ AtomDone s t x.wave w x.id a op ∧
        (t.team k).map (·.stage) = some (tm.stage.filter (fun y => y.wave != x.wave || y.id != x.id)))) ∧
  ∀ (s : State) (n q : Nat) (w : Wave) (tm : Team) (e : Entry) (a : Access) (op : AtomOp) (c : Touch), AtHead s n q w e →
    e.k = .access a → a.kind = .atom op → a.uni = true → a.cells = [c] → mayPerform s n w e a = true →
    (s.hdr w.kern).det = false → s.team w.team = some tm → NoneStarted s →
    ∃ old, ((∀ i, i < 4 → hidden s n w (c.addr + i) = false) →
      old = BitVec.ofNat 32 (natOf ((List.range 4).map (fun i => windowByte s w.team (c.addr + i))))) ∧
    let new := op.new old (BitVec.ofNat 32 (uv c.val)) c.new
    ∃ t y, exec (.perform n q) s = .next t ∧ t.wave n = some y ∧ y.getS a.d = old ∧ Left t n e.id ∧
      y.pend = w.pend.filter (fun p => p.2 != e.id) ∧ (∀ x, byteAt t x = byteAt s x) ∧
      (∀ x, windowByte t w.team x =
        if c.addr ≤ x ∧ x < c.addr + 4 then BitVec.ofNat 8 (uv new / 256 ^ (x - c.addr)) else windowByte s w.team x)

/-- R237, R252, R258, R260, R274, R275: PERFORM of an arrival sets the member's bit and completes the phase when it was the
last; OPEN lets a fork or join gate go once its entries are performed and a receive gate once its pass has come, and opens
the registers behind it; FENCE_OPEN lets a fence go once what is older is performed at its scope, and before that changes nothing
(notes/assumptions/1.md). -/
def Obligations.ArrivalsGatesAndFences : Prop :=
  ∀ (s : State) (n : Nat) (w : Wave) (tm : Team), s.team w.team = some tm →
    (∀ q e b, AtHead s n q w e → e.k = .arrival b → (∀ x ∈ w.buf, x.seq ≠ q) → (s.hdr w.kern).det = false →
      ∃ t x, exec (.perform n q) s = .next t ∧ Left t n e.id ∧ SameMemory s t ∧ (t.team w.team).map (·.bar b) = some x ∧
        x.mm = (tm.bar b).mm ∧
        (let am := (tm.bar b).am ||| BitVec.ofNat 16 (2 ^ w.f1)
         ((tm.bar b).st = true → am = (tm.bar b).mm → uv (tm.bar b).e ≤ (tm.bar b).xa → (tm.bar b).mm ≠ 0 →
          x.am = 0 ∧ x.ph = (tm.bar b).ph + 1 ∧ x.xa = (tm.bar b).xa - uv (tm.bar b).e) ∧
         (am ≠ (tm.bar b).mm → x.am = am ∧ x.ph = (tm.bar b).ph ∧ x.xa = (tm.bar b).xa))) ∧
    (∀ q e ids, s.wave n = some w → (w.seqAt q).entries.head? = some e → e.k = .gateFork ids → buffersRun s w = true →
      w.st ≠ .draining → (∀ id ∈ ids, performed s n w id = true) →
      ∃ t, exec (.openGate n q) s = .next t ∧ Left t n e.id ∧ SameMemory s t ∧
        ∀ y, t.wave n = some y → ∀ i, i < 16 → y.getH i =
          if (w.getH i).seq = q ∧ (w.getH i).st = .gated then ⟨q, .opened⟩ else w.getH i) ∧
    (∀ q e key p rest, s.wave n = some w → (w.seqAt q).entries.head? = some e → e.k = .gateRecv key →
      buffersRun s w = true → w.st ≠ .draining → takePass w.idx key tm.passes = some (p, rest) → firstRecv w e.id key = true →
      ∃ t, exec (.openGate n q) s = .next t ∧ Left t n e.id ∧ SameMemory s t ∧ (t.team w.team).map (·.passes) = some rest ∧
        ∀ y, t.wave n = some y → (∀ i, i < 16 → y.getH i =
          if (w.getH i).seq = q ∧ (w.getH i).st = .gated then ⟨q, .opened⟩ else w.getH i)) ∧
    (∀ q e sc every, s.wave n = some w → w.st ≠ .draining → buffersRun s w = true →
      w.seqs.find? (fun x => x.2.entries.any (fun y => y.id == e.id)) = some q →
      w.standing.find? (fun y => y.id == e.id) = some e → e.k = .fence sc every false none →
      (scopeReached s n w (if every then none else some q.1) e.id sc = true →
        ∃ t, exec (.fenceOpen n e.id) s = .next t ∧ Left t n e.id ∧ SameMemory s t) ∧
      (scopeReached s n w (if every then none else some q.1) e.id sc = false → exec (.fenceOpen n e.id) s = .next s))

end

namespace Sys2Proof
open Machine

/-! ## Engine words and circular buffers (spec/18_copy.md, spec/17_page.md R321 to R324) -/

/-- t is the state past the word with one operation more: it stands under its handle, and the registers that it will write are
pending (spec/13_ordering.md R250). -/
def Pushes (s t : State) (n : Nat) (w : Wave) (hnd : Nat) (remote : Bool) (k : OpKind) (bar : Option Nat) (rs : List RegRef) :
    Prop :=
  let q := (w.getH hnd).seq
  ∃ qs os, t = { s.issued n { w.onward s with
      seqs := qs, nextId := w.nextId + 1, pend := w.pend ++ rs.map (fun r => (r, w.nextId)) } with
      ops := os, serial := s.serial + 1 } ∧
    Appends w qs q (if remote then .remote s.serial else .op s.serial) ∧
    ∀ j, Tbl.find os j = if j = s.serial then some {
        kern := w.kern, team := w.team, vf := s.kernVf w.kern, k := k, marks := [⟨n, q, w.nextId, hnd⟩], bar := bar }
      else Tbl.find s.ops j

/-- The barrier that a word names is set up and has external arrivals (spec/12_barrier.md R246). -/
def BarrierNamed (s : State) (w : Wave) (b : Option BReg) : Prop :=
  ∀ x, b = some x → (s.barOf w x.toNat).st = true ∧ (s.barOf w x.toNat).e ≠ 0

/-- A copy address has no reserved bit (R332). -/
def LegalPlace (x : BitVec 64) : Prop := x.extractLsb' 57 6 = 0 ∧ (x.getLsbD 63 = true → x.extractLsb' 21 36 = 0)

/-- The options word of a copy is legal (R333): bit 3 is 0, and CIX names a buffer that was set up exactly with CBE. -/
def CopyOptions (s : State) (w : Wave) (o : Word) : Prop :=
  o.getLsbD 3 = false ∧ (o.getLsbD 4 = false → uv o % 8 = 0) ∧ (o.getLsbD 4 = true → (s.cbufOf w (uv o % 8)).slots ≠ 0)

/-- The addresses of a CPY slice are legal (R336). -/
def CopyAddresses (s : State) (w : Wave) (o : Word) (src dst : BitVec 64) : Prop :=
  let win := (s.hdr w.kern).window
  let len := uv o / 64
  LegalPlace src ∧ LegalPlace dst ∧ uv src % 2 ^ 57 % 4 = 0 ∧ uv dst % 2 ^ 57 % 4 = 0 ∧ len % 4 = 0 ∧
  (src.getLsbD 63 = true → uv src % 2 ^ 57 + len ≤ win) ∧
  (o.getLsbD 4 = true → uv dst % 2 ^ 57 + len ≤ (s.cbufOf w (uv o % 8)).slotb) ∧
  (o.getLsbD 4 = false → dst.getLsbD 63 = true → uv dst % 2 ^ 57 + len ≤ win)

/-- No declared extent forbids what a CPY slice does to memory (spec/17_page.md R315). -/
def CopyPermitted (s : State) (w : Wave) (o : Word) (src dst : BitVec 64) : Prop :=
  (src.getLsbD 63 = false → (s.hdr w.kern).forbids (uv src % 2 ^ 57) (uv o / 64) false = false) ∧
  (dst.getLsbD 63 = false → (s.hdr w.kern).forbids (uv dst % 2 ^ 57) (uv o / 64) true = false)

/-- t is the state past a CPY or TCPY: the wave's slice has joined the k-th copy of its team, or begun it (R335). -/
def JoinsCopy (s t : State) (n : Nat) (w : Wave) (tm : Team) (f : FxOp) (tensor dir cbe : Bool) (cix : Nat) (sl : Slice) :
    Prop :=
  let k := NMap.get 0 tm.copies w.f1
  let q := (w.getH f.hnd.toNat).seq
  let m : Mark := ⟨n, q, w.nextId, f.hnd.toNat⟩
  let mine (o : Nat × Op) : Bool := o.2.team == w.team && o.2.nth == k && o.2.k.isCopy && o.2.st == .gathering
  ∃ qs os sn, t = { (s.issued n { w.onward s with seqs := qs, nextId := w.nextId + 1 }).modTeam w.team
      (fun x => { x with copies := NMap.set 0 x.copies w.f1 (k + 1) }) with ops := os, serial := sn } ∧
    (s.ops.find? mine = none → sn = s.serial + 1 ∧ Appends w qs q (.op s.serial) ∧
      ∀ j, Tbl.find os j = if j = s.serial then some {
          kern := w.kern, team := w.team, vf := s.kernVf w.kern, k := .copy tensor dir cbe cix [sl], marks := [m]
          bar := f.bar.map (·.toNat), nth := k } else Tbl.find s.ops j) ∧
    (∀ i o a b c d xs, s.ops.find? mine = some (i, o) → s.op i = some o → o.k = .copy a b c d xs →
      sn = s.serial ∧ Appends w qs q (.op i) ∧
      ∀ j, Tbl.find os j = if j = i then some { o with marks := o.marks ++ [m], k := .copy a b c d (xs ++ [sl]) }
        else Tbl.find s.ops j)

/-- How slices are compared at ACCEPT (R335): mnemonic, barrier field, DIR, CBE and CIX. -/
def sliceMode (f : FxOp) (tensor dir cbe : Bool) (cix : Nat) : List Nat :=
  [tensor.toNat, ((f.bar.map (·.toNat)).map (· + 1)).getD 0, dir.toNat, cbe.toNat, cix]

/-- The elements of a gather or a scatter (R343): the reference in Vk, the offset in Vk+1. -/
def elements (w : Wave) (k : Nat) : List Elem :=
  (cellsOf w.active).map (fun f => ⟨f, uv (w.getV f k) / 2 ^ 26, uv (w.getV f k) % 2 ^ 26, uv (w.getV f (k + 1))⟩)

/-- The references of RESQ and PAGEREQ (spec/17_page.md R322). -/
def pageRefs (w : Wave) (k : Nat) : List Elem :=
  (cellsOf w.active).map (fun f => ⟨f, uv (w.getV f k) / 2 ^ 26, uv (w.getV f k) % 2 ^ 26, 0⟩)

/-- Every reference names a page of a declared extent with a permission (spec/17_page.md R322). -/
def Declared (h : Header) (ok : Extent → Bool) (es : List Elem) : Prop :=
  ∀ e ∈ es, ∃ x, h.exts[e.ext]? = some x ∧ e.page < x.npages ∧ ok x = true

/-- What a GATH or a SCAT needs (R343): its two registers are complete and held, k is below 63, every offset is aligned and
inside its page, and the cells' elements lie inside the window. -/
def ElementsLegal (s : State) (w : Wave) (k org sz : Nat) : Prop :=
  k < 63 ∧ (w.hold = none → ∀ p ∈ w.pend, p.1 ≠ .v k ∧ p.1 ≠ .v (k + 1)) ∧ (w.ext = true ∨ k + 1 < 32) ∧
  (∀ e ∈ elements w k, e.off % sz = 0 ∧ e.off + sz ≤ 65536) ∧ org + sz * s.lanesOf w ≤ (s.hdr w.kern).window

end Sys2Proof

section
open Sys2Proof Machine

/-- R250, R332 to R336, R339 to R343, R322, R323, R352: CPY and TCPY append the wave's slice of their team's next copy; GATH,
SCAT, RESQ and PAGEREQ append an operation of their own with one element for each active cell, and the registers that it will
write become pending. What a word of CPY gets wrong traps, in the order options, handle, barrier, addresses, extents. A TCPY waits for the older
accesses to its descriptor, in deterministic mode too by what is performed now (notes/assumptions/100.md). -/
def Obligations.EngineWordsAppendTheirOperation : Prop :=
  ∀ (s : State) (n : Nat) (w : Wave) (tm : Team) (f : FxOp), s.team w.team = some tm →
    let o := w.getS f.sparm.toNat
    let src := w.getS64 f.sbase.toNat
    let dst := w.getS64 (f.sbase.toNat + 2)
    let slot := BitVec.ofNat 32 s.chain.slot
    let cpyOpt := CopyOptions s w o ∧ o.getLsbD 5 = false ∧ (o.getLsbD 4 = true → dst.getLsbD 63 = true)
    let isOpen := (w.getH f.hnd.toNat).st ≠ .retired
    (Issues s n w (.cpy f) →
      (¬cpyOpt → exec (.cpy f) s = .next (turnAway n (.trap 14 slot) s)) ∧
      (cpyOpt → ¬isOpen → exec (.cpy f) s = .next (turnAway n (.trap 6 (BitVec.ofNat 32 f.hnd.toNat)) s)) ∧
      (cpyOpt → isOpen → ∀ b, f.bar = some b → ¬BarrierNamed s w f.bar →
        exec (.cpy f) s = .next (turnAway n (.trap 7 (BitVec.ofNat 32 b.toNat)) s)) ∧
      (cpyOpt → isOpen → BarrierNamed s w f.bar → ¬CopyAddresses s w o src dst →
        exec (.cpy f) s = .next (turnAway n (.trap 5 slot) s)) ∧
      (cpyOpt → isOpen → BarrierNamed s w f.bar → CopyAddresses s w o src dst → ¬CopyPermitted s w o src dst →
        exec (.cpy f) s = .next (turnAway n (.trap 16 slot) s)) ∧
      (cpyOpt → Takes w f.hnd.toNat → BarrierNamed s w f.bar → CopyAddresses s w o src dst → CopyPermitted s w o src dst →
        let cix := uv o % 8
        let cbe := o.getLsbD 4
        ∃ t, exec (.cpy f) s = .next t ∧ SameMemory s t ∧ JoinsCopy s t n w tm f false false cbe cix {
          wave := n, f1 := w.f1, src := ⟨src.getLsbD 63, uv src % 2 ^ 57⟩, dst := ⟨dst.getLsbD 63, uv dst % 2 ^ 57⟩
          len := uv o / 64, mode := sliceMode f false false cbe cix })) ∧
    (Issues s n w (.tcpy f) → w.hold = none →
      let off := uv (w.getS (f.sbase.toNat + 2))
      let d := readBytes 0 tm.win off 48
      let dir := o.getLsbD 5
      let cbe := o.getLsbD 4
      let cix := uv o % 8
      CopyOptions s w o → uv o / 64 = 0 → ¬(cbe = true ∧ dir = true) → Takes w f.hnd.toNat → BarrierNamed s w f.bar →
      LegalPlace src → src.getLsbD 63 = false → off % 16 = 0 → off + 48 ≤ (s.hdr w.kern).window →
      (¬(∀ id ∈ olderOn s n w [(off, 48)], performed s n w id = true) →
        exec (.tcpy f) s = .next (turnAway n (.wait (olderOn s n w [(off, 48)])) s)) ∧
      ((∀ id ∈ olderOn s n w [(off, 48)], performed s n w id = true) → descBad s w o d = false →
        (∀ p ∈ tcpyPages d (uv src % 2 ^ 57) dir, (s.hdr w.kern).forbids p.1 p.2.1 p.2.2 = false) →
        ∃ t, exec (.tcpy f) s = .next t ∧ SameMemory s t ∧ JoinsCopy s t n w tm f true dir cbe cix {
          wave := n, f1 := w.f1, src := ⟨false, 0⟩, dst := ⟨false, 0⟩, len := 0, tmem := uv src % 2 ^ 57, desc := d
          tile := w.getD (natAt d 2 1 % 8), mode := sliceMode f true dir cbe cix })) ∧
    (let k := uv (w.getS f.sbase.toNat) % 64
     let org := uv (w.getS (f.sbase.toNat + 1))
     let sz := 2 ^ (uv o / 16 % 4)
     Takes w f.hnd.toNat → BarrierNamed s w f.bar → uv o / 64 = 0 → ElementsLegal s w k org sz →
     (Issues s n w (.gath f) → (o.getLsbD 3 = false → uv o % 8 = 0) →
       (o.getLsbD 3 = true → w.hold = none → ∀ p ∈ w.pend, p.1 ≠ .p (uv o % 8)) →
       Declared (s.hdr w.kern) (·.rd) (elements w k) →
       let flag := if o.getLsbD 3 = true then some (uv o % 8) else none
       ∃ t, exec (.gath f) s = .next t ∧ Pushes s t n w f.hnd.toNat false (.gath k org sz flag (elements w k))
         (f.bar.map (·.toNat)) (flag.toList.map .p)) ∧
     (Issues s n w (.scat f) → o.getLsbD 3 = false → uv o % 8 = 0 → Declared (s.hdr w.kern) (·.wr) (elements w k) →
       ∃ t, exec (.scat f) s = .next t ∧ Pushes s t n w f.hnd.toNat false (.scat k org sz (elements w k))
         (f.bar.map (·.toNat)) [])) ∧
    (∀ (d : VReg) (h : HReg), Takes w h.toNat → Declared (s.hdr w.kern) (fun _ => true) (pageRefs w d.toNat) →
      (Issues s n w (.resq d h) →
        ∃ t, exec (.resq d h) s = .next t ∧ Pushes s t n w h.toNat false (.resq d.toNat (pageRefs w d.toNat)) none [.v d.toNat]) ∧
      (Issues s n w (.pagereq d h) →
        ∃ t, exec (.pagereq d h) s = .next t ∧ Pushes s t n w h.toNat false (.pagereq (pageRefs w d.toNat)) none []))

end

namespace Sys2Proof
open Machine

/-- In t, circular buffer c of the team is x, its stale ranges are changed by g, and the rest of the team, what the waves still
see of the other buffers too, is as before. -/
def BufferIs (t : State) (team : Nat) (tm : Team) (c : Nat) (x : CircReg) (g : List (Nat × Nat) → List (Nat × Nat)) : Prop :=
  ∃ cb fr, t.team team = some { tm with cbufs := cb, freshC := fr, stale := g tm.stale } ∧ WritesOne {} tm.cbufs cb c x ∧
    fr.filter (fun e => e.2.1 != c) = tm.freshC.filter (fun e => e.2.1 != c)

/-- The words that CPYQ reads of an operation (R348). -/
def queryWords (s : State) (det : Bool) (x : Option Op) : Nat → Word
  | 0 => match x with
    | none => 0
    | some o => if o.st = .paused then BitVec.ofNat 32 (2 + 256 * o.cause + 65536 * o.fslice) else 1
  | 1 => match x with
    | none => 0
    | some o => if det = true ∧ o.st ≠ .paused then 0 else BitVec.ofNat 32 o.seg
  | 2 => match x with
    | none => 0
    | some o => BitVec.ofNat 32 (o.segCount s)
  | _ => match x with
    | none => 0
    | some o => if o.st = .paused then BitVec.ofNat 32 o.foff else 0

end Sys2Proof

section
open Sys2Proof Machine

/-- R344 to R348: CBINIT sets a buffer that nothing uses, every slot free, and any other value is CBERR (cause 15) with the
buffer's number; in deterministic mode the wave itself sees the buffer so set, and every other wave that has not set it in the
round what it saw before. CBTAKE takes the oldest full slot and gives its address, the slot's bytes being stale no more, and
waits without one. CBFREE appends a release
behind a team fence, for a taken slot only. CPYQ reads the operation at the head of a handle; the number of segments of a CPY into a buffer
that has no slot yet is a free value (notes/assumptions/110.md). CPYQ.res resumes a paused one and CPYQ.abn removes it, with every marker. -/
def Obligations.CircularBuffersAndQueries : Prop :=
  ∀ (s : State) (n : Nat) (w : Wave) (tm : Team), s.team w.team = some tm →
    (∀ (c : CReg) (r : SReg), Issues s n w (.cbinit c r) →
      let b := s.cbufOf w c.toNat
      let base := uv (w.getS r.toNat)
      let slotb := uv (w.getS (r.toNat + 1))
      let slots := uv (w.getS (r.toNat + 2)) % 256
      let good := b.nres = 0 ∧ b.ntak = 0 ∧ b.nfil = 0 ∧
        (∀ o ∈ s.ops, o.2.team = w.team → ∀ tn dr cb ix xs, o.2.k = .copy tn dr cb ix xs →
          ∀ x ∈ xs, x.mode.drop 3 ≠ [1, c.toNat]) ∧
        base % 256 = 0 ∧ slotb ≠ 0 ∧ slotb % 256 = 0 ∧ 1 ≤ slots ∧ slots ≤ 64 ∧ base + slots * slotb ≤ (s.hdr w.kern).window
      (good → ∃ t, exec (.cbinit c r) s = .next t ∧ t.wave n = some (w.onward s) ∧ SameMemory s t ∧
        BufferIs t w.team tm c.toNat { base := base, slotb := slotb, slots := slots } id ∧
        ((s.hdr w.kern).det = true → t.cbufOf w c.toNat = { base := base, slotb := slotb, slots := slots } ∧
          ∀ y : Wave, y.team = w.team → y.idx ≠ w.idx → (∀ f ∈ tm.freshC, ¬(f.1 = y.idx ∧ f.2.1 = c.toNat)) →
            t.cbufOf y c.toNat = s.cbufOf y c.toNat)) ∧
      (¬good → exec (.cbinit c r) s = .next (turnAway n (.trap 15 (BitVec.ofNat 32 c.toNat)) s))) ∧
    (∀ (d : AReg) (c : CReg), Issues s n w (.cbtake d c) →
      let b := s.cbufOf w c.toNat
      (b.slots = 0 → exec (.cbtake d c) s = .next (turnAway n (.trap 15 (BitVec.ofNat 32 c.toNat)) s)) ∧
      (b.slots ≠ 0 → b.nfil = 0 → exec (.cbtake d c) s = .next (turnAway n (.wait []) s)) ∧
      (b.slots ≠ 0 → b.nfil ≠ 0 → ∃ t as, exec (.cbtake d c) s = .next t ∧ t.wave n = some { w.onward s with a := as } ∧
        WritesOne 0 w.a as d.toNat (BitVec.ofNat 32 (b.base + b.takp * b.slotb)) ∧ SameMemory s t ∧
        BufferIs t w.team tm c.toNat { b with takp := (b.takp + 1) % b.slots, nfil := b.nfil - 1, ntak := b.ntak + 1 }
          (fun st => st.flatMap (without (b.base + b.takp * b.slotb) b.slotb)))) ∧
    (∀ c : CReg, Issues s n w (.cbfree c) →
      let b := s.cbufOf w c.toNat
      (b.slots = 0 ∨ b.ntak ≤ releasesOut s w c.toNat →
        exec (.cbfree c) s = .next (turnAway n (.trap 15 (BitVec.ofNat 32 c.toNat)) s)) ∧
      (b.slots ≠ 0 → releasesOut s w c.toNat < b.ntak → (∀ x ∈ w.seqs, x.2.live = true → x.2.entries.length < 64) →
        ∃ qs, exec (.cbfree c) s = .next (s.issued n { w.onward s with seqs := qs, nextId := w.nextId + 1 }) ∧
          ∀ j, Tbl.find qs j = (Tbl.find w.seqs j).map (fun x =>
            if x.live = true then { x with entries := x.entries ++ [⟨w.nextId, .fence .team true false (some c.toNat), .queued⟩] }
            else x))) ∧
    (∀ (r : SReg) (h : HReg), Issues s n w (.cpyq r h) →
      ((w.getH h.toNat).st = .retired → exec (.cpyq r h) s = .next (turnAway n (.trap 6 (BitVec.ofNat 32 h.toNat)) s)) ∧
      ((w.getH h.toNat).st ≠ .retired →
        let x := (tongsAtHead s w h.toNat).map (·.2)
        let uncut := ∃ o dir c xs, x = some o ∧ o.k = .copy false dir true c xs ∧ o.slot = none
        ∃ t ss, exec (.cpyq r h) s = .next t ∧ t.wave n = some { w.onward s with s := ss } ∧ SameMemory s t ∧
          (¬uncut → t = s.issued n { w.onward s with s := ss }) ∧
          ∀ j, (¬(r.toNat ≤ j ∧ j < r.toNat + 4) → NMap.get 0 ss j = w.getS j) ∧
            (r.toNat ≤ j → j < r.toNat + 4 → ¬(uncut ∧ j = r.toNat + 2) →
              NMap.get 0 ss j = queryWords s (s.hdr w.kern).det x (j - r.toNat)))) ∧
    (∀ h : HReg, (w.getH h.toNat).st ≠ .retired →
      (Issues s n w (.cpyqRes h) →
        ((∀ i o, tongsAtHead s w h.toNat = some (i, o) → o.st ≠ .paused) →
          exec (.cpyqRes h) s = .next (turnAway n (.trap 14 (BitVec.ofNat 32 s.chain.slot)) s)) ∧
        (∀ i o, tongsAtHead s w h.toNat = some (i, o) → o.st = .paused →
          ∃ t, exec (.cpyqRes h) s = .next t ∧ t.op i = some { o with st := .queued, cause := 0 } ∧
            t.teams = s.teams ∧ t.mem = s.mem ∧ (∀ j, j ≠ i → t.op j = s.op j))) ∧
      (Issues s n w (.cpyqAbn h) →
        ((∀ i o, tongsAtHead s w h.toNat = some (i, o) → o.st ≠ .paused) →
          exec (.cpyqAbn h) s = .next (turnAway n (.trap 14 (BitVec.ofNat 32 s.chain.slot)) s)) ∧
        (∀ i o, tongsAtHead s w h.toNat = some (i, o) → o.st = .paused →
          ∃ t, exec (.cpyqAbn h) s = .next t ∧ t.op i = none ∧ (∀ m ∈ o.marks, Left t m.wave m.id) ∧ t.mem = s.mem ∧
            ∀ j, j ≠ i → t.op j = s.op j)))

end

namespace Sys2Proof
open Machine

/-- No Swage plan runs or is paused: a write changes no other byte (spec/28_swage.md R467). -/
def NoPlanRuns (s : State) : Prop := ∀ p ∈ s.plans, p.2.st ≠ 2 ∧ p.2.st ≠ 3

/-- Byte a after the bytes of ys, by their addresses, have been written over what it was. -/
def overAt (ys : List (Nat × Byte)) (a : Nat) (old : Byte) : Byte := ((ys.find? (fun y => y.1 == a)).map (·.2)).getD old

end Sys2Proof

section
open Sys2Proof Machine

/-- R251, R254 to R256, R264, R267, R319, R335 to R338, R343, R345, R348 to R350: ACCEPT queues an operation whose slices may all be
handed off, and gives CPYERR to every live wave of a team whose slices disagree. RESERVE takes the next slot of a buffer. A SEGMENT
that starts reads its source and spends tokens; then each aligned word of what it writes is written in a step of its own, those of a scatter
element by element in ascending F0. An element of a gather reads memory when its page is RESIDENT, and is 0 with its flag set when the page is
ABSENT or FETCHING, whatever the page permits (notes/assumptions/43.md). COMPLETE removes the operation and its entries, while its context is
halted too (R267), and arrives at its barrier, in deterministic mode under the index of its source (notes/assumptions/96.md). A segment that
meets a fault writes nothing and pauses the operation. -/
def Obligations.EngineOperationsRunInSegments : Prop :=
  ∀ (s : State) (i : Nat) (o : Op) (tm : Team), s.op i = some o → s.team o.team = some tm →
    (∀ n id w q e, s.wave n = some w → w.placeOf id = some (q, e) → e.k = .op i → buffersRun s w = true →
      (s.hdr w.kern).det = false → o.st = .gathering →
      (∀ t d c x sl, o.k = .copy t d c x sl → copyReady s o = true →
        (slicesAgree sl = true → ∃ t, exec (.accept n id) s = .next t ∧ t.mem = s.mem ∧ t.teams = s.teams ∧
          t.op i = some { o with st := .queued, acc := s.serial + 1, gen := ((s.ctx o.vf).map (·.extgen)).getD 0 }) ∧
        (slicesAgree sl = false → (∃ p ∈ s.waves, p.2.team = o.team ∧ p.2.live ≠ 0) →
          ∃ t, exec (.accept n id) s = .next t ∧ t.op i = none ∧ t.mem = s.mem ∧
          (∀ m ∈ o.marks, Left t m.wave m.id) ∧
          ∀ m x y, s.wave m = some x → x.team = o.team → x.live ≠ 0 → t.wave m = some y →
            ((s.waves.filter (fun p => p.1 == m)).length = 1 → y.pending = x.pending ++
              [⟨14, BitVec.ofNat 32 (16 + ((o.marks.find? (fun z => z.wave == m)).map (·.hnd)).getD 0)⟩]))) ∧
      ((∃ k b z g es, o.k = .gath k b z g es) ∨ (∃ k b z es, o.k = .scat k b z es) ∨ (∃ d es, o.k = .resq d es) ∨
          (∃ es, o.k = .pagereq es) →
        (s.hdr o.kern).det = false → (∀ m ∈ o.marks, sliceReady s m o = true) → ∃ t, exec (.accept n id) s = .next t ∧ t.mem = s.mem ∧ t.teams = s.teams ∧
          t.op i = some { o with st := .queued, acc := s.serial + 1, gen := ((s.ctx o.vf).map (·.extgen)).getD 0 })) ∧
    (∀ t d c xs, o.k = .copy t d true c xs → o.st = .queued → o.slot = none → s.engineRuns o.vf = true →
      (∀ x ∈ s.ops, x.1 ≠ i → x.2.team = o.team → o.acc < x.2.acc) → (tm.cbuf c).nres + (tm.cbuf c).ntak + (tm.cbuf c).nfil < (tm.cbuf c).slots →
      ∃ t, exec (.reserve i) s = .next t ∧ t.op i = some { o with slot := some (tm.cbuf c).filp } ∧ SameMemory s t ∧
        BufferIs t o.team tm c { tm.cbuf c with
          nres := (tm.cbuf c).nres + 1, filp := ((tm.cbuf c).filp + 1) % (tm.cbuf c).slots } id) ∧
    (∀ g src dst len, (o.st = .queued ∨ o.st = .running) → s.engineRuns o.vf = true → o.words = [] →
      (∃ t d c x sl, o.k = .copy t d c x sl) → ((s.ctx o.vf).map Ctx.affords) = some true →
      (o.segs s)[o.seg]? = some g → g.moved = .bytes src dst len → s.meetAll o.vf g.need = .ok →
      let bs := if src.win then readBytes 0 tm.win src.addr len else (s.vread o.vf src.addr len).getD []
      let ys := bs.zipIdx.map (fun y => (dst.addr + y.2, y.1))
      let ws := byWord (if dst.win then ys else s.located o.vf ys)
      ∃ t, exec (.segment i) s = .next t ∧ SameMemory s t ∧
        t.ctx o.vf = (s.ctx o.vf).map (fun c => c.spend ((g.writes + 1023) / 1024)) ∧
        t.op i = some (if ws = [] then { o with
            st := .running, words := [], wwin := dst.win, gen := ((s.ctx o.vf).map (·.extgen)).getD 0, seg := o.seg + 1 }
          else { o with st := .running, words := ws, wwin := dst.win, gen := ((s.ctx o.vf).map (·.extgen)).getD 0 })) ∧
    (∀ g k base size es org sz xs, (o.st = .queued ∨ o.st = .running) → s.engineRuns o.vf = true → o.words = [] →
      o.k = .scat k base size es → ((s.ctx o.vf).map Ctx.affords) = some true → (o.segs s)[o.seg]? = some g →
      g.moved = .elems org sz xs → (xs.map (·.1)).Pairwise (· < ·) → s.meetAll o.vf g.need = .ok →
      let bytes := fun (e : Nat × Nat) => (readBytes 0 tm.win (org + sz * e.1) sz).zipIdx.map (fun y => (e.2 + y.2, y.1))
      let ws := xs.flatMap (fun e => byWord (s.located o.vf (bytes e)))
      ws ≠ [] → ∃ t, exec (.segment i) s = .next t ∧ SameMemory s t ∧ t.op i = some { o with
        st := .running, words := ws, wwin := false, gen := ((s.ctx o.vf).map (·.extgen)).getD 0 }) ∧
    (∀ x ws, o.words = x :: ws → (o.st = .queued ∨ o.st = .running) → s.handedRuns o.vf = true →
      (o.k.isTongs = true) → NoneStarted s → NoPlanRuns s → (x.map (·.1)).Nodup →
      ∃ t, exec (.segment i) s = .next t ∧
        t.op i = some (if ws = [] then { o with
            seg := o.seg + 1, words := [], st := if s.engineRuns o.vf = true then .running else .queued }
          else { o with words := ws }) ∧
        (o.wwin = true → (∀ a, byteAt t a = byteAt s a) ∧
          ∀ k a, windowByte t k a = if k = o.team then overAt x a (windowByte s k a) else windowByte s k a) ∧
        (o.wwin = false → (∀ a, byteAt t a = overAt x a (byteAt s a)) ∧ ∀ k a, windowByte t k a = windowByte s k a)) ∧
    (∀ k org sz fl es e m w, o.k = .gath k org sz fl es → (o.st = .queued ∨ o.st = .running) → o.words = [] → o.seg = 0 →
      s.handedRuns o.vf = true →
      ((o.nth ≠ 0 ∧ o.st = .running) ∨ (s.engineRuns o.vf = true ∧ ((s.ctx o.vf).map Ctx.affords) = some true)) →
      es[o.nth]? = some e → NoneStarted s → o.marks = [m] → s.wave m.wave = some w →
      let va := (s.hdr o.kern).elemAddr e
      let there := (s.pageOf o.vf (va / 65536)).st = .resident
      (s.pageOf o.vf (va / 65536)).st ≠ .migrating →
      ∃ t y, exec (.segment i) s = .next t ∧ t.wave m.wave = some y ∧ t.mem = s.mem ∧
        t.op i = some { o with
          st := if es.length ≤ o.nth + 1 ∧ s.engineRuns o.vf = false then .queued else .running
          nth := o.nth + 1, seg := if es.length ≤ o.nth + 1 then 1 else 0 } ∧
        (∀ p, fl = some p → p < 7 → (y.getP e.f p = true ↔ ¬there)) ∧
        (∀ bs : List Byte, (there → bs = (s.vread o.vf va sz).getD []) → (¬there → bs = List.replicate sz 0) →
         bs.length = sz → ∀ j a, windowByte t j a =
          if j = o.team ∧ org + sz * e.f ≤ a ∧ a < org + sz * e.f + sz then bs.getD (a - (org + sz * e.f)) 0
          else windowByte s j a)) ∧
    (o.k.isTongs = true → (o.st = .queued ∨ o.st = .running) → o.words = [] → o.slot = none →
      (∀ t d x sl, o.k ≠ .copy t d true x sl) →
      o.seg = o.segCount s → s.handedRuns o.vf = true → (∀ m ∈ o.marks, ∀ w, s.wave m.wave = some w → w.st ≠ .draining) →
      ∃ t, exec (.complete i) s = .next t ∧ t.op i = none ∧ t.mem = s.mem ∧
        (∀ m ∈ o.marks, Left t m.wave m.id ∧ ∀ y, t.wave m.wave = some y → ∀ p ∈ y.pend, p.2 ≠ m.id) ∧
        (o.bar = none → t.teams = s.teams) ∧
        (∀ b, o.bar = some b → (s.hdr tm.kern).det = false → tm.st ≠ .ended → (tm.bar b).xa < 65535 →
          (t.team o.team).map (·.bar b) = some { tm.bar b with xa := (tm.bar b).xa + 1 }.eval) ∧
        (∀ b, o.bar = some b → (s.hdr tm.kern).det = true →
          t.team o.team = some { tm with arrived := tm.arrived ++ [(o.source s, b)] })) ∧
    (∀ g p wr, (o.st = .queued ∨ o.st = .running) → o.words = [] → s.engineRuns o.vf = true → o.k.isTongs = true →
      (o.segs s)[o.seg]? = some g → s.meetAll o.vf g.need = .fault p →
      (g.need.find? (fun x => s.meet o.vf x.1 x.2.1 x.2.2 == .fault p)).map (fun x => x.2.2) = some wr →
      s.hasRoom o.vf p (accOf wr) = true → o.marks ≠ [] → (o.marks.map (·.wave)).Nodup →
      (∀ m ∈ o.marks, ∃ w, s.wave m.wave = some w ∧ w.live ≠ 0) →
      ∃ t, exec (.fault i) s = .next t ∧ SameMemory s t ∧
        t.op i = some { o with st := .paused, cause := 17, fslice := g.f1, foff := g.off } ∧
        ∀ m ∈ o.marks, ∀ w y, s.wave m.wave = some w → t.wave m.wave = some y →
          y.pending = w.pending ++ [⟨17, BitVec.ofNat 32 (16 + m.hnd)⟩])

end

namespace Sys2Proof
open Machine

/-! ## Queues and kernels (spec/15_queue.md, spec/16_kernel.md) -/

/-- The status that a write of a queue gives (R287, R309): 2 UNBOUND, 3 BADPKT, 1 FULL, 0 OK. -/
def writeStatus (s : State) (vf q : Nat) (pkt : List Byte) : Nat :=
  let d := s.queue q
  if ¬((d.st = .opened ∨ d.st = .stopped) ∧ d.vf = vf) then 2
  else if packetOk pkt = false ∨ (s.hearth.stage = .reduced ∧ (readPacket pkt).width 5 ≠ 0) then 3
  else if 2 ^ d.logcap ≤ uv (d.tail - d.head) then 1
  else 0

/-- In t one entry more stands at the tail of queue q: a QUEUED kernel under the context's next KID (R288, R302, R309). -/
def QueueWritten (s t : State) (vf q : Nat) (parent : Word) (pkt : List Byte) : Prop :=
  ∀ c, s.ctx vf = some c →
    t.queue q = { s.queue q with tail := (s.queue q).tail + 1, ents := (s.queue q).ents ++ [s.serial] } ∧
    t.kern s.serial = some { vf := vf, q := q, hdr := readPacket pkt, kid := c.nextKid, parent := parent } ∧
    (t.ctx vf).map (·.nextKid) = some (if c.nextKid + 1 = 0 then 1 else c.nextKid + 1) ∧
    t.mem = (s.vwrite vf ((s.queue q).base + uv (s.queue q).tail % 2 ^ (s.queue q).logcap * 2048)
      (pkt.take 0x180 ++ bytesOf 4 (uv parent) ++ bytesOf 4 (uv c.nextKid) ++ pkt.drop 0x188)).mem

/-- Every earlier command of a mailbox is answered (spec/30_bringup.md R491, notes/assumptions/55.md): no MEMWRITE or BIND of it waits for a
page, and of the device's mailbox no ATTEST is being signed and no block is on its way. -/
def MailFree (s : State) (box : Nat) : Prop :=
  (∀ p ∈ s.pendWrites, p.box ≠ box) ∧ (∀ p ∈ s.pendBinds, p.box ≠ box) ∧
  (box = 16 → s.hearth.attest = none ∧ ∀ b ∈ s.blocks, b.2.st = .owned)

/-- Mailbox `box` may command virtual function vf now (spec/30_bringup.md R487, R491): a stage with service, its own virtual
function, and no command of the mailbox before it that is not answered. -/
def Commands (s : State) (box vf : Nat) : Prop :=
  (s.hearth.stage = .reduced ∨ s.hearth.stage = .full) ∧ box = vf ∧ vf < 16 ∧ MailFree s box

/-- The state with a reply. -/
def replied (s : State) (box : Nat) (st : Status) (data : List Byte) : State :=
  { s with replies := s.replies ++ [⟨box, st, data⟩] }

end Sys2Proof

section
open Sys2Proof Machine

/-- R287, R288, R292 to R295, R309 to R311: LAUNCH writes the packet at its window offset into its queue and gives its status;
with no entry free it waits, keeping the packet that it has read (notes/assumptions/33.md), and LAUNCH.try gives 1 (FULL). In deterministic
mode it is staged, and waits in place for accesses that are neither performed nor staged (notes/assumptions/100.md). In handler mode it is
PRIVOP, and a bad offset is ADDRERR. QROOM reads the free entries and the descriptor of a queue of the wave's context, and 0 of
another. ROOTLAUNCH writes a packet for the host; a queue number above 127 is answered QUNBOUND (notes/assumptions/120.md). -/
def Obligations.LaunchesWriteTheirQueue : Prop :=
  ∀ (s : State),
    (∀ (n : Nat) (w : Wave) (tm : Team) (tr : Bool) (r : SReg), Issues s n w (.launch tr r) → s.team w.team = some tm →
      let q := uv (w.getS r.toNat) % 128
      let off := uv (w.getS (r.toNat + 1))
      let ids := olderOn s n w [(off, 2048)]
      let pkt := readBytes 0 tm.win off 2048
      let st := writeStatus s (s.kernVf w.kern) q pkt
      let legal := off % 256 = 0 ∧ off + 2048 ≤ (s.hdr w.kern).window
      let det := (s.hdr w.kern).det
      (w.hmode = true → exec (.launch tr r) s = .next (turnAway n (.trap 11 0) s)) ∧
      (w.hmode = false → w.hold = none → ¬legal →
        exec (.launch tr r) s = .next (turnAway n (.trap 5 (BitVec.ofNat 32 s.chain.slot)) s)) ∧
      (w.hmode = false → w.hold = none → legal → det = false → ¬(∀ id ∈ ids, performed s n w id = true) →
        exec (.launch tr r) s = .next (turnAway n (.wait (q :: off :: ids)) s)) ∧
      (w.hmode = false → w.hold = none → legal → det = false → (∀ id ∈ ids, performed s n w id = true) →
        (st = 1 → tr = false → ∃ t y, exec (.launch tr r) s = .next t ∧ t.wave n = some y ∧ y.st = .waiting ∧ y.pc = w.pc ∧
          y.hold = some ⟨s.chain.ix, q :: off :: ids, pkt, none⟩ ∧ t.queues = s.queues ∧ t.mem = s.mem) ∧
        ((st ≠ 1 ∨ tr = true) → ∃ t ss, exec (.launch tr r) s = .next t ∧ t.wave n = some { w.onward s with s := ss } ∧
          WritesOne 0 w.s ss r.toNat (BitVec.ofNat 32 st) ∧
          (st = 0 → QueueWritten s t (s.kernVf w.kern) q (((s.kern w.kern).map (·.kid)).getD 0) pkt) ∧
          (st ≠ 0 → t.queues = s.queues ∧ t.kernels = s.kernels ∧ t.mem = s.mem))) ∧
      (w.hmode = false → w.hold = none → legal → det = true → (∀ id ∈ ids, performed s n w id = true ∨
          ∃ x ∈ s.stagedOf n w, x.id = id ∧ ∃ a, x.k = .access a) →
        ∃ t, exec (.launch tr r) s = .next t ∧ SameMemory s t ∧ t.queues = s.queues ∧
          t.wave n = some { w.onward s with pend := w.pend ++ [(.s r.toNat, w.nextId)], nextId := w.nextId + 1 } ∧
          ∃ b, b.length = 2048 ∧ t.team w.team = some { tm with
            stage := tm.stage ++ [⟨n, 32, w.nextId, .launch q tr r.toNat b⟩] })) ∧
    (∀ (n : Nat) (w : Wave) (r : SReg), Issues s n w (.qroom r) →
      let q := uv (w.getS r.toNat) % 128
      let d := s.queue q
      let mine := (d.st = .opened ∨ d.st = .stopped) ∧ d.vf = s.kernVf w.kern
      let used := if (s.hdr w.kern).det then ((s.kern w.kern).map (fun k => NMap.get 0 k.own q)).getD 0 else uv (d.tail - d.head)
      ∃ ss, exec (.qroom r) s = .next (s.issued n { w.onward s with s := ss }) ∧ ∀ j, NMap.get 0 ss j =
        if j = r.toNat then (if mine then BitVec.ofNat 32 (2 ^ d.logcap - used) else 0)
        else if j = r.toNat + 1 then (if mine then
          BitVec.ofNat 32 (d.prio + 64 * d.vf + 1024 * d.logcap + 16384 * (if d.st = .opened then 1 else 2)) else 0)
        else w.getS j) ∧
    (∀ box vf q pkt, Commands s box vf →
      (128 ≤ q ∨ writeStatus s vf q pkt = 2 → exec (.rootlaunch box vf q pkt) s = .next (replied s box .qunbound [])) ∧
      (q < 128 → writeStatus s vf q pkt = 3 → exec (.rootlaunch box vf q pkt) s = .next (replied s box .badpkt [])) ∧
      (q < 128 → writeStatus s vf q pkt = 1 → exec (.rootlaunch box vf q pkt) s = .next (replied s box .qfull [])) ∧
      (q < 128 → writeStatus s vf q pkt = 0 → ∃ t, exec (.rootlaunch box vf q pkt) s = .next t ∧
        QueueWritten s t vf q 0 pkt ∧ t.replies = s.replies ++ [⟨box, .ok, []⟩]))

/-- R284 to R286, R303: BIND opens an UNBOUND queue, OPEN also where its context is parked (notes/assumptions/35.md), with its ring and pins the
ring's pages, and waits for those that are being serviced (notes/assumptions/55.md); UNBIND closes it, and it is
UNBOUND with its ring zeroed once it is empty; DISCARD ends the head of a closing queue FAILED with reason 1, and of another queue changes
nothing (notes/assumptions/1.md). -/
def Obligations.QueuesAreBoundClosedAndEmptied : Prop :=
  ∀ (s : State),
    (∀ box vf q base logcap prio c, Commands s box vf → s.ctx vf = some c →
      let n := 2048 * 2 ^ logcap
      let legal := 4 ≤ logcap ∧ logcap ≤ 12 ∧ base % 65536 = 0 ∧ base + n ≤ 2 ^ 57 ∧ prio ≤ 63
      (q < 128 → (s.queue q).st ≠ .unbound → exec (.bind box vf q base logcap prio) s = .next (replied s box .qbusy [])) ∧
      (q < 128 → (s.queue q).st = .unbound → ¬legal →
        exec (.bind box vf q base logcap prio) s = .next (replied s box .qbadarg [])) ∧
      (q < 128 → (s.queue q).st = .unbound → legal →
        (∀ g ∈ pagesOf base n, (c.page g).usable = true ∧ ∃ f, c.stages g 2 = .ok f) →
        ∃ t, exec (.bind box vf q base logcap prio) s = .next t ∧ t.mem = s.mem ∧ t.pendBinds = s.pendBinds ∧
          t.queue q = { base := base, st := .opened, logcap := logcap, vf := vf, prio := prio } ∧
          (∀ j, j ≠ q → t.queue j = s.queue j) ∧ t.replies = s.replies ++ [⟨box, .ok, []⟩] ∧
          ∀ g, ((t.ctx vf).map (fun x => (x.page g).pins)) =
            some ((c.page g).pins + if g ∈ pagesOf base n then 1 else 0)) ∧
      (q < 128 → (s.queue q).st = .unbound → legal → ∀ g ∈ pagesOf base n, (c.page g).st = .fetching →
        ∃ t l, exec (.bind box vf q base logcap prio) s = .next t ∧ t.mem = s.mem ∧ t.queues = s.queues ∧ t.replies = s.replies ∧
          t.pendBinds = s.pendBinds ++ [⟨box, vf, q, base, logcap, prio, l⟩])) ∧
    (∀ box vf q, Commands s box vf →
      ((s.queue q).st = .unbound → exec (.unbind box vf q) s = .next (replied s box .qunbound [])) ∧
      ((s.queue q).st ≠ .unbound → (s.queue q).vf ≠ vf → exec (.unbind box vf q) s = .next (replied s box .notown [])) ∧
      ((s.queue q).st ≠ .unbound → (s.queue q).vf = vf →
        ∃ t, exec (.unbind box vf q) s = .next t ∧ t.replies = s.replies ++ [⟨box, .ok, []⟩] ∧
          t.queue q = { s.queue q with st := if (s.queue q).ents = [] then .unbound else .closing } ∧
          t.mem = (if (s.queue q).ents = [] then
            s.vwrite vf (s.queue q).base (List.replicate (2048 * 2 ^ (s.queue q).logcap) 0) else s).mem)) ∧
    (∀ q k ks kn, (s.queue q).st = .closing → (s.queue q).ents = k :: ks → s.kern k = some kn →
      ∃ t, exec (.discard q) s = .next t ∧ (t.queue q).ents = ks ∧ (t.queue q).head = (s.queue q).head + 1 ∧
        (t.queue q).st = (if ks = [] then .unbound else .closing) ∧
        (t.kern k).map (fun x => (x.st, x.reason, x.pins)) = some (.failed, 1, []) ∧
        ∀ x ∈ t.waves, x.2.kern ≠ k) ∧
    (∀ q, (s.queue q).st ≠ .closing ∨ (s.queue q).ents = [] → exec (.discard q) s = .next s)

/-- R289 to R291, R300 to R307, R313, R320: COUNTER_POLL reads the counters of a head. SELECT ends a head whose parent failed,
and else starts the eligible head of the highest priority, in turn after the queue last served; the kernel keeps the priority that its queue
has then. TRANSLATED fails a kernel with reason 3, 4 or 5, or makes its teams. Kernels of the context that runs which are not placed yet, and
halo store that others hold, keep it back (notes/assumptions/36.md), as do save areas without room for what it would evict
(notes/assumptions/57.md); PARKED contexts' halo values go to those areas first. The dies of its die groups are the model's choice
(notes/assumptions/89.md). KERNEL_DONE adds 1 to SIGNAL, writes the report, and frees what the kernel held. Where nothing is to be done nothing
changes (notes/assumptions/1.md). -/
def Obligations.KernelsAreSelectedStartedAndEnded : Prop :=
  ∀ (s : State),
    (∀ q k ks kn, (s.queue q).ents = k :: ks → s.kern k = some kn →
      ∃ m, exec (.counterPoll q) s = .next (s.modKern k (fun x => { x with met := m })) ∧
        (m = true ↔ ∀ x ∈ kn.hdr.waits, x.1 = 0 ∨ ∃ bs, s.vread kn.vf x.1 8 = some bs ∧ x.2 ≤ natOf bs)) ∧
    (∀ i x, (openHeads s (s.partAt i)).find? (fun x => orphaned s x.2.2.2) = some x →
      ∃ t, exec (.select i) s = .next t ∧ (t.kern x.2.2.1).map (fun y => (y.st, y.reason)) =
        (s.kern x.2.2.1).map (fun _ => (.failed, 2)) ∧ (t.queue x.1).head = (s.queue x.1).head + 1) ∧
    (∀ i q d k kn, (openHeads s (s.partAt i)).find? (fun x => orphaned s x.2.2.2) = none → nextQueue s i = some (q, d, k, kn) →
      (exec (.select i) s = .next { (s.modQueue q (fun x => { x with head := x.head + 1, ents := x.ents.drop 1 })).modKern k
          (fun x => { x with st := .translating, sel := s.serial, prio := d.prio }) with
        served := NMap.set 127 s.served (64 * i + d.prio) q, serial := s.serial + 1 }) ∧
      (q, d, k, kn) ∈ openHeads s (s.partAt i) ∧ eligible s kn = true ∧
      (∀ x ∈ openHeads s (s.partAt i), eligible s x.2.2.2 = true → x.2.1.prio ≤ d.prio ∧
        (x.2.1.prio = d.prio → (q + 127 - NMap.get 127 s.served (64 * i + d.prio)) % 128 ≤
          (x.1 + 127 - NMap.get 127 s.served (64 * i + d.prio)) % 128)) ∧
      ∀ p ∈ s.kernels, (p.2.st = .translating ∨ p.2.st = .dispatching) →
        (∃ c, s.ctx p.2.vf = some c ∧ c.part = s.partAt i ∧ (c.st = .running ∨ c.st = .yielding)) → p.2.prio < d.prio) ∧
    (∀ i, (openHeads s (s.partAt i)).find? (fun x => orphaned s x.2.2.2) = none → nextQueue s i = none →
      exec (.select i) s = .next s) ∧
    (∀ k kn c choice, s.kern k = some kn → s.ctx kn.vf = some c → kn.st = .translating → (c.st = .running ∨ c.st = .yielding) →
      (∀ p ∈ kernelPages kn.hdr, p ∈ kn.pins ∧ (c.page p).st ≠ .fetching) →
      let e : Instr := .translated ⟨k, choice⟩
      let lost := (kernelPages kn.hdr).filter (fun g => (c.page g).st == .absent && !(c.page g).noback)
      let r := rangesOk s c kn = true ∧ (runsOf c kn.hdr).length ≤ 4096
      let kd := { kn with dies := chooseDies kn.hdr c.part choice }
      let ended := fun (t : State) (x : Nat) => (t.kern k).map (fun y => (y.st, y.reason)) = some (.failed, x)
      (∀ g gs, lost = g :: gs → s.hasRoom kn.vf g (pageAcc kn.hdr g) = true →
        ∃ t, exec e s = .next t ∧ t.kern k = some kn ∧ (t.ctx kn.vf).map (fun x => (x.page g).st) = some .fetching) ∧
      (lost = [] → ¬r → ∃ t, exec e s = .next t ∧ ended t 3) ∧
      (lost = [] → r → noFit kn.hdr = true → ∃ t, exec e s = .next t ∧ ended t 4) ∧
      (lost = [] → r → noFit kn.hdr = false → haloFull s kd = true → ∃ t, exec e s = .next t ∧ ended t 5) ∧
      (lost = [] → r → noFit kn.hdr = false → haloFull s kd = false →
        (mustWait s k kn = true ∨ haloWaits s k kd = true ∨ s.mayEvict kn.vf (haloClaims s k kd) = false) → exec e s = .next s) ∧
      (mustWait s k kn = true ↔ ∃ x ∈ s.kernels, x.1 ≠ k ∧ (x.2.st = .translating ∨ x.2.st = .dispatching) ∧
        (∃ y, s.ctx x.2.vf = some y ∧ y.part = c.part ∧ (y.st = .running ∨ y.st = .yielding)) ∧
        (kn.prio < x.2.prio ∨ (kn.prio = x.2.prio ∧ x.2.sel < kn.sel))) ∧
      (lost = [] → r → noFit kn.hdr = false → haloFull s kd = false → mustWait s k kn = false → haloWaits s k kd = false →
        s.mayEvict kn.vf (haloClaims s k kd) = true →
        (∀ x ∈ s.teams, x.1 < s.serial) → (∀ x ∈ s.waves, x.1 < s.serial) →
        ∃ t, exec e s = .next t ∧
          (∀ a, (∀ x ∈ t.ctxs, a / 65536 ∉ x.2.area) → byteAt t a = byteAt s a) ∧
          ((∀ x ∈ haloClaims s k kd, victims s kn.vf x.1 x.2 = []) → t.mem = s.mem) ∧
          (t.kern k).map (fun y => (y.st, y.runs, y.dies)) = some
            (if localTeams s.dev kn.hdr = [] then .running else .dispatching, runsOf c kn.hdr, kd.dies) ∧
          ∀ j ∈ localTeams s.dev kn.hdr, (∃ x ∈ t.teams, x.2.kern = k ∧ x.2.idx = j ∧ x.2.st = .pending ∧
            x.2.bar 0 = { st := true, mm := BitVec.ofNat 16 (2 ^ kn.hdr.waves - 1) } ∧ x.2.free = max 1 (kn.hdr.waves / 2)) ∧
            ∀ f1, f1 < kn.hdr.waves → ∃ y ∈ t.waves, y.2.kern = k ∧ y.2.idx = j * kn.hdr.waves + f1 ∧ y.2.f1 = f1 ∧
              y.2.pc = kn.hdr.entry ∧ y.2.active = y.2.live ∧ (∀ f, f < 512 → y.2.live.getLsbD f = decide (f < kn.hdr.cells)) ∧
              y.2.hmode = false ∧ y.2.ms = [] ∧ y.2.cs = [] ∧ y.2.step = 0 ∧
              (y.2.getH 0).st = .opened)) ∧
    (∀ k kn, s.kern k = some kn → kn.st = .running → kernelOver (endTeams k s) k = true → (∀ p ∈ s.plans, p.2.kern ≠ k) →
      NoPlanRuns s → (∀ a ∈ [kn.hdr.signal, kn.hdr.report], a ≠ 0 → s.guarded kn.vf a 8 = false) →
      ∃ t, exec (.kernelDone k) s = .next t ∧
        (t.kern k).map (fun x => (x.st, x.pins, x.runs, x.halo)) = some (.done, [], [], []) ∧
        (∀ x ∈ t.waves, x.2.kern ≠ k) ∧ (∀ x ∈ t.teams, x.2.kern ≠ k) ∧ (∀ x ∈ t.ops, x.2.kern ≠ k) ∧
        ∀ bs, (kn.hdr.signal ≠ 0 → s.vread kn.vf kn.hdr.signal 8 = some bs) →
          let s1 := if kn.hdr.signal = 0 then s else s.vwrite kn.vf kn.hdr.signal (bytesOf 8 ((natOf bs + 1) % 2 ^ 64))
          t.mem = (if kn.hdr.report = 0 then s1 else s1.vwrite kn.vf kn.hdr.report (bytesOf 8 (uv kn.kid * 2 ^ 32 + 1))).mem) ∧
    (∀ k kn, s.kern k = some kn → (kn.st ≠ .running ∨ kernelOver (endTeams k s) k = false) → exec (.kernelDone k) s = .next s)

end

namespace Sys2Proof
open Machine

/-! ## Pages (spec/03_formats.md R73, spec/17_page.md) -/

/-- The reply of a page service: in hypervised configuration the servicer has one (R317, R318). -/
def served (s : State) (vf : Nat) (c : Ctx) (st : Status) : List Reply :=
  if s.hearth.managed.getLsbD c.slice0 = true then s.replies else s.replies ++ [⟨vf, st, []⟩]

/-- No management command waits for a page. -/
def NothingWaits (s : State) : Prop := s.pendWrites = [] ∧ s.pendBinds = []

/-- The records of a page are gone (R318). -/
def Serviced (t : State) (vf p : Nat) : Prop :=
  (∀ r ∈ t.svc, ¬(r.1 = vf ∧ r.2.va = 65536 * p)) ∧ ∀ c, t.ctx vf = some c → ∀ r ∈ c.faultq, r.va ≠ 65536 * p

/-- No kernel of vf that executes needs more than 4096 runs under the tables of c (R313). -/
def RunsFit (s : State) (vf : Nat) (c : Ctx) : Prop :=
  ∀ k ∈ s.kernels, k.2.vf = vf → k.2.st = .dispatching ∨ k.2.st = .running → (runsOf c k.2.hdr).length ≤ 4096

/-- A large page stands at a multiple of 32 pages, and none of its other pages has an entry of its own (R18, R312). -/
def LargeTidy (t : Tbl TableEnt) : Prop :=
  ∀ n e, Tbl.find t n = some e → e.large = true → n % 32 = 0 ∧ ∀ i, 0 < i → i < 32 → Tbl.find t (n + i) = none

/-- The servicer may write these entries: the page lies in the address space of 57 bits, the frames stand in the partition's pool and no
other context has them, and no usable page loses its frame or a permission, which needs a shoot-down (R18, R312, R327, R400, R401). -/
def MayFill (s : State) (vf : Nat) (c : Ctx) (p : Nat) (e1 e2 : Option TableEnt) : Prop :=
  p < 2 ^ 41 ∧ c.st ≠ .free ∧ s.mayMap vf c e2 = true ∧ c.keeps (c.write p e1 e2) = true

/-- Every window is as before, and so is HBM, but that the frames which no entry of the context names any more read 0 (R401). -/
def FreesFrames (s t : State) (c c' : Ctx) : Prop :=
  (∀ k a, windowByte t k a = windowByte s k a) ∧
  ∀ a, byteAt t a = if a / 65536 ∈ c.frames ∧ a / 65536 ∉ c'.frames then 0 else byteAt s a

/-- A range of bytes reaches into page p. -/
def ReachesPage (p va n : Nat) : Prop := va / 65536 ≤ p ∧ 65536 * p < va + n

/-- No request of vf that is in flight has a byte to write in one of the frames, or moves bytes of page p for Swage. -/
def FreeOf (s : State) (vf p : Nat) (fs : List Nat) : Prop :=
  ∀ o ∈ s.ops, o.2.vf = vf → (o.2.wwin = false → ∀ w ∈ o.2.words, ∀ x ∈ w, x.1 / 65536 ∉ fs) ∧
    ∀ r, o.2.k = .swage r → ∀ q, Tbl.find s.plans r.plan = some q → ∀ x ∈ r.inflight,
      let g := q.ownSeg x.1
      ¬ReachesPage p g.1.src g.1.len ∧ (g.2 = s.dev → ¬ReachesPage p g.1.dst g.1.len)

/-- The frames that the tables lose as a servicer acts on page p. -/
def lostFrames (c : Ctx) (p : Nat) (a : PageAct) : List Nat := c.frames.filter (fun f => !(c.act p a).frames.contains f)

/-- The shoot-down of page p of vf has run and no request that translated before it is in flight (R327). -/
def ShotDown (s : State) (vf p : Nat) (c : Ctx) : Prop :=
  ∃ x, c.shootdown.find? (fun x => x.1 == p) = some x ∧ s.oldInFlight vf x.2 = false

end Sys2Proof

section
open Sys2Proof Machine

/-- R49, R73, R316, R318, R324, R327 to R329, R400 and R401: MEMWRITE writes bytes whose pages may be written, waits for those that are
ABSENT, and answers BADADDR for the rest. FILLED writes the entries of a page that is serviced, which is RESIDENT once both stages map
it, and NOBACK leaves it ABSENT and is what RESQ reads of it until a service ends with a frame; each ends the page's service. Of another page
they answer NOTPEND, the records of which are then taken as read, and on a device-managed slice they have no reply (notes/assumptions/17.md);
in MINIMAL they answer MINIMAL, and for another virtual function NOTOWN. Without a request a servicer maps a
page through its tables alone. SHOOTDOWN advances the extent generation with the runs of its pages. Once no older request is in flight, and none
uses the page any more, RECLAIM takes the entries of a page that nothing pins, which is ABSENT then, or narrows what they permit; a frame that
no entry names any more is zeroed, at a RECLAIM, a FILLED and a MOVED (notes/assumptions/56.md). SHOOTDOWN_TIMEOUT quenches a context whose
requests hold a shoot-down back, that of a memory block too. MOVE and MOVED carry a page that is RESIDENT or PINNED, with its bytes, to a free
frame of the pool, behind a shoot-down of their own. One management command of a mailbox is carried out at a time (notes/assumptions/55.md).
Where nothing is to be done nothing changes (notes/assumptions/1.md). That a page one stage lacks is ABSENT is the model's choice
(notes/assumptions/86.md), as is BADADDR for more than 4096 bytes (notes/assumptions/87.md). -/
def Obligations.PagesAreServicedReclaimedAndMoved : Prop :=
  ∀ (s : State) (vf p : Nat),
    (16 ≤ vf → ∀ e1 e2 asked host,
      let x := replied s (vf / 16 - 1) (if s.hearth.stage = .minimal then .minimal else .notown) []
      exec (.filled vf p e1 e2 asked host) s = .next x ∧ exec (.noback vf p) s = .next x) ∧
    ∀ c, s.ctx vf = some c →
    (vf < 16 → s.hearth.stage = .minimal → ∀ e1 e2 asked host,
      exec (.filled vf p e1 e2 asked host) s = .next (if host = true then replied s vf .minimal [] else
        { s with replies := served s vf c .minimal }) ∧
      exec (.noback vf p) s = .next { s with replies := served s vf c .minimal }) ∧
    (∀ box va bytes, Commands s box vf →
      let ps := pagesOf va bytes.length
      let denied := fun g => (c.page g).usable = true ∧ ∀ f, c.stages g 2 ≠ .ok f
      let bad := 4096 < bytes.length ∨ 2 ^ 57 < va + bytes.length ∨ c.st = .free ∨ s.guarded vf va bytes.length = true ∨
        ∃ g ∈ ps, denied g
      (bad → exec (.memwrite box vf va bytes) s = .next (replied s box .badaddr [])) ∧
      (¬bad → (∀ g ∈ ps, ∃ pa, c.walk (65536 * g) true = .ok pa) → NoPlanRuns s →
        exec (.memwrite box vf va bytes) s = .next (replied (s.vwrite vf va bytes) box .ok [])) ∧
      (¬bad → ∀ g ∈ ps, (c.page g).st = .absent → ∃ t l, exec (.memwrite box vf va bytes) s = .next t ∧ t.mem = s.mem ∧
        t.replies = s.replies ∧ t.pendWrites = s.pendWrites ++ [⟨box, vf, va, bytes, l⟩] ∧
        (ps.find? (fun x => (c.page x).st == .absent) = some g → s.hasRoom vf g 2 = true →
          (t.ctx vf).map (fun x => (x.page g).st) = some .fetching))) ∧
    (∀ e1 e2 host, vf < 16 → s.hearth.stage ≠ .minimal →
      let answered := fun st => if host = true then s.replies ++ [⟨vf, st, []⟩] else served s vf c st
      let d := c.write p e1 e2
      ((c.page p).st = .fetching → NothingWaits s → MayFill s vf c p e1 e2 →
        ∃ t c', exec (.filled vf p e1 e2 true host) s = .next t ∧ t.ctx vf = some c' ∧ (RunsFit s vf c' →
          c'.page p = { c.page p with
            st := if d.frame p = none then .absent else .resident, noback := false, lastNo := false } ∧
          (∀ e, e1 = some e → entryOf c'.stage1 p = some e) ∧
          (∀ e i, e2 = some e → c'.ipn p = some i → entryOf c'.stage2 i = some e) ∧
          (∀ n f, (c.page n).usable = true → c.frame n = some f → c'.frame n = some f) ∧
          Serviced t vf p ∧ FreesFrames s t c c' ∧ t.replies = answered .ok)) ∧
      ((c.page p).st ≠ .fetching → ∃ t c', exec (.filled vf p e1 e2 true host) s = .next t ∧ t.ctx vf = some c' ∧
        c'.pages = c.pages ∧ c'.stage1 = c.stage1 ∧ c'.stage2 = c.stage2 ∧ Serviced t vf p ∧ SameMemory s t ∧
        t.replies = answered .notpend) ∧
      ((c.page p).st = .absent → NothingWaits s → MayFill s vf c p e1 e2 →
        ∃ t c', exec (.filled vf p e1 e2 false host) s = .next t ∧ t.ctx vf = some c' ∧ (RunsFit s vf c' →
          (d.frame p ≠ none → c'.page p = { c.page p with st := .resident, noback := false }) ∧
          (∀ e, e1 = some e → entryOf c'.stage1 p = some e) ∧ FreesFrames s t c c' ∧ t.replies = s.replies)) ∧
      ((c.page p).st = .fetching → ¬MayFill s vf c p e1 e2 → ∀ asked, exec (.filled vf p e1 e2 asked host) s = .next s)) ∧
    ((c.page p).st = .fetching → NothingWaits s → vf < 16 → s.hearth.stage ≠ .minimal → ∃ t c', exec (.noback vf p) s = .next t ∧ t.ctx vf = some c' ∧
      c'.page p = { c.page p with st := .absent, noback := true, lastNo := true } ∧ (∀ g, g ≠ p → c'.page g = c.page g) ∧
      Serviced t vf p ∧ SameMemory s t ∧ t.replies = served s vf c .ok) ∧
    ((c.page p).st ≠ .fetching → NothingWaits s → vf < 16 → s.hearth.stage ≠ .minimal → ∃ t c', exec (.noback vf p) s = .next t ∧ t.ctx vf = some c' ∧
      c'.pages = c.pages ∧ Serviced t vf p ∧ SameMemory s t ∧ t.replies = served s vf c .notpend) ∧
    (∀ ps, ∃ t, exec (.shootdown vf ps) s = .next t ∧ SameMemory s t ∧
      t.ctx vf = some { c with
        extgen := c.extgen + 1
        shootdown := c.shootdown.filter (fun x => !ps.contains x.1) ++ ps.map (fun g => (g, c.extgen + 1)) } ∧
      ∀ k kn, s.kern k = some kn → ∃ kn', t.kern k = some kn' ∧ kn'.runs = if kn.vf = vf then kn.runs.map (fun r =>
        let base := ((kn.hdr.exts[r.ext]?).map (·.va)).getD 0 / 65536 + uv r.off
        if ps.any (fun g => decide (base ≤ g) && decide (g ≤ base + uv r.len)) = true then { r with gen := c.extgen + 1 } else r)
        else kn.runs) ∧
    (∀ s1 s2 f, ShotDown s vf p c → (c.page p).st = .resident → (c.page p).pins = 0 → c.frame p = some f →
      (s1 = true ∨ s2 = true) → c.mayLose (c.act p (.remove s1 s2)) = true → FreeOf s vf p (lostFrames c p (.remove s1 s2)) →
      ∃ t c', exec (.reclaim vf ⟨p, .remove s1 s2⟩) s = .next t ∧ t.ctx vf = some c' ∧ (RunsFit s vf c' →
        c'.page p = { c.page p with st := .absent } ∧ c'.frame p = none ∧ (∀ x ∈ c'.shootdown, x.1 ≠ p) ∧
        (s1 = true → entryOf c'.stage1 p = none) ∧ (s1 = false → c'.ipn p = c.ipn p) ∧
        ∀ a, byteAt t a = if a / 65536 ∈ c.frames ∧ a / 65536 ∉ c'.frames then 0 else byteAt s a)) ∧
    (∀ s1 rd wr f, ShotDown s vf p c → (c.page p).st = .resident → c.frame p = some f → LargeTidy c.stage1 → LargeTidy c.stage2 →
      c.mayLose (c.act p (.narrow s1 rd wr)) = true → FreeOf s vf p [] →
      ∃ t c', exec (.reclaim vf ⟨p, .narrow s1 rd wr⟩) s = .next t ∧ t.ctx vf = some c' ∧ (RunsFit s vf c' →
        c'.page p = c.page p ∧ c'.frame p = some f ∧ (∀ x ∈ c'.shootdown, x.1 ≠ p) ∧
        (∀ acc, acc < 4 → (c'.stages p acc = .ok f ↔
          c.stages p acc = .ok f ∧ (acc % 2 = 1 → rd = true) ∧ (2 ≤ acc → wr = true))) ∧
        SameMemory s t)) ∧
    (∀ a, (∀ x ∈ c.shootdown, x.1 ≠ p) ∨ (c.page p).usable = false ∨ c.mayLose (c.act p a) = false ∨
        ¬FreeOf s vf p (lostFrames c p a) →
      exec (.reclaim vf ⟨p, a⟩) s = .next s) ∧
    (∀ s1 s2, (c.page p).usable = true → 0 < (c.page p).pins → c.frame p ≠ none → (s1 = true ∨ s2 = true) →
      exec (.reclaim vf ⟨p, .remove s1 s2⟩) s = .next s) ∧
    (let late := (∃ x ∈ c.shootdown, s.oldInFlight vf x.2 = true) ∨
        ∃ b ∈ s.blocks, b.2.st = .scrubbing ∧ ∃ x ∈ b.2.gens, x.1 = vf ∧ s.oldInFlight vf x.2 = true;
      (late → c.st.quenchable = true →
      ∃ t, exec (.shootdownTimeout vf) s = .next t ∧ (t.ctx vf).map (fun x => (x.st, x.reason)) = some (.quenching, 5)) ∧
      (¬late → exec (.shootdownTimeout vf) s = .next s)) ∧
    (∀ pfn,
      let may := (c.page p).st = .resident ∧ s.inPool c.part pfn = true ∧ s.inArea pfn = false ∧
        ∀ x ∈ s.ctxs, pfn ∉ x.2.frames ∧ ∀ g ∈ x.2.pages, g.2.st = .migrating → g.2.dest ≠ pfn
      (may → exec (.move vf p pfn) s = .next (s.modCtx vf (fun x =>
        { x with
          shootdown := x.shootdown.filter (fun y => y.1 != p)
          pages := Tbl.put x.pages p { c.page p with st := .migrating, dest := pfn } }))) ∧
      (¬may → exec (.move vf p pfn) s = .next s)) ∧
    (∀ i old, (c.page p).st = .migrating → ShotDown s vf p c → NothingWaits s → Memory.wf s.mem = true → LargeTidy c.stage2 →
      c.ipn p = some i → c.frame p = some old → (c.page p).dest < 2 ^ 36 →
      let new := (c.page p).dest
      ∃ t c', exec (.moved vf p) s = .next t ∧ t.ctx vf = some c' ∧ (RunsFit s vf c' →
        c'.page p = { c.page p with st := .resident, dest := 0 } ∧ c'.frame p = some new ∧ c'.extgen = c.extgen ∧
        (∀ x ∈ c'.shootdown, x.1 ≠ p) ∧ (∀ x, x < 65536 → byteAt t (65536 * new + x) = byteAt s (65536 * old + x)) ∧
        ∀ a, a / 65536 ≠ new → byteAt t a = if a / 65536 = old then 0 else byteAt s a)) ∧
    ((c.page p).st ≠ .migrating ∨ (∀ x ∈ c.shootdown, x.1 ≠ p) → exec (.moved vf p) s = .next s)

end

namespace Sys2Proof
open Machine

/-! ## Deterministic mode (spec/11_group.md R230 to R234, spec/13_ordering.md R266) -/

/-- A team of a deterministic run that is on its core and not halted by a debugger or by pre-emption. -/
structure Rounds (s : State) (t : Nat) (tm : Team) : Prop where
  team : s.team t = some tm
  det : (s.hdr tm.kern).det = true
  resident : tm.st = .resident
  runs : tm.haltD = false ∧ tm.haltP = false

/-- The wave has nothing more to run in the round: it has left its program, its quantum has ended, or a halt holds it. -/
def Rests (tm : Team) (w : Wave) : Prop :=
  w.st = .draining ∨ w.st = .done ∨ w.qended = true ∨ (tm.haltF = true ∧ w.hmode = false)

/-- The place of an entry in the commit: its wave's index, then its number. -/
def commitsBefore (s : State) (x y : Staged) : Prop :=
  let i := fun (z : Staged) => ((s.wave z.wave).map (·.idx)).getD 0
  i x < i y ∨ (i x = i y ∧ x.id ≤ y.id)

/-- The round whose effects a team drains: from its last commit until the next begins still the one before (R231, R233). -/
def drainRound (h : Header) (tm : Team) : Nat := if tm.turn = h.waves + 1 then tm.round - 1 else tm.round

/-- The resume mask of a fault that is delivered at a chain boundary (spec/13_ordering.md R268). -/
def maskAt (s : State) (w : Wave) : BitVec 3 :=
  match w.hold with
  | some h => BitVec.ofNat 3 (2 ^ h.idx)
  | none => if w.redo = 0 then chainMask s w w.pc else w.redo

end Sys2Proof

section
open Sys2Proof Machine

/-- R230 to R234, R242, R266, R494: QUANTUM_END gives the turn to the next wave in ascending index, or to the commit. COMMIT
performs the staged effects in ascending WID and program order: stores, arrivals; behind the last one the round is over, sets
are granted and external arrivals applied. TOKEN_PASS moves the token to the next team of this device (notes/assumptions/42.md), and a new
cycle begins at the first, once the team that has it has drained the cycle's round: none of its floating-point atomics is left in a sequencer,
staged, or sent and not acknowledged. DETLOCK gives cause 20 to every wave that waits in a quiet run of which no round can begin
(notes/assumptions/95.md). Where nothing is to be done nothing changes (notes/assumptions/1.md). A pending fault is delivered, the oldest alone; that of a wave that has
left its program goes to the lowest live wave of the team, and with none the kernel escalates. -/
def Obligations.RoundsRunQuantaAndCommit : Prop :=
  (∀ (s : State) (t : Nat) (tm : Team), Rounds s t tm →
    (tm.turn < (s.hdr tm.kern).waves → (∀ p ∈ s.waves, p.2.team = t → p.2.f1 = tm.turn → Rests tm p.2) →
      ∃ u, exec (.quantumEnd t) s = .next (s.modTeam t (fun x => { x with turn := u })) ∧
        (tm.haltF = true → u = (s.hdr tm.kern).waves) ∧
        (tm.haltF = false → u ≤ (s.hdr tm.kern).waves ∧
          (∀ p ∈ s.waves, p.2.team = t → ¬Rests tm p.2 → tm.turn < p.2.f1 → u ≤ p.2.f1) ∧
          (u = (s.hdr tm.kern).waves ∨ ∃ p ∈ s.waves, p.2.team = t ∧ ¬Rests tm p.2 ∧ tm.turn < p.2.f1 ∧ p.2.f1 = u))) ∧
    ((s.hdr tm.kern).waves ≤ tm.turn → exec (.quantumEnd t) s = .next s) ∧
    (tm.turn < (s.hdr tm.kern).waves → exec (.commit t) s = .next s) ∧
    ((s.hdr tm.kern).waves ≤ tm.turn → orderingIdle s t = true →
      (∀ x, firstStaged s tm = some x → x ∈ tm.stage ∧ ((∀ y ∈ tm.stage, y.id < 2 ^ 40) → ∀ y ∈ tm.stage, commitsBefore s x y)) ∧
      (∀ x a, firstStaged s tm = some x → x.k = .access a → a.kind = .store → Disjoint a → NoneStarted s →
        (∀ w, s.wave x.wave = some w → w.st ≠ .draining) →
        ∃ t', exec (.commit t) s = .next t' ∧ t'.mem = s.mem ∧
          (t'.team t).map (·.stage) = some (tm.stage.filter (fun y => y.wave != x.wave || y.id != x.id)) ∧
          ∀ k b, windowByte t' k b = if k = t then (a.byteAt b).getD (windowByte s k b) else windowByte s k b) ∧
      (∀ x b w, firstStaged s tm = some x → x.k = .arrival b → s.wave x.wave = some w → w.st ≠ .draining →
        exec (.commit t) s = .next (s.modTeam t (fun y => { y.veilArrive x.wave x.id b (tm.bar b).ph with
          stage := y.stage.filter (fun z => z.wave != x.wave || z.id != x.id)
          bars := Tbl.put y.bars b { tm.bar b with am := (tm.bar b).am ||| BitVec.ofNat 16 (2 ^ w.f1) }.eval }))) ∧
      (tm.stage = [] → tm.turn = (s.hdr tm.kern).waves →
        ∃ t' y, exec (.commit t) s = .next t' ∧ t'.team t = some y ∧ y.round = tm.round + 1 ∧
          y.turn = (s.hdr tm.kern).waves + 1 ∧ y.arrived = [] ∧ y.freshB = [] ∧ y.freshC = [] ∧
          SameMemory s t' ∧
          (∀ n w, tm.reqs = [n] → 0 < tm.free → s.wave n = some w →
            (t'.wave n).map (·.granted) = some true ∧ y.free = tm.free - 1 ∧ y.reqs = []) ∧
          (∀ src b, tm.arrived = [(src, b)] → (tm.bar b).xa < 65535 → y.bar b = { tm.bar b with xa := (tm.bar b).xa + 1 }.eval)) ∧
      (tm.stage = [] → tm.turn ≠ (s.hdr tm.kern).waves → exec (.commit t) s = .next s))) ∧
  (∀ (s : State) (k : Nat) (kn : Kernel) (t : Nat) (tm : Team), s.kern k = some kn → kn.hdr.det = true →
    (kn.st = .running ∨ kn.st = .dispatching) → s.teams.find? (fun p => p.2.kern == k && p.2.idx == kn.token) = some (t, tm) →
    let h := s.hdr tm.kern
    let queued := ∃ p ∈ s.waves, p.2.team = t ∧ ∃ e ∈ p.2.standing, e.st = .queued ∧ Staged.needsToken s ⟨p.1, 0, e.id, e.k⟩ = true
    let passed := kn.cycle < drainRound h tm ∨ (kn.cycle = drainRound h tm ∧ h.waves ≤ tm.turn ∧ orderingIdle s t = true ∧
      (∀ x ∈ tm.stage, x.needsToken s = false) ∧ ¬queued)
    let drained := ∀ o ∈ s.ops, o.2.team = t → o.2.st ≠ .gathering → o.2.needsToken = false
    ((tm.st = .ended ∨ (passed ∧ drained)) → (∃ p ∈ s.teams, p.2.kern = k ∧ p.2.st ≠ .ended) →
      ∃ j c, exec (.tokenPass k) s = .next (s.modKern k (fun x => { x with token := j, cycle := c })) ∧
        (∃ p ∈ s.teams, p.2.kern = k ∧ p.2.idx = j) ∧
        (((∃ p ∈ s.teams, p.2.kern = k ∧ kn.token < p.2.idx) ∧ c = kn.cycle ∧ kn.token < j ∧
            ∀ p ∈ s.teams, p.2.kern = k → kn.token < p.2.idx → j ≤ p.2.idx) ∨
          ((∀ p ∈ s.teams, p.2.kern = k → p.2.idx ≤ kn.token) ∧ c = kn.cycle + 1 ∧
            ∀ p ∈ s.teams, p.2.kern = k → j ≤ p.2.idx))) ∧
    (tm.st ≠ .ended → ¬(passed ∧ drained) → exec (.tokenPass k) s = .next s)) ∧
  (∀ (s : State) (k : Nat) (kn : Kernel), s.kern k = some kn →
    let hits := s.waves.filter (fun p => decide (p.2.kern = k ∧ p.2.st ≠ .draining ∧ p.2.st ≠ .done) &&
      (match s.team p.2.team with
       | none => false
       | some x => decide (x.st = .resident ∧ x.haltD = false ∧ x.haltP = false ∧ (x.haltF = false ∨ p.2.hmode = true) ∧
           (p.2.st = .waiting ∨ p.2.st = .stalled ∨ p.2.st = .held ∨ heldAtBoundary s p.2 = true))))
    let quiet := kn.hdr.det = true ∧ kn.st = .running ∧
      (∀ p ∈ s.waves, p.2.kern = k → quietWave s p.1 p.2 = true ∧ faultDue s p.2 = false) ∧
      runIdle s k = true ∧ runStep s k = false ∧ (∀ x ∈ s.teams, x.2.kern = k → freeRound x.1 s = none) ∧ hits ≠ []
    (quiet → exec (.detlock k) s =
      .next (hits.foldl (fun t p => deliver p.1 20 0 p.2.pc (maskAt t p.2) t) s)) ∧
    (¬quiet → exec (.detlock k) s = .next s)) ∧
  (∀ (s : State) (n : Nat) (w : Wave), s.wave n = some w →
    (∀ f fs tm, w.pending = f :: fs → w.hmode = false → s.team w.team = some tm →
      ((s.hdr w.kern).det = false ∨ atBoundary s w.team tm = true) →
      let s1 := s.modWave n (fun x => { x with pending := fs })
      (w.st ≠ .draining → w.st ≠ .done →
        exec (.pendingFaultDelivery n) s = .next (deliver n f.cause f.arg w.pc (maskAt s w) s1)) ∧
      (w.st = .draining ∨ w.st = .done →
        (∀ m, liveWave s w.team = some m → exec (.pendingFaultDelivery n) s = .next (pendFault m f.cause f.arg s1)) ∧
        (liveWave s w.team = none →
          exec (.pendingFaultDelivery n) s = .next (escalate n w.pc f.arg (s1.modWave n (·.mark f.cause)))))) ∧
    ((w.pending = [] ∨ w.hmode = true) → exec (.pendingFaultDelivery n) s = .next s))

end

namespace Sys2Proof
open Machine

/-! ## The matrix pair (spec/20_matrix.md) -/

/-- t is the state past a word that queues an operation on its wave's pair, or behind the FROZEN operations of its team while that is
halted (R359, R360). In deterministic mode the destinations of a drain are hidden from the other waves of the team from then on (R379). -/
def QueuesMatrix (s t : State) (n : Nat) (w : Wave) (tile : Nat) (k : MatKind) : Prop :=
  let p := (Tbl.find s.pairs (s.pairOf w)).getD {}
  let h := s.hdr w.kern
  let veils := h.det = true ∧ h.waves ≠ 1 ∧ k.dests ≠ []
  ∃ ps ts da db, t = { s.issued n (w.onward s) with pairs := ps, teams := ts, serial := s.serial + 1 } ∧
    (w.wrote = [] → da = 0 ∧ db = 0) ∧
    let o : MatOp := {
      id := s.serial, team := w.team, wave := n, tile := tile, k := k, rdy := w.mrdy.map (·.1)
      opened := (w.mrdy.map (·.2)).getD false, dirtyA := da, dirtyB := db }
    (∀ j, Tbl.find ps j = if j = s.pairOf w ∧ s.freezes w = false then some { p with queue := p.queue ++ [o] } else Tbl.find s.pairs j) ∧
    ∀ j, Tbl.find ts j = (s.team j).map (fun x => if j = w.team then
      { (if veils then x.veil { own := n, rs := k.dests, op := some s.serial, tile := tile, id := 0 } else x) with
        frozen := if s.freezes w = true then x.frozen ++ [o] else x.frozen } else x)

/-- The queue of the wave's pair has an entry free that no operation of a resumed team waits for, or the operation is FROZEN at once
(R359, R360). -/
def RoomInPair (s : State) (w : Wave) : Prop :=
  s.freezes w = true ∨ (((Tbl.find s.pairs (s.pairOf w)).getD {}).queue.length < 8 ∧ s.thawing (s.pairOf w) = [])

/-- The wave may issue matrix words (spec/11_group.md R227), and the operation has a place (R359). -/
def MayQueue (s : State) (w : Wave) : Prop := mayIssueMatrix s w = true ∧ RoomInPair s w

/-- Element (i, j) of tile t of a pair. -/
def elementOf (s : State) (key t i j : Nat) : Word := NMap.get 0 ((Tbl.find s.pairs key).getD {}).tiles ((128 * t + i) * 128 + j)

/-- Operation o of a pair is the next to start, and it may (R360, R367, R370); no store spoiled what it reads. -/
structure Starts (s : State) (key : Nat) (p : Pair) (o : MatOp) : Prop where
  pair : Tbl.find s.pairs key = some p
  next : p.queue.find? (fun x => !x.started) = some o
  ready : o.needsReady = true → o.opened = true
  alone : o.alone = true → ∀ x ∈ p.queue, x.started = false
  engine : s.engineRuns (key / 160) = true
  unique : p.queue.Pairwise (fun x y => x.id ≠ y.id)
  clean : o.dirtyA = 0 ∧ o.dirtyB = 0 ∧ o.touched = []

/-- The sign of a value, and whether it is an infinity or a zero. -/
def signOf : FVal → Bool
  | .fin s _ _ => s
  | .inf s => s
  | .nan => false
def IsInf (x : FVal) : Prop := ∃ s, x = .inf s
def IsZero (x : FVal) : Prop := isNumber x = true ∧ exactly x = 0

/-- One block of the float path (R107): acc' is acc plus the exact sum of the products, rounded once to FP32. A NaN, an infinity times zero,
and infinities of both signs give the canonical NaN, infinite products of one sign that infinity; an exact zero is −0 only where acc and
every product are −0. -/
def BlockRounds (ps : List (FVal × FVal)) (acc acc' : Nat) : Prop :=
  let a := f32.decode acc
  let bad := fun (p : FVal × FVal) => p.1 = .nan ∨ p.2 = .nan ∨ (IsInf p.1 ∧ IsZero p.2) ∨ (IsZero p.1 ∧ IsInf p.2)
  let infinite := fun (s : Bool) => ∃ p ∈ ps, (IsInf p.1 ∨ IsInf p.2) ∧ (signOf p.1 != signOf p.2) = s
  let inf := fun (s : Bool) => f32.infBits + if s then 2 ^ 31 else 0
  (a = .nan ∨ (∃ p ∈ ps, bad p) ∨ (infinite true ∧ infinite false) → acc' = 0x7FC00000) ∧
  (∀ s, a ≠ .nan → (∀ p ∈ ps, ¬bad p) → infinite s → ¬infinite (!s) → acc' = if a = .inf (!s) then 0x7FC00000 else inf s) ∧
  ((∀ p ∈ ps, isNumber p.1 = true ∧ isNumber p.2 = true) →
    (∀ s, a = .inf s → acc' = inf s) ∧
    (isNumber a = true →
      let x := exactly a + (ps.map (fun p => exactly p.1 * exactly p.2)).sum
      (x = 0 → acc' = if acc = 0x80000000 ∧ (∀ p ∈ ps, signOf p.1 ≠ signOf p.2) then 0x80000000 else 0) ∧
      (x ≠ 0 → ∃ y, isNumber y = true ∧ exactly y = x ∧ acc' = f32.roundNE y)))

/-- An element of a float MMA: blocks of 32 products one after another, from the tile's value acc to r, with one rounding a block (R107,
R371). -/
def MmaRounds (blocks : Nat) (as bs : List FVal) (acc r : Nat) : Prop :=
  ∃ f : Nat → Nat, f 0 = acc ∧ f blocks = r ∧ ∀ b, b < blocks → BlockRounds (((as.zip bs).drop (32 * b)).take 32) (f b) (f (b + 1))

/-- The exact product of an element and its two scales (R375). -/
def ScaledBy (v r c y : FVal) : Prop :=
  let xs := [v, r, c]
  ((∀ x ∈ xs, isNumber x = true) →
    isNumber y = true ∧ exactly y = exactly v * exactly r * exactly c ∧ signOf y = (signOf v != (signOf r != signOf c))) ∧
  (FVal.nan ∈ xs ∨ ((∃ x ∈ xs, IsInf x) ∧ ∃ x ∈ xs, IsZero x) → y = .nan) ∧
  ((∀ x ∈ xs, x ≠ .nan ∧ ¬IsZero x) → (∃ x ∈ xs, IsInf x) → y = .inf (signOf v != (signOf r != signOf c)))

/-- A block of a drained row in its format: the elements' bytes and the side word (R374, R375). -/
def blockOut (m : DrainFmt) (xs : List FVal) (z : Nat → BitVec 64) : List Byte × List Byte :=
  match m with
  | .tx8 => (packEls true (txQuant true xs z).els, bytesOf 1 (txQuant true xs z).h0 ++ bytesOf 1 (txQuant true xs z).h1 ++ [0, 0])
  | .tx4 => (packEls false (txQuant false xs z).els, bytesOf 1 (txQuant false xs z).h0 ++ bytesOf 1 (txQuant false xs z).h1 ++ [0, 0])
  | .e4m3 => (packEls true (mxQuant e4m3 xs z).els, bytesOf 1 (mxQuant e4m3 xs z).h0 ++ [0, 0, 0])
  | .e5m2 => (packEls true (mxQuant e5m2 xs z).els, bytesOf 1 (mxQuant e5m2 xs z).h0 ++ [0, 0, 0])
  | .e2m1 => (packEls false (mxQuant e2m1 xs z).els, bytesOf 1 (mxQuant e2m1 xs z).h0 ++ [0, 0, 0])
  | .ob8 => (packEls true (obQuant true xs z).els, bytesOf 2 (obQuant true xs z).h0 ++ bytesOf 1 (obQuant true xs z).h1 ++ [0])
  | _ => ([], [])

/-- Element (i, j) of a tile as an MDRAIN takes it, with its scales (R375). -/
def drained (s : State) (key : Nat) (o : MatOp) (int : Bool) (scv : Word) (i j : Nat) (y : FVal) : Prop :=
  let v := if int then ofInt (sv (elementOf s key o.tile i j)) else fp32 (elementOf s key o.tile i j)
  let scale := fun a => f32.decode (natOf ((List.range 4).map (fun b => windowByte s o.team (uv scv + a + b))))
  (scv = 0xFFFFFFFF → y = v) ∧ (scv ≠ 0xFFFFFFFF → ScaledBy v (scale (4 * i)) (scale (512 + 4 * j)) y)

/-- What the start leaves of tile t of the pair: the given elements; every other tile is as before. -/
def TileIs (s s' : State) (key t : Nat) (g : Nat → Nat → Word) : Prop :=
  ∀ u i j, i < 128 → j < 128 → elementOf s' key u i j = if u = t then g i j else elementOf s key u i j

end Sys2Proof

section
open Sys2Proof Machine

/-- R359, R363, R364, R369 to R376: the elected wave on an even core queues MZERO, MMA and MDRAIN on its pair, MMA and a scaled
MDRAIN only after an MRDY; another wave gets MTXERR (cause 13), and a full queue makes it wait. A bad operand is MTXERR, an
operand or a destination outside the window ADDRERR. While its team is halted what it queues is FROZEN, and what is FROZEN takes its room
first (notes/assumptions/27.md). MRDY appends its ready fence
under every handle. MWAIT waits until the team's operations on its tile have retired, in deterministic mode by the start of the
wave's quantum (spec/11_group.md R231, notes/assumptions/100.md). -/
def Obligations.MatrixWordsQueueTheirOperation : Prop :=
  ∀ (s : State) (n : Nat) (w : Wave),
    let mtx := fun i => exec i s = .next (turnAway n (.trap 13 (BitVec.ofNat 32 s.chain.slot)) s)
    let addr := fun i => exec i s = .next (turnAway n (.trap 5 (BitVec.ofNat 32 s.chain.slot)) s)
    (∀ t : TReg, Issues s n w (.mzero t) →
      (mayIssueMatrix s w = false → mtx (.mzero t)) ∧
      (mayIssueMatrix s w = true → ¬RoomInPair s w → exec (.mzero t) s = .next (turnAway n .pend s)) ∧
      (MayQueue s w → ∃ x, exec (.mzero t) s = .next x ∧ QueuesMatrix s x n w t.toNat .zero)) ∧
    (Issues s n w .mrdy → (∀ x ∈ w.seqs, x.2.live = true → x.2.entries.length < 64) →
      ∃ qs, exec .mrdy s = .next (s.issued n { w.onward s with
          seqs := qs, nextId := w.nextId + 1, mrdy := some (w.nextId, false), wrote := [] }) ∧
        ∀ j, Tbl.find qs j = (Tbl.find w.seqs j).map (fun x =>
          if x.live = true then { x with entries := x.entries ++ [⟨w.nextId, .fence .cluster true true none, .queued⟩] } else x)) ∧
    (∀ (m : MmaFmt) (o : MmaOp), Issues s n w (.mma m o) →
      let da := w.getD o.da.toNat
      let db := w.getD o.db.toNat
      let a := operandAt s w o.oe (w.getA o.ao.toNat) da
      let b := operandAt s w o.oe (w.getA (o.ao.toNat + 1)) db
      let bad := (o.ra = false ∧ operandBad s m o.kc.toNat a.1 da = true) ∨ operandBad s m o.kc.toNat b.1 db = true
      let waits := (o.ra = false ∧ operandPending s a.1 = true) ∨ operandPending s b.1 = true
      let out := (o.ra = false ∧ operandOut (s.hdr w.kern) a.2 da = true) ∨ operandOut (s.hdr w.kern) b.2 db = true
      (mayIssueMatrix s w = false ∨ w.mrdy = none → mtx (.mma m o)) ∧
      (mayIssueMatrix s w = true → w.mrdy ≠ none → bad → mtx (.mma m o)) ∧
      (mayIssueMatrix s w = true → w.mrdy ≠ none → ¬bad → ¬waits → out → addr (.mma m o)) ∧
      (MayQueue s w → w.mrdy ≠ none → ¬bad → ¬waits → ¬out → ∃ x, exec (.mma m o) s = .next x ∧
        QueuesMatrix s x n w o.tt.toNat (.mma m o.kc.toNat o.ra (a.1.getD w.team) a.2 da (b.1.getD w.team) b.2 db))) ∧
    (∀ (m : DrainFmt) (t : TReg) (r : SReg) (i z : Bool), Issues s n w (.mdrain m t r i z) →
      let x := fun k => w.getS (r.toNat + k)
      let win := (s.hdr w.kern).window
      let inside := uv (x 0) % 4 = 0 ∧ uv (x 1) % 4 = 0 ∧ drainRow m ≤ uv (x 1) ∧ uv (x 0) + 127 * uv (x 1) + drainRow m ≤ win ∧
        (drainSided m = true → uv (x 2) % 4 = 0 ∧ uv (x 2) + 2048 ≤ win) ∧
        (x 4 ≠ 0xFFFFFFFF → uv (x 4) % 4 = 0 ∧ uv (x 4) + 1024 ≤ win)
      let ready := x 4 = 0xFFFFFFFF ∨ w.mrdy ≠ none
      (mayIssueMatrix s w = false ∨ ¬ready → mtx (.mdrain m t r i z)) ∧
      (mayIssueMatrix s w = true → ready → ¬inside → addr (.mdrain m t r i z)) ∧
      (MayQueue s w → ready → inside → ∃ y, exec (.mdrain m t r i z) s = .next y ∧
        QueuesMatrix s y n w t.toNat (.drain m i z (x 0) (x 1) (x 2) (x 3) (x 4)))) ∧
    (∀ (t : TReg) (tm : Team), Issues s n w (.mwait t) → s.team w.team = some tm → w.hold = none →
      let p := (Tbl.find s.pairs (s.pairOf w)).getD {}
      let mine := fun (o : MatOp) => o.team = w.team ∧ o.tile = t.toNat
      let late := fun (o : MatOp) => ∃ v, w.view = some v ∧ (v.serial ≤ o.id ∨ o.id ∈ v.ops)
      ((∃ o ∈ p.queue ++ tm.frozen, mine o) ∨ (∃ o ∈ p.settled, mine o ∧ late o) → (p.queue ++ tm.frozen ++ p.settled).Pairwise (fun x y => x.id ≠ y.id) →
        exec (.mwait t) s = .next (turnAway n (.wait (matrixOn s w t.toNat)) s)) ∧
      ((∀ o ∈ p.queue ++ tm.frozen, ¬mine o) → (∀ o ∈ p.settled, mine o → ¬late o) → (p.queue ++ tm.frozen ++ p.settled).Pairwise (fun x y => x.id ≠ y.id) →
        ∃ x, exec (.mwait t) s = .next x ∧ x.wave n = some (w.onward s) ∧ SameMemory s x ∧
          ∀ j y, Tbl.find x.pairs j = some y → ∃ y', Tbl.find s.pairs j = some y' ∧ y.queue = y'.queue ∧ y.tiles = y'.tiles ∧
            ∀ o, o ∈ y.settled ↔ o ∈ y'.settled ∧ ¬(j = s.pairOf w ∧ mine o)))

/-- R107, R360 to R367, R369, R371, R374, R375: at its start an MZERO clears its tile, an MMA of the integer formats adds to each
element the sum of the products of its row and column modulo 2^32, one of the other formats adds a block of 32 products at a time with one
rounding a block, and an MDRAIN writes its rows, each element scaled exactly and rounded into its format, and where the format has them the
side words of its blocks, where its scales lie outside what it writes (else R202 leaves what depends on them open). That an operation takes effect whole at its START is the model's choice (notes/assumptions/23.md). One that may not
start changes nothing (notes/assumptions/1.md). An operation retires in order; one whose sums left INT32 marks ACCOVF (48) in its wave. -/
def Obligations.MatrixOperationsStartAndRetire : Prop :=
  (∀ (s : State) (key : Nat) (p : Pair) (o : MatOp), Starts s key p o →
    let begun := fun (s' : State) => ∀ p', Tbl.find s'.pairs key = some p' → p'.queue.map (·.id) = p.queue.map (·.id) ∧
      ∀ x ∈ p'.queue, x.id = o.id → x.started = true
    (o.k = .zero → ∃ s', exec (.matrixStart key) s = .next s' ∧ TileIs s s' key o.tile (fun _ _ => 0) ∧ begun s' ∧
      SameMemory s s') ∧
    (∀ m kc ta oa da tb ob db, o.k = .mma m kc false ta oa da tb ob db → (m = .ob8 ∨ m = .ob4) →
      ∃ s', exec (.matrixStart key) s = .next s' ∧ begun s' ∧ SameMemory s s' ∧
        TileIs s s' key o.tile (fun i j => BitVec.ofInt 32 (sv (elementOf s key o.tile i j) +
          ((List.range (32 * 2 ^ kc)).map (fun k => mmaInt s m ta da oa i k * mmaInt s m tb db ob j k)).sum))) ∧
    (∀ m kc ra ta oa da tb ob db, o.k = .mma m kc ra ta oa da tb ob db → m ≠ .ob8 → m ≠ .ob4 →
      let ks := List.range (32 * 2 ^ kc)
      ∃ s' g, exec (.matrixStart key) s = .next s' ∧ begun s' ∧ SameMemory s s' ∧ TileIs s s' key o.tile g ∧
        ∀ i j, i < 128 → j < 128 → MmaRounds (2 ^ kc)
          (if ra then ks.map (raVal s m o.wave i) else ks.map (mmaVal s m ta da oa i)) (ks.map (mmaVal s m tb db ob j))
          (uv (elementOf s key o.tile i j)) (uv (g i j))) ∧
    (∀ m int z edst ep sdst rbcb scv tm, o.k = .drain m int z edst ep sdst rbcb scv → s.team o.team = some tm →
      NoneStarted s → drainRow m ≤ uv ep →
      (drainSided m = true → uv sdst + 2048 ≤ uv edst ∨ uv edst + 127 * uv ep + drainRow m ≤ uv sdst) →
      (scv ≠ 0xFFFFFFFF → (uv scv + 1024 ≤ uv edst ∨ uv edst + 127 * uv ep + drainRow m ≤ uv scv) ∧
        (drainSided m = true → uv scv + 1024 ≤ uv sdst ∨ uv sdst + 2048 ≤ uv scv)) →
      ∃ (s' : State) (y : Nat → Nat → FVal), exec (.matrixStart key) s = .next s' ∧ begun s' ∧ s'.mem = s.mem ∧
        (∀ k, k ≠ o.team → ∀ a, windowByte s' k a = windowByte s k a) ∧
        (∀ i j, i < 128 → j < 128 → drained s key o int scv i j (y i j)) ∧
        (m = .f32 → ∀ i j b, i < 128 → j < 128 → b < 4 →
          windowByte s' o.team (uv edst + i * uv ep + 4 * j + b) = (bytesOf 4 (f32.roundNE (y i j))).getD b 0) ∧
        (m = .bf16 → ∀ i j b, i < 128 → j < 128 → b < 2 →
          windowByte s' o.team (uv edst + i * uv ep + 2 * j + b) = (bytesOf 2 (bf16.roundNE (y i j))).getD b 0) ∧
        (drainSided m = true → ∀ i β, i < 128 → β < 4 →
          let id := BitVec.ofNat 64 (uv rbcb / 2 ^ 16 * 2 ^ 32 + uv rbcb % 2 ^ 16 * 2 ^ 16 + i)
          let x := blockOut m ((List.range 32).map (fun e => f32.decode (f32.roundNE (y i (32 * β + e)))))
            (fun e => draw 0xBB67AE8584CAA73B (s.hdr tm.kern).seed id (BitVec.ofNat 64 (32 * β + e)))
          (∀ b, b < drainRow m / 4 →
            windowByte s' o.team (uv edst + i * uv ep + drainRow m / 4 * β + b) = x.1.getD b 0) ∧
          ∀ b, b < 4 → windowByte s' o.team (uv sdst + 16 * i + 4 * β + b) = x.2.getD b 0) ∧
        TileIs s s' key o.tile (fun i j => if z then 0 else elementOf s key o.tile i j))) ∧
  (∀ (s : State) (key : Nat) (p : Pair) (o : MatOp), Tbl.find s.pairs key = some p →
    (p.queue.find? (fun x => !x.started) = some o → (o.needsReady = true ∧ o.opened = false) ∨
        (o.alone = true ∧ ∃ x ∈ p.queue, x.started = true) → exec (.matrixStart key) s = .next s) ∧
    (p.queue.find? (·.started) = some o → ∃ s', exec (.retire key) s = .next s' ∧ s'.mem = s.mem ∧
      (Tbl.find s'.pairs key).map (fun q => (q.queue, q.settled)) = some (p.queue.filter (fun x => x.id != o.id),
        if (∃ t, s.team o.team = some t ∧ t.st ≠ .ended) then p.settled ++ [o] else p.settled) ∧
      ∀ w, s.wave o.wave = some w → (s'.wave o.wave).map (·.wcause) =
        some (if o.ovf then w.wcause ||| BitVec.ofNat 64 (2 ^ 48) else w.wcause)) ∧
    ((∀ x ∈ p.queue, x.started = false) → exec (.retire key) s = .next s))

end

namespace Sys2Proof
open Machine

/-! ## Remote operations (spec/26_fabric_ops.md) -/

/-- The operation that a remote word of a column names in its registers (R438 to R440); bits 62:57 of an address are ignored
(spec/00_scope.md R9). -/
def remoteOp (w : Wave) (f : FxOp) (col : Nat) : RemOp :=
  let n := f.sbase.toNat
  let o := w.getS f.sparm.toNat
  let bulk : RemOp := {
    col := col, target := uv (w.getS n), ra := uv (w.getS64 (n + 1)) % 2 ^ 57, src := ⟨true, uv (w.getS (n + 3))⟩, len := uv o / 64
    flg := uv o / 16 % 4, opts := uv o % 64, flag := 0, round := 0, aop := 0, ret := false, a := 0, b := 0, dreg := n + 3 }
  match col with
  | 0 => { bulk with flag := w.getS64 (n + 4) }
  | 1 => bulk
  | 2 => { bulk with flag := w.getS64 (n + 5), round := w.getS (n + 4) }
  | 3 => { bulk with
      len := 0, flg := 0, aop := uv o % 16, ret := o.getLsbD 4 }
  | _ => { bulk with
      src := ⟨(w.getS64 (n + 3)).getLsbD 63, uv (w.getS64 (n + 3)) % 2 ^ 57⟩, flag := w.getS64 (n + 5) }

/-- The flag that an operation names is legal (R439, R441). -/
def FlagLegal (h : Header) (r : RemOp) : Prop :=
  r.flg = 0 ∨ (r.flg = 1 ∧ r.flag.getLsbD 63 = false ∧ uv r.flag % 8 = 0) ∨
  (r.flg = 2 ∧ flagTeam r.flag < 2 ^ (h.widths.drop 2).sum ∧
    (h.width 5 = 0 ∨ flagTeam r.flag / 2 ^ (h.width 2 + h.width 3 + h.width 4) = r.target))

/-- The operands of a remote word are legal (R441). -/
def RemoteLegal (s : State) (w : Wave) (f : FxOp) (r : RemOp) : Prop :=
  let o := w.getS f.sparm.toNat
  (r.target = s.dev ∨ (r.target < s.devs ∧ s.peer r.target ≠ none)) ∧ (w.getS64 (f.sbase.toNat + 1)).getLsbD 63 = false ∧
  r.ra % 4 = 0 ∧
  (r.col = 3 → uv o < 32 ∧ r.aop < 13) ∧
  (r.col ≠ 3 → uv o / 4 % 4 = 0 ∧ FlagLegal (s.hdr w.kern) r ∧ (r.col = 1 → r.flg = 0) ∧ (r.col ≠ 2 → uv o % 4 = 0) ∧
    r.len % 4 = 0 ∧ (r.col ≠ 4 → r.len ≤ 4096) ∧ (r.col = 2 → uv r.round / 16 % 16 = 0) ∧
    (r.src.win = true → r.src.addr + r.len ≤ (s.hdr w.kern).window))

/-- The remote words, with their columns (R437). -/
inductive RemoteWord (f : FxOp) : Instr → Nat → Prop
  | rst : RemoteWord f (.rst f) 0
  | rld : RemoteWord f (.rld f) 1
  | rred : RemoteWord f (.rred f) 2
  | ratom : RemoteWord f (.ratom f) 3
  | rcpy : RemoteWord f (.rcpy f) 4

/-- In t the peer has been given a status for a packet of its own, which it can no longer lose (spec/25_link.md R428). -/
def Answered (s t : State) (p : Packet) (st : Nat) : Prop :=
  ∀ x, s.peer (uv p.head.src) = some x →
    (t.peer (uv p.head.src)).map (fun y => Tbl.find y.given (uv p.head.pseq)) = some (some st)

/-- In t a reply to a packet stands among those that the pair sends: the word read, or the bytes (R452). -/
def RepliesWith (t : State) (p : Packet) (old data : List Byte) : Prop :=
  ∃ y, t.peer (uv p.head.src) = some y ∧ ∃ o ∈ y.out, uv o.pkt.head.kind = 4 ∧ o.pkt.head.tag = p.head.tag ∧
    o.pkt.head.gen = p.head.gen ∧ o.pkt.head.vf = p.head.vf ∧ o.pkt.data = data ∧
    o.pkt.head.payload = bytesOf 3 (uv p.head.pseq) ++ [0] ++ (old ++ List.replicate (4 - old.length) 0)

/-- The oldest packet of a channel of another device, with nothing of the channel parked (spec/13_ordering.md R257). -/
structure Foremost (s : State) (ch : Nat) (c : Channel) (p : Packet) (rest : List Packet) : Prop where
  chan : Tbl.find s.channels ch = some c
  pkts : c.pkts = p :: rest
  free : ∀ x ∈ s.parked, x.chan ≠ ch
  far : uv p.head.src ≠ s.dev

/-- It is of this virtual function, and its operation did not end before it (R446, spec/25_link.md R432). -/
structure Oldest (s : State) (ch : Nat) (c : Channel) (p : Packet) (rest : List Packet) (vf : Nat) : Prop extends Foremost s ch c p rest where
  goes : skipped c p = false
  vf : s.localVf p = some vf

/-- The state in which what had not been written of a packet's data is written, each aligned word that has not reached its module (R447). -/
def dataWritten (s : State) (vf : Nat) (p : Packet) : State :=
  let r := Req.of p.head
  (p.data.take r.len).zipIdx.foldl (fun s b =>
    if p.landed.contains ((r.ra + b.2) / 4) then s else s.vwrite vf (r.ra + b.2) [b.1]) s

/-- The state in which 1 is added to a flag word (R439). -/
def wordCounted (s : State) (vf va : Nat) : State := s.vwrite vf va (bytesOf 8 (natOf ((s.vread vf va 8).getD []) + 1))

/-- The teams of a run that a barrier flag names. -/
def FlagTeam (k : Nat) (r : Req) (x : Nat × Team) : Bool := x.2.kern == k && x.2.idx == flagTeam r.flag

/-- The flag does not hold its packet back: the run stands, and the team is placed (R448). -/
def FlagFree (s : State) (run : TargetRun) (r : Req) : Prop :=
  r.flg = 2 → run ≠ .absent ∧ ∀ k, run = .run k → ∀ x ∈ s.teams, FlagTeam k r x = true → x.2.st ≠ .pending

/-- In t the flag of a packet has been raised, once its data stood as in u, and the packet answered (R439, R444, R448): a word is counted on;
a barrier has one external arrival more, in deterministic mode under the lowest wave of the source (notes/assumptions/96.md); a
team or a run that has ended gives NOFLAG, 3. -/
def FlagRaised (s t u : State) (vf : Nat) (p : Packet) : Prop :=
  let r := Req.of p.head
  let run := s.targetRun p vf
  let b := flagBar r.flag
  (r.flg = 0 → t.mem = u.mem ∧ t.teams = s.teams ∧ Answered s t p 0) ∧
  (r.flg = 1 → t.mem = (wordCounted u vf r.word).mem ∧ t.teams = s.teams ∧ Answered s t p 0) ∧
  (r.flg = 2 → t.mem = u.mem ∧
    (run = .past → t.teams = s.teams ∧ Answered s t p 3) ∧
    ∀ k, run = .run k →
      ((∀ x ∈ s.teams, FlagTeam k r x = true → x.2.st = .ended) → t.teams = s.teams ∧ Answered s t p 3) ∧
      ∀ x tm, s.teams.filter (FlagTeam k r) = [(x, tm)] → s.team x = some tm → tm.st ≠ .ended →
        Answered s t p 0 ∧ (∀ y, y ≠ x → t.team y = s.team y) ∧
        ((s.hdr k).det = false → (tm.bar b).xa < 65535 →
          (t.team x).map (·.bar b) = some { tm.bar b with xa := (tm.bar b).xa + 1 }.eval) ∧
        ((s.hdr k).det = true → p.op = none → t.team x = some { tm with
          arrived := tm.arrived ++ [((s.hdr k).setField 0 5 (uv p.head.src) / (s.hdr k).cells, b)] }))

/-- In t a request of another device has been performed (R447 to R449): the data of a store or a copy stand, and then its flag is raised; a load
is answered with the bytes it reads; an atomic reads and writes its word once and is answered with what it read. -/
def RequestDone (s t : State) (vf : Nat) (p : Packet) : Prop :=
  let r := Req.of p.head
  (r.col = 0 ∨ r.col = 4 → FlagRaised s t (dataWritten s vf p) vf p) ∧
  (r.col = 1 → t.mem = s.mem ∧ t.teams = s.teams ∧ Answered s t p 0 ∧
    ∀ bs, s.vread vf r.ra r.len = some bs → (s.peer (uv p.head.src)).isSome = true → RepliesWith t p [] bs) ∧
  (r.col = 3 → ∀ old, s.vread vf r.ra 4 = some old →
    t.mem = (s.vwrite vf r.ra (bytesOf 4 (uv (r.atom.new (BitVec.ofNat 32 (natOf old)) r.a r.b)))).mem ∧ t.teams = s.teams ∧
    Answered s t p 0 ∧ ((s.peer (uv p.head.src)).isSome = true → RepliesWith t p old []))

/-- A load, an atomic, or a store or copy whose flag does not hold it back: its pages alone decide whether it is performed. -/
def Requests (s : State) (vf : Nat) (p : Packet) : Prop :=
  let r := Req.of p.head
  uv p.head.kind = 2 ∧ (r.col = 1 ∨ r.col = 3 ∨ ((r.col = 0 ∨ r.col = 4) ∧ FlagFree s (s.targetRun p vf) r))

/-- Element e of a byte string of FP32, or of BF16 widened. -/
def widened (bf : Bool) (bs : List Byte) (e : Nat) : Word :=
  if bf then BitVec.ofNat 32 (natAt bs (2 * e) 2 * 65536) else BitVec.ofNat 32 (natAt bs (4 * e) 4)

/-- The destination of a reduction round once the contributions are summed into it in their order, rounded at each sum, and at the end once more
into BF16 where the destination is BF16 (R450). -/
def Summed (r : Req) (dest : List Byte) (cs : List Contrib) (out : List Byte) : Prop :=
  out.length = r.destLen ∧ ∀ e, e < r.elems →
    let x := cs.foldl (fun acc c => valFadd 0 acc (widened r.ct c.pkt.data e)) (widened r.dt dest e)
    if r.dt then natAt out (2 * e) 2 = bf16.roundNE (fp32 x) else natAt out (4 * e) 4 = uv x

/-- What a contribution to a reduction round does in t (R450): it is answered 4 where its source has contributed, 5 where its shape is another;
it joins its round; or it completes it, which writes the sums, then counts on each contribution's flag word, then answers every contributor. -/
def Contributes (s t : State) (vf : Nat) (p : Packet) : Prop :=
  let r := Req.of p.head
  let src := uv p.head.src
  let new : Contrib := ⟨src, p⟩
  let same := fun (c : Contrib) => let q := Req.of c.pkt.head; q.len = r.len ∧ q.ct = r.ct ∧ q.dt = r.dt
  let full := fun (key : Nat) (parts : List Contrib) =>
    ∀ cs dest, cs.Perm parts → cs.Pairwise (fun a b => a.src < b.src) → s.vread vf r.ra r.destLen = some dest →
      targetMeets s (s.targetRun p vf) vf (parts.flatMap (fun c => (Req.of c.pkt.head).access)) = (.ok, 0) →
      (∀ c ∈ parts, (Req.of c.pkt.head).flg < 2) →
      (∀ j, Tbl.find t.rounds j = if j = key then none else Tbl.find s.rounds j) ∧
      (∀ c ∈ parts, uv c.pkt.head.src ≠ s.dev → Answered s t c.pkt 0) ∧
      ∃ out, Summed r dest cs out ∧ t.mem = (cs.foldl (fun u c =>
        if (Req.of c.pkt.head).flg = 1 then wordCounted u vf (Req.of c.pkt.head).word else u) (s.vwrite vf r.ra out)).mem
  let joins := fun (key : Nat) (x : RedRound) => t.mem = s.mem ∧
    ∀ j, Tbl.find t.rounds j = if j = key then some { x with parts := x.parts ++ [new] } else Tbl.find s.rounds j
  match s.rounds.filter (fun x => x.2.vf == vf && x.2.ra == r.ra && x.2.round == r.round / 256) with
  | [] => (∀ y ∈ s.rounds, y.1 ≠ s.serial) → s.rounds.length < 256 →
    (r.round % 16 = 0 → full s.serial [new]) ∧
    (r.round % 16 ≠ 0 → joins s.serial ⟨vf, r.ra, r.round / 256, r.round % 16 + 1, []⟩)
  | [(key, x)] => x.parts ≠ [] →
    ((∃ c ∈ x.parts, c.src = src) → t.mem = s.mem ∧ t.rounds = s.rounds ∧ Answered s t p 4) ∧
    ((∀ c ∈ x.parts, c.src ≠ src) → (∃ c ∈ x.parts, ¬same c) → t.mem = s.mem ∧ t.rounds = s.rounds ∧ Answered s t p 5) ∧
    ((∀ c ∈ x.parts, c.src ≠ src) → (∀ c ∈ x.parts, same c) → x.parts.length + 1 < x.exp → joins key x) ∧
    ((∀ c ∈ x.parts, c.src ≠ src) → (∀ c ∈ x.parts, same c) → x.exp ≤ x.parts.length + 1 → full key (x.parts ++ [new]))
  | _ => True

/-- A contribution that is not held back: its round is found or can be opened, and is not yet full or can be applied. -/
def MayContribute (s : State) (vf : Nat) (p : Packet) : Prop :=
  let r := Req.of p.head
  let run := s.targetRun p vf
  let goes := fun (parts : List Contrib) =>
    targetMeets s run vf (parts.flatMap (fun c => (Req.of c.pkt.head).access)) = (.ok, 0) ∧
    ∀ c ∈ parts, FlagFree s run (Req.of c.pkt.head)
  match s.rounds.filter (fun x => x.2.vf == vf && x.2.ra == r.ra && x.2.round == r.round / 256) with
  | [] => s.rounds.length < 256 ∧ (r.round % 16 = 0 → goes [⟨uv p.head.src, p⟩])
  | [(_, x)] => x.parts ≠ [] ∧ (x.exp ≤ x.parts.length + 1 → goes (x.parts ++ [⟨uv p.head.src, p⟩]))
  | _ => False

/-- Offset and length of packet j of a copy of n bytes to an address: of more than 4096 bytes each packet ends where the target passes a
multiple of 4096 (spec/25_link.md R417, R443). -/
def packetOf (ra n j : Nat) : Nat × Nat :=
  let start := if j = 0 then 0 else 4096 * j - ra % 4096
  if n ≤ 4096 then (0, n) else (start, min n (4096 * (j + 1) - ra % 4096) - start)

end Sys2Proof

section
open Sys2Proof Machine

/-- R437 to R441, R451: RST, RLD, RRED, RATOM and RCPY append a remote operation with the operands of their registers; what they
get wrong traps: ADDRERR (5) for an operand, HNDERR (6), BARERR (7), LINKERR (18) with the device for one that cannot be
reached. A compare and swap whose run of registers passes S31 is ILLOP (0) at issue (notes/assumptions/28.md), and a device that is not one of
the run is ADDRERR (notes/assumptions/48.md). The operands of RATOM are read as it is sent (notes/assumptions/113.md). RWAIT waits for the remote operations that its handle held at issue, in deterministic mode as they stood when its quantum began
(spec/11_group.md R231, notes/assumptions/100.md); with the status form it reads the accumulated status into two S registers and clears
it. -/
def Obligations.RemoteWordsAppendTheirOperation : Prop :=
  ∀ (s : State) (n : Nat) (w : Wave),
    (∀ (f : FxOp) (i : Instr) (col : Nat), RemoteWord f i col → Issues s n w i →
      let r := remoteOp w f col
      let slot := BitVec.ofNat 32 s.chain.slot
      let fits := ¬(col = 3 ∧ r.aop = 12 ∧ 27 < f.sbase.toNat)
      let whole := col = 3 → r.aop = 12 → ∀ p ∈ w.pend, p.1 ≠ .s (f.sbase.toNat + 4)
      let run := fits ∧ whole
      let permitted := col = 4 → r.src.win = false → (s.hdr w.kern).forbids r.src.addr r.len false = false
      let isOpen := (w.getH f.hnd.toNat).st ≠ .retired
      let lost := r.target ≠ s.dev ∧ (s.peer r.target).map (·.reach) = some .unreachable
      (¬fits → exec i s = .next (turnAway n (.trap 0 slot) s)) ∧
      (fits → ¬whole → exec i s = .next (turnAway n .pend s)) ∧
      (run → ¬RemoteLegal s w f r → exec i s = .next (turnAway n (.trap 5 slot) s)) ∧
      (run → RemoteLegal s w f r → ¬permitted → exec i s = .next (turnAway n (.trap 16 slot) s)) ∧
      (run → RemoteLegal s w f r → permitted → ¬isOpen →
        exec i s = .next (turnAway n (.trap 6 (BitVec.ofNat 32 f.hnd.toNat)) s)) ∧
      (run → RemoteLegal s w f r → permitted → isOpen → ∀ b, f.bar = some b → ¬BarrierNamed s w f.bar →
        exec i s = .next (turnAway n (.trap 7 (BitVec.ofNat 32 b.toNat)) s)) ∧
      (run → RemoteLegal s w f r → permitted → isOpen → BarrierNamed s w f.bar → lost →
        exec i s = .next (turnAway n (.trap 18 (BitVec.ofNat 32 r.target)) s)) ∧
      (run → RemoteLegal s w f r → permitted → Takes w f.hnd.toNat → BarrierNamed s w f.bar → ¬lost →
        ∃ t, exec i s = .next t ∧ SameMemory s t ∧ Pushes s t n w f.hnd.toNat true (.remote r) (f.bar.map (·.toNat))
          (if r.ret then [.s r.dreg] else []))) ∧
    (∀ (st : Bool) (r : SReg) (h : HReg), Issues s n w (.rwait st r h) → w.hold = none →
      let q := w.seqAt (w.getH h.toNat).seq
      let ids := q.entries.filterMap (fun e => match e.k with
        | .remote _ => some e.id
        | _ => none)
      let seen := ∀ id ∈ ids, performed s n w id = true ∧ w.saw id = true
      ((w.getH h.toNat).st = .retired → exec (.rwait st r h) s = .next (turnAway n (.trap 6 (BitVec.ofNat 32 h.toNat)) s)) ∧
      ((w.getH h.toNat).st ≠ .retired → ¬seen →
        exec (.rwait st r h) s = .next (turnAway n (.wait ids) s)) ∧
      ((w.getH h.toNat).st ≠ .retired → seen →
        (st = false → exec (.rwait st r h) s = .next (s.issued n (w.onward s))) ∧
        (st = true → ∃ ss qs, exec (.rwait st r h) s = .next (s.issued n { w.onward s with s := ss, seqs := qs }) ∧
          (∀ j, NMap.get 0 ss j = if j = r.toNat then
              BitVec.ofNat 32 (uv q.acc.n + uv q.acc.x * 2 ^ 16 + q.acc.code * 2 ^ 24)
            else if j = r.toNat + 1 then BitVec.ofNat 32 q.acc.bytes else w.getS j) ∧
          ∀ j, Tbl.find qs j = (Tbl.find w.seqs j).map (fun x =>
            if j = (w.getH h.toNat).seq then { x with acc := {} } else x))))

/-- R127, R257, R275, R278, R330, R331, R432, R439, R443 to R450: DELIVER performs the oldest packet of a channel. The data of a store or of a
packet of a copy reach memory and then its flag is raised, a word or a barrier; a load is answered with what it reads, an atomic reads
and writes its word once; a contribution joins its round, and the last one applies it in the order of the sources; a pass
reaches its receiver's pass table; halo values and step counts reach the halo store. An access to an absent page is parked. What cannot be
performed yet changes nothing (notes/assumptions/1.md). WAIT_NOTICE_TIMER asks the source to wait. PARKED_COMPLETE performs a parked
access, or ends it with FAULT. RCPY_PACKET reads and sends the next packet of a copy. ACK completes an operation whose packets are all
answered: a load writes the window, in deterministic mode at a round boundary of its team (R453), an atomic its S register. A reply's
data and a round's sums are each one step here (notes/assumptions/121.md), a pass to a wave that is DONE or to a run that has ended is answered 3
(notes/assumptions/108.md), and the options of a copy's flag go with its last packet (notes/assumptions/112.md). An access
that a page's permission denies is parked with its record, and ends with FAULT where it stands (notes/assumptions/68.md). -/
def Obligations.PacketsArePerformedAndAcknowledged : Prop :=
  ∀ (s : State),
    (∀ ch, Tbl.find s.channels ch = none ∨ (∃ c, Tbl.find s.channels ch = some c ∧ c.pkts = []) ∨ (∃ x ∈ s.parked, x.chan = ch) →
      exec (.deliver ch) s = .next s) ∧
    (∀ ch c p rest, Foremost s ch c p rest →
      let r := Req.of p.head
      let popped := fun (t : State) => (Tbl.find t.channels ch).map (·.pkts) = some rest
      (skipped c p = true → ∃ t, exec (.deliver ch) s = .next t ∧ popped t ∧ t.mem = s.mem ∧ Answered s t p 6) ∧
      (skipped c p = false → s.localVf p = none → ∃ t, exec (.deliver ch) s = .next t ∧ popped t ∧ t.mem = s.mem ∧ Answered s t p 2) ∧
      (skipped c p = true ↔ uv p.head.kind = 2 ∧ r.col = 4 ∧ c.skip = some (r.ra, p.op.map (·.1)))) ∧
    (∀ ch c p rest vf, Oldest s ch c p rest vf →
      let r := Req.of p.head
      let popped := fun (t : State) => (Tbl.find t.channels ch).map (·.pkts) = some rest
      let run := s.targetRun p vf
      let meets := targetMeets s run vf r.access
      (Requests s vf p → NoPlanRuns s → meets = (.ok, 0) →
        ∃ t, exec (.deliver ch) s = .next t ∧ popped t ∧ RequestDone s t vf p) ∧
      (uv p.head.kind = 2 → r.col = 2 → NoPlanRuns s → meets = (.ok, 0) → MayContribute s vf p →
        ∃ t, exec (.deliver ch) s = .next t ∧ popped t ∧ Contributes s t vf p) ∧
      (uv p.head.kind = 2 → ∀ g acc, meets = (.fault g, acc) → s.parked.length < 256 →
        s.hasRoom vf g acc = true → ∃ t, exec (.deliver ch) s = .next t ∧ popped t ∧ t.mem = s.mem ∧
          t.parked = s.parked ++ [{ chan := ch, pkt := p, vf := vf, page := g, forbid := (s.pageOf vf g).usable }]) ∧
      (uv p.head.kind = 2 → meets.1 = .waits ∨ (∃ g, meets.1 = .fault g ∧ (256 ≤ s.parked.length ∨ s.hasRoom vf g meets.2 = false)) ∨
          (r.flg = 2 ∧ run = .absent ∧ (r.col = 0 ∨ r.col = 4) ∧ meets = (.ok, 0)) →
        exec (.deliver ch) s = .next s) ∧
      (uv p.head.kind = 5 →
        let recv := natAt p.head.payload 0 8
        let key := BitVec.ofNat 16 (natAt p.head.payload 8 2)
        let rec1 : PassRec := ⟨uv p.head.src, recv, key, some (uv p.head.tag), p.head.gen⟩
        (run = .absent → exec (.deliver ch) s = .next s) ∧
        (run = .past → ∃ t, exec (.deliver ch) s = .next t ∧ popped t ∧ t.teams = s.teams ∧ Answered s t p 3) ∧
        (∀ k x tm, run = .run k → s.teamOf k recv = some (x, tm) → s.team x = some tm →
          let late := (s.waveAt k recv).map (fun y => y.2.st) = some .done
          (tm.st = .pending → exec (.deliver ch) s = .next s) ∧
          (tm.st ≠ .pending → late → ∃ t, exec (.deliver ch) s = .next t ∧ popped t ∧ t.teams = s.teams ∧ Answered s t p 3) ∧
          (tm.st ≠ .pending → (s.waveAt k recv).isSome = true → ¬late → passRoom s k tm rec1 = true →
            ∃ t, exec (.deliver ch) s = .next t ∧ popped t ∧ t.mem = s.mem ∧ Answered s t p 0 ∧
              t.team x = some { tm with passes := tm.passes ++ [rec1] }) ∧
          (tm.st ≠ .pending → (s.waveAt k recv).isSome = true → ¬late → passRoom s k tm rec1 = false →
            exec (.deliver ch) s = .next s))) ∧
      ((uv p.head.kind = 6 ∨ uv p.head.kind = 7) →
        (run = .absent → exec (.deliver ch) s = .next s) ∧
        (run = .past → ∃ t, exec (.deliver ch) s = .next t ∧ popped t ∧ t.kernels = s.kernels ∧ Answered s t p 0)) ∧
      (∀ k kn, run = .run k → s.kern k = some kn → uv p.head.kind = 6 →
        let idx := natAt p.head.payload 0 8
        let bank := natAt p.head.payload 8 4 % 2
        let n := natAt p.head.payload 12 4
        let size := 4 + 4 * kn.hdr.pubs.length
        let cell := fun i => natAt p.data (size * i) 4
        (∀ i j, i < n → j < n → cell i = cell j → i = j) →
        ∃ t, exec (.deliver ch) s = .next t ∧ popped t ∧ t.mem = s.mem ∧ Answered s t p 0 ∧
          ∀ i d j v, i < n → d ∈ kn.readingDies s.dev (idx * kn.hdr.cells + cell i) → kn.hdr.pubs[j]? = some v →
            ∃ x, (t.kern k).bind (fun y => y.haloOf d idx) = some x ∧
              NMap.get 0 x.bank (64 * cell i + 2 * v + bank) = BitVec.ofNat 32 (natAt p.data (size * i + 4 + 4 * j) 4)) ∧
      (∀ k kn, run = .run k → s.kern k = some kn → uv p.head.kind = 7 →
        let idx := natAt p.head.payload 0 8
        let step := BitVec.ofNat 32 (natAt p.head.payload 8 4)
        ∃ t, exec (.deliver ch) s = .next t ∧ popped t ∧ t.mem = s.mem ∧ Answered s t p 0 ∧
          ∀ f d, f < kn.hdr.cells → d ∈ kn.readingDies s.dev (idx * kn.hdr.cells + f) →
            ∃ x, (t.kern k).bind (fun y => y.haloOf d idx) = some x ∧ x.dispatched = true ∧
              (natAt p.head.payload 12 1 % 2 = 0 → x.step = step) ∧
              (natAt p.head.payload 12 1 % 2 = 1 → ∀ g, g < 512 → (natAt p.head.payload 16 64).testBit g = true →
                Tbl.find x.exits g = some step))) ∧
    (∀ ch, (∀ x ∈ s.parked, x.chan ≠ ch) → exec (.waitNoticeTimer ch) s = .next s ∧ exec (.parkedComplete ch) s = .next s) ∧
    (∀ ch x, s.parked.find? (fun y => y.chan == ch) = some x →
      (uv x.pkt.head.src ≠ s.dev → exec (.waitNoticeTimer ch) s = .next (s.xmitPair (uv x.pkt.head.src) (pairFlit 9 x.pkt 0))) ∧
      (uv x.pkt.head.src = s.dev → exec (.waitNoticeTimer ch) s = .next s) ∧
      (∀ c, s.ctx x.vf = some c →
        let rest := s.parked.filter (fun y => y.chan != ch)
        let r := Req.of x.pkt.head
        let serviced := (c.page x.page).st ≠ .fetching ∧ ¬(x.forbid = true ∧ s.recorded x.vf x.page = true)
        let meets := targetMeets s (s.targetRun x.pkt x.vf) x.vf r.access
        let ends := fun g => g = x.page ∧ (if (c.page g).usable = true then x.forbid = true else (c.page g).noback = true)
        (¬serviced → exec (.parkedComplete ch) s = .next s) ∧
        (serviced → s.localVf x.pkt = some x.vf → uv x.pkt.head.src ≠ s.dev → uv x.pkt.head.kind = 2 →
          (Requests s x.vf x.pkt → NoPlanRuns s → meets = (.ok, 0) →
            ∃ t, exec (.parkedComplete ch) s = .next t ∧ t.parked = rest ∧ RequestDone s t x.vf x.pkt) ∧
          (r.col = 2 → NoPlanRuns s → meets = (.ok, 0) → MayContribute s x.vf x.pkt →
            ∃ t, exec (.parkedComplete ch) s = .next t ∧ t.parked = rest ∧ Contributes s t x.vf x.pkt) ∧
          (meets.1 = .waits → exec (.parkedComplete ch) s = .next s) ∧
          (∀ g acc, meets = (.fault g, acc) → ends g →
            ∃ t, exec (.parkedComplete ch) s = .next t ∧ t.parked = rest ∧ t.mem = s.mem ∧ Answered s t x.pkt 1) ∧
          (∀ g acc, meets = (.fault g, acc) → ¬ends g → s.hasRoom x.vf g acc = true →
            ∃ t, exec (.parkedComplete ch) s = .next t ∧ t.mem = s.mem ∧
              t.parked = rest ++ [{ x with page := g, forbid := (c.page g).usable }])))) ∧
    (∀ i o r m w, s.op i = some o → o.k = .remote r → o.marks.head? = some m → s.wave m.wave = some w →
      (r.col = 4 → o.st = .running → (r.dropped = false ∧ r.sent < r.count) → s.handedRuns o.vf = true →
        let p := packetOf r.ra r.len r.sent
        let a := r.src.addr + p.1 + r.data.length
        let n := p.2 - r.data.length
        let lost := r.target ≠ s.dev ∧ (s.peer r.target).map (·.reach) = some .unreachable
        (lost → ∃ t, exec (.rcpyPacket i) s = .next t ∧ SameMemory s t ∧
          t.op i = some { o with k := .remote { r with sent := r.sent + 1, data := [], done := NMap.put r.done r.sent (some 7) } }) ∧
        (¬lost → r.src.win = false → n ≠ 0 → s.meet o.vf a n false = .waits → exec (.rcpyPacket i) s = .next s) ∧
        (¬lost → r.src.win = false → n ≠ 0 → ∀ g, s.meet o.vf a n false = .fault g → s.hasRoom o.vf g 1 = true →
          ∃ t, exec (.rcpyPacket i) s = .next t ∧ t.mem = s.mem ∧
            t.op i = some { o with k := .remote { r with dropped := true, data := [] } }) ∧
        (¬lost → (r.src.win = true ∨ n = 0 ∨ s.meet o.vf a n false = .ok) →
          let data := r.data ++ (if r.src.win then readWin s o.team a n else (s.vread o.vf a n).getD [])
          let k := o.packet r i ((w.seqAt m.seq).tag.getD 0) (s.seqGen o.vf (w.seqAt m.seq)) r.sent data
          (s.accepts r.target k = false → exec (.rcpyPacket i) s = .next s) ∧
          (s.accepts r.target k = true →
            ∃ t, exec (.rcpyPacket i) s = .next t ∧ SameMemory s t ∧
              t.op i = some { o with k := .remote { r with sent := r.sent + 1, data := [] } } ∧
              (r.target ≠ s.dev → (s.peer r.target).isSome = true → r.ra + p.1 < 2 ^ 57 →
                ∃ y, t.peer r.target = some y ∧ ∃ x ∈ y.out, x.pkt.data = data ∧ uv x.pkt.head.kind = 2 ∧
                  (Req.of x.pkt.head).col = 4 ∧ (Req.of x.pkt.head).ra = r.ra + p.1 ∧ (Req.of x.pkt.head).len = p.2 ∧
                  ((Req.of x.pkt.head).flg = if r.sent + 1 = r.count then r.opts % 64 / 16 else 0))))) ∧
      (o.st ≠ .running → exec (.rcpyPacket i) s = .next s ∧ exec (.ack i) s = .next s) ∧
      (r.past = false → exec (.ack i) s = .next s) ∧
      (o.st = .running → r.past = true → o.bar = none → (∀ x ∈ o.marks, ∀ y, s.wave x.wave = some y → y.st ≠ .draining) →
        NoneStarted s → (∀ j, j < r.sent → NMap.get none r.done j = some 0) → r.dropped = false → ∀ tm, s.team o.team = some tm →
        ((s.hdr o.kern).det = true → r.col = 1 → tm.turn ≠ (s.hdr o.kern).waves + 1 → exec (.ack i) s = .next s) ∧
        (((s.hdr o.kern).det = true → r.col = 1 → tm.turn = (s.hdr o.kern).waves + 1) →
        ∃ t y, exec (.ack i) s = .next t ∧ t.op i = none ∧ t.wave m.wave = some y ∧ Left t m.wave m.id ∧ t.mem = s.mem ∧
          (r.col = 1 → ∀ k a, windowByte t k a = if k = o.team ∧ r.src.addr ≤ a ∧ a < r.src.addr + r.reply.length
            then r.reply.getD (a - r.src.addr) 0 else windowByte s k a) ∧
          (r.col ≠ 1 → ∀ k a, windowByte t k a = windowByte s k a) ∧
          (r.col = 3 → r.ret = true → y.getS r.dreg = BitVec.ofNat 32 (natOf r.reply)))))

end

namespace Sys2Proof
open Machine

/-! ## Swage (spec/28_swage.md) -/

/-- A plan address that a word may name (R471). -/
def PlanAddress (x : BitVec 64) : Prop := uv x < 2 ^ 57 ∧ uv x % 4096 = 0

/-- The key of the plan that a wave names by an address. -/
def planAt (s : State) (w : Wave) (x : BitVec 64) : Nat := planKey (s.kernVf w.kern) (uv x % 2 ^ 57)

/-- In S registers from n up stand the given words. -/
def FourWords (w : Wave) (ss : NMap Word) (n : Nat) (x : Nat → Word) : Prop :=
  ∀ j, NMap.get 0 ss j = if n ≤ j ∧ j < n + 4 then x (j - n) else w.getS j

/-- Segment k of a plan's own has been performed. -/
def segmentPast (p : Plan) (k : Nat) : Prop := k < p.cursor ∨ p.donemask.getLsbD (k - p.cursor) = true

end Sys2Proof

section
open Sys2Proof Machine

/-- R464, R471, R475: SWPLAN checks its addresses (ADDRERR) and its area (EXTFLT), and waits for the older entries on its records, in
deterministic mode as they stood when its quantum began (notes/assumptions/100.md); it answers a status at once where it makes no
plan, and else waits while the plan is generated. WRITTEN leaves the plan in memory, PLANNED, and the wave then reads 0 and the
plan's size; where the wave generates none it changes nothing (notes/assumptions/1.md). SWSTAT reads the progress fields of a plan, of the
units' header while they work on it and else of the one in memory (notes/assumptions/50.md), and waits where none can be read
(notes/assumptions/53.md). -/
def Obligations.SwagePlansAreGeneratedAndRead : Prop :=
  ∀ (s : State) (n : Nat) (w : Wave),
    (∀ (r q : SReg), Issues s n w (.swplan r q) →
      let k := r.toNat
      let at_ := w.getS64 (k + 2)
      let size := uv (w.getS q.toNat)
      let recs := [(uv (w.getS k), 128), (uv (w.getS (k + 1)), 128)]
      let placed := PlanAddress at_ ∧ ∀ x ∈ recs, x.1 % 16 = 0 ∧ x.1 + 128 ≤ (s.hdr w.kern).window
      let area := planArea (s.hdr w.kern) (uv at_ % 2 ^ 57) (max size 1) = true
      let ids := olderOn s n w recs
      let seen := ∀ id ∈ ids, performed s n w id = true ∧ w.saw id = true
      let mine := fun (x : Plan) => Tbl.find s.plans (planAt s w at_) = some x ∧ x.st = 6 ∧ x.wave = some n
      (¬placed → exec (.swplan r q) s = .next (turnAway n (.trap 5 (BitVec.ofNat 32 s.chain.slot)) s)) ∧
      (placed → ¬area → exec (.swplan r q) s = .next (turnAway n (.trap 16 (BitVec.ofNat 32 s.chain.slot)) s)) ∧
      (placed → area → w.hold = none → (∀ x, ¬mine x) → ¬seen → exec (.swplan r q) s = .next (turnAway n (.wait ids) s)) ∧
      (placed → area → w.hold = none → (∀ x, ¬mine x) → seen →
        (∀ st x, swplanAnswer k size s w = (st, x, none) → ∃ ss, exec (.swplan r q) s =
            .next (s.issued n { w.onward s with s := ss }) ∧ ∀ j, NMap.get 0 ss j =
              if j = k then BitVec.ofNat 32 st else if j = k + 1 ∧ x ≠ none then BitVec.ofNat 32 (x.getD 0) else w.getS j) ∧
        (∀ st x p, swplanAnswer k size s w = (st, x, some p) → ∃ t y, exec (.swplan r q) s = .next t ∧ t.wave n = some y ∧
            y.st = .waiting ∧ y.pc = w.pc ∧ t.mem = s.mem ∧
            Tbl.find t.plans (planAt s w at_) = some { p with st := 6, wave := some n })) ∧
      (placed → area → ∀ x, w.hold = none → mine x → exec (.swplan r q) s = .next (turnAway n (.wait ids) s)) ∧
      (placed → area → ∀ h, w.hold = some h → h.pkt ≠ [] → ∃ t ss, exec (.swplan r q) s = .next t ∧
        t.wave n = some { w.onward s with s := ss } ∧ t.mem = s.mem ∧ (∀ j, NMap.get 0 ss j =
          if j = k then 0 else if j = k + 1 then BitVec.ofNat 32 (natOf h.pkt) else w.getS j))) ∧
    (∀ key p, s.plans.find? (fun x => x.2.st == 6 && x.2.wave == some n) = some (key, p) →
      let bs := ({ p with st := 1 } : Plan).header ++ p.bytes
      NoPlanRuns s → s.guarded p.vf (key % 2 ^ 57) bs.length = false →
      ∃ t, exec (.written n) s = .next t ∧ t.mem = (s.vwrite p.vf (key % 2 ^ 57) bs).mem ∧
        Tbl.find t.plans key = some { p with st := 1, wave := none, bytes := [] } ∧
        (∀ x h, s.wave n = some x → x.hold = some h →
          t.wave n = some { x with hold := some { h with pkt := bytesOf 4 (0x1040 + 32 * p.nseg) } }) ∧
        ∀ k a, windowByte t k a = windowByte s k a) ∧
    ((∀ x ∈ s.plans, x.2.st ≠ 6 ∨ x.2.wave ≠ some n) → exec (.written n) s = .next s) ∧
    (∀ r : SReg, Issues s n w (.swstat r) →
      let at_ := w.getS64 r.toNat
      (¬PlanAddress at_ → exec (.swstat r) s = .next (turnAway n (.trap 5 (BitVec.ofNat 32 s.chain.slot)) s)) ∧
      (PlanAddress at_ → (s.hdr w.kern).det = false → ∀ p, planHeader s (planAt s w at_) = some p →
        ∃ ss, exec (.swstat r) s = .next (s.issued n { w.onward s with s := ss }) ∧ FourWords w ss r.toNat (fun j =>
          if j = 0 then BitVec.ofNat 32 (p.st + 256 * p.cause + 65536 * p.nsrc + 2 ^ 24 * p.self)
          else if j = 1 then BitVec.ofNat 32 p.cursor else if j = 2 then BitVec.ofNat 32 p.nown
          else BitVec.ofNat 32 p.faultseg)) ∧
      (PlanAddress at_ → planHeader s (planAt s w at_) = none → exec (.swstat r) s = .next (turnAway n (.wait []) s)) ∧
      (PlanAddress at_ → (s.hdr w.kern).det = true → (∀ p, planHeader s (planAt s w at_) = some p → p.st = 2) →
        exec (.swstat r) s = .next (turnAway n (.wait []) s)))

/-- R465, R466, R472 to R474, R478: SWGO appends the plan's operation, its area checked as far as the first segment entry
(notes/assumptions/51.md), and SWRESUME appends one or resumes the paused one at its handle's head, in deterministic mode staged. A segment that starts is the lowest own one that is neither done nor in flight, within 64 of the cursor; a
segment of this device that ends has copied its bytes, those that have not landed before word by word (notes/assumptions/52.md), is marked
done, and moves the cursor past all that are; one that is not in flight changes nothing (notes/assumptions/1.md). SWABORT stops a paused
plan. -/
def Obligations.SwagePlansRunStopAndResume : Prop :=
  ∀ (s : State),
    (∀ (n : Nat) (w : Wave) (f : FxOp),
      let at_ := w.getS64 f.sbase.toNat
      let flags := w.getS f.sparm.toNat
      let legal := PlanAddress at_ ∧ uv flags / 2 = 0
      let area := planArea (s.hdr w.kern) (uv at_ % 2 ^ 57) 0x1040 = true
      let run := fun resume => OpKind.swage {
        plan := planAt s w at_, resume := resume, rflg := flags.getLsbD 0, fteam := w.getS64 (f.sbase.toNat + 2) }
      (Issues s n w (.swgo f) → (w.getH f.hnd.toNat).st ≠ .retired → BarrierNamed s w f.bar →
        (¬legal → exec (.swgo f) s = .next (turnAway n (.trap 5 (BitVec.ofNat 32 s.chain.slot)) s)) ∧
        (legal → ¬area → exec (.swgo f) s = .next (turnAway n (.trap 16 (BitVec.ofNat 32 s.chain.slot)) s)) ∧
        (legal → area → Takes w f.hnd.toNat → ∃ t, exec (.swgo f) s = .next t ∧ SameMemory s t ∧
          Pushes s t n w f.hnd.toNat false (run false) (f.bar.map (·.toNat)) [])) ∧
      (Issues s n w (.swresume f) → (w.getH f.hnd.toNat).st ≠ .retired → BarrierNamed s w f.bar → legal → area →
        (resumedOp f s w = none → Takes w f.hnd.toNat → ∃ t, exec (.swresume f) s = .next t ∧ SameMemory s t ∧
          Pushes s t n w f.hnd.toNat false (run true) (f.bar.map (·.toNat)) []) ∧
        (∀ i o r, resumedOp f s w = some (i, o, r) → (s.hdr w.kern).det = true → ∀ tm, s.team w.team = some tm →
          ∃ t, exec (.swresume f) s = .next t ∧ SameMemory s t ∧ t.wave n = some { w.onward s with nextId := w.nextId + 1 } ∧
            t.team w.team = some { tm with stage := tm.stage ++ [⟨n, 32, w.nextId, .resume f.hnd.toNat (w.getH f.hnd.toNat).seq
              r.plan (f.bar.map (·.toNat)) (flags.getLsbD 0) (w.getS64 (f.sbase.toNat + 2))⟩] }) ∧
        (∀ i o r p, resumedOp f s w = some (i, o, r) → (s.hdr w.kern).det = false → Tbl.find s.plans r.plan = some p →
          ∃ t, exec (.swresume f) s = .next t ∧ SameMemory s t ∧ t.op i = some { o with
              st := .running, bar := f.bar.map (·.toNat), cause := 0
              k := .swage { r with rflg := flags.getLsbD 0, fteam := w.getS64 (f.sbase.toNat + 2), stat := [] } } ∧
            (Tbl.find t.plans r.plan).map (fun x => (x.st, x.cursor, x.donemask, x.faultseg)) =
              some (2, p.cursor, p.donemask, 0xFFFFFFFF)))) ∧
    (∀ (n : Nat) (w : Wave) (h : HReg), Issues s n w (.swabort h) →
      ((w.getH h.toNat).st = .retired → exec (.swabort h) s = .next (turnAway n (.trap 6 (BitVec.ofNat 32 h.toNat)) s)) ∧
      ((w.getH h.toNat).st ≠ .retired → (s.hdr w.kern).det = false →
        (swageAtHead s w (w.getH h.toNat).seq = none → exec (.swabort h) s = .next (s.issued n (w.onward s))) ∧
        (∀ i o r p, swageAtHead s w (w.getH h.toNat).seq = some (i, o, r) → o.st = .paused → Tbl.find s.plans r.plan = some p →
          ∃ t, exec (.swabort h) s = .next t ∧ t.op i = none ∧ (∀ m ∈ o.marks, Left t m.wave m.id) ∧
            (Tbl.find t.plans r.plan).map (fun x => (x.st, x.cursor, x.donemask)) = some (4, p.cursor, p.donemask) ∧
            (NoPlanRuns t → p.spoiled = [] → s.guarded p.vf (r.plan % 2 ^ 57) 64 = false →
              t.mem = (s.vwrite p.vf (r.plan % 2 ^ 57) ({ p with st := 4 } : Plan).header).mem))) ∧
      ((w.getH h.toNat).st ≠ .retired → (s.hdr w.kern).det = true → ∀ tm, s.team w.team = some tm →
        ∃ t, exec (.swabort h) s = .next t ∧ t.wave n = some { w.onward s with nextId := w.nextId + 1 } ∧ t.mem = s.mem ∧
          t.team w.team = some { tm with stage := tm.stage ++ [⟨n, 32, w.nextId, .abort (w.getH h.toNat).seq⟩] })) ∧
    (∀ i o r p c m k, s.op i = some o → o.k = .swage r → Tbl.find s.plans r.plan = some p → s.ctx o.vf = some c →
      o.marks.head? = some m → o.st = .running → s.engineRuns o.vf = true → unitsBusy s c.part < unitCount c.part →
      k < p.nown → p.cursor ≤ k → k < p.cursor + 64 → p.donemask.getLsbD (k - p.cursor) = false → (∀ x ∈ r.inflight, x.1 ≠ k) →
      (∀ j, p.cursor ≤ j → j < k → p.donemask.getLsbD (j - p.cursor) = true ∨ ∃ x ∈ r.inflight, x.1 = j) →
      ∀ g, p.segs[p.firstown + k]? = some g → g.dst = s.dev →
      (s.hdr o.kern).forbids g.m.src g.m.len false = false → (s.hdr o.kern).forbids g.m.dst g.m.len true = false →
      s.meetAll o.vf [(g.m.src, g.m.len, false), (g.m.dst, g.m.len, true)] = .ok →
      exec (.swageSegmentStart i) s = .next (s.modOp i (fun x => { x with
        k := .swage { r with inflight := r.inflight ++ [(k, c.extgen)] } }))) ∧
    (∀ i o r p k, s.op i = some o → o.k = .swage r → Tbl.find s.plans r.plan = some p → (∃ x ∈ r.inflight, x.1 = k) →
      p.cursor ≤ k → k < p.cursor + 64 → o.st = .running → p.dirty = [] → p.spoiled = [] →
      (∀ y ∈ s.plans, y.1 = r.plan ∨ (y.2.st ≠ 2 ∧ y.2.st ≠ 3)) →
      let l := NMap.get 0 r.landed k
      ∀ g, p.segs[p.firstown + k]? = some g → g.dst = s.dev →
      ∃ t o' r' p', exec (.swageSegmentDone i k) s = .next t ∧ t.op i = some o' ∧ o'.k = .swage r' ∧ o'.seg = o.seg + 1 ∧
        r'.inflight = r.inflight.filter (fun x => x.1 != k) ∧ Tbl.find t.plans r.plan = some p' ∧
        t.mem = (s.vwrite p.vf (g.m.dst + l) ((s.vread p.vf (g.m.src + l) (g.m.len - l)).getD [])).mem ∧
        (∀ j, p.cursor ≤ j → j < p.cursor + 64 → (segmentPast p' j ↔ segmentPast p j ∨ j = k)) ∧
        p'.donemask.getLsbD 0 = false) ∧
    (∀ i o r k, s.op i = some o → o.k = .swage r → (∀ x ∈ r.inflight, x.1 ≠ k) → exec (.swageSegmentDone i k) s = .next s)

end

namespace Sys2Proof
open Machine

/-! ## Contexts (spec/23_context.md) -/

/-- The commands that a mailbox gives for a virtual function (R491). -/
inductive VfCommand (box vf : Nat) : Instr → Prop
  | rootlaunch (q : Nat) (pkt : List Byte) : VfCommand box vf (.rootlaunch box vf q pkt)
  | bind (q base logcap prio : Nat) : VfCommand box vf (.bind box vf q base logcap prio)
  | unbind (q : Nat) : VfCommand box vf (.unbind box vf q)
  | memwrite (va : Nat) (bytes : List Byte) : VfCommand box vf (.memwrite box vf va bytes)
  | allowanceSet (amount : Nat) : VfCommand box vf (.allowanceSet box vf amount)
  | create (parts : BitVec 4) : VfCommand box vf (.create box vf parts)
  | ctxConfigure (slice grace qtime : Nat) : VfCommand box vf (.ctxConfigure box vf slice grace qtime)
  | ctxread : VfCommand box vf (.ctxread box vf)
  | imgread : VfCommand box vf (.imgread box vf)
  | destroy : VfCommand box vf (.destroy box vf)
  | quench : VfCommand box vf (.quench box vf)
  | hndset (off : Word) : VfCommand box vf (.hndset box vf off)
  | fltread : VfCommand box vf (.fltread box vf)
  | runbind (peer peerVf : Nat) : VfCommand box vf (.runbind box vf peer peerVf)

/-- No two records of a table have one number. -/
def Distinct (s : State) : Prop :=
  (s.ctxs.map (·.1)).Nodup ∧ (s.queues.map (·.1)).Nodup ∧ (s.kernels.map (·.1)).Nodup ∧ (s.teams.map (·.1)).Nodup

/-- In t the context of vf is c, a command of the mailbox has been answered OK with the data, and of contexts, queues, kernels,
waves and memory nothing else has changed. -/
def CtxBecomes (s t : State) (box vf : Nat) (c : Ctx) (data : List Byte) : Prop :=
  (∀ v, t.ctx v = if v = vf then some c else s.ctx v) ∧ t.replies = s.replies ++ [⟨box, .ok, data⟩] ∧
  t.queues = s.queues ∧ t.kernels = s.kernels ∧ t.waves = s.waves ∧ t.mem = s.mem

/-- The states that QUENCH leaves (R393). -/
def MayQuench (x : CtxSt) : Prop :=
  x = .parked ∨ x = .restoring ∨ x = .running ∨ x = .yielding ∨ x = .halting

/-- The context of vf is quenched with a reason and an error class: its requests are dropped, nothing of it stands in its save area, its kernels have ended FAILED with
reason QUENCHED (7), and its queues are CLOSING, or UNBOUND where they were empty (R399). -/
def Quenched (s t : State) (vf reason cause : Nat) : Prop :=
  (t.ctx vf).map (fun c => (c.st, c.reason, c.errcause)) = some (.quenching, reason, cause) ∧
  (t.ctx vf).map (·.save) = some [] ∧
  (∀ x ∈ t.ops, x.2.vf ≠ vf) ∧
  (∀ k kn, s.kern k = some kn → kn.vf = vf → (kn.st = .translating ∨ kn.st = .dispatching ∨ kn.st = .running) →
    (t.kern k).map (fun x => (x.st, x.reason)) = some (.failed, 7) ∧ ∀ x ∈ t.waves, x.2.kern ≠ k) ∧
  ∀ q, (s.queue q).vf = vf → (s.queue q).st ≠ .unbound →
    (t.queue q).st = if (s.queue q).ents = [] then .unbound else .closing

/-- The handle register of a context image (spec/14_handle.md R269): ST in bits 1:0, SEQ from bit 2, TAG from bit 14, TV in
bit 24. -/
def ImageHandle (w : Wave) (n x : Nat) : Prop :=
  let h := w.getH n
  let tag := (w.seqAt h.seq).tag
  (h.st = .retired → x = 0) ∧
  (h.st ≠ .retired → x = ((if h.st = .gated then 1 else 2) + 4 * h.seq + 2 ^ 14 * tag.getD 0 +
    if tag = none then 0 else 2 ^ 24) % 2 ^ 32)

/-- A number stands in the bytes at an offset, in n bytes. -/
def HasField (bs : List Byte) (off n x : Nat) : Prop := natAt bs off n = x % 2 ^ (8 * n)

end Sys2Proof

section
open Sys2Proof Machine

/-- R390, R391, R393, R396, R399, R410, R413, R432, R433, R435, R484, R491 and R349: the commands of a context. While an earlier command of
the mailbox is not answered a command is not carried out yet, and nothing changes (notes/assumptions/1.md). Before service
they are refused (notes/assumptions/54.md), in MINIMAL answered MINIMAL, and for another virtual function NOTOWN. CREATE makes a PARKED
context; CTX_CONFIGURE sets its times in their ranges; CTXREAD, IMGREAD and FLTREAD return its record, its images and its escalation record;
HNDSET sets HANDLER, RUNBIND maps a peer's virtual function, ALLOWANCE_SET the token allowance. QUENCH kills it and zeroes its save area,
RESETDONE makes it FAILED, DESTROY DRAINING, and CONTEXT_DRAINED frees it (notes/assumptions/72.md) with its frames and its save area
zeroed (notes/assumptions/56.md). That an image begins with the H, the I and the D registers in the order of their numbers is the
model's choice (notes/assumptions/44.md). EVTREAD returns the event records of the whole ring (notes/assumptions/77.md). -/
def Obligations.ContextsAreMadeReadAndTornDown : Prop :=
  ∀ (s : State) (box vf : Nat),
    (∀ i, VfCommand box vf i → ¬MailFree s box → exec i s = .next s) ∧
    (∀ i, VfCommand box vf i → MailFree s box →
      (s.hearth.stage = .minimal → exec i s = .next (replied s box .minimal [])) ∧
      (s.hearth.stage = .reset ∨ s.hearth.stage = .verify ∨ s.hearth.stage = .remap →
        exec i s = .next (replied s box .refused [])) ∧
      (s.hearth.stage = .reduced ∨ s.hearth.stage = .full → box ≠ vf ∨ 16 ≤ vf →
        exec i s = .next (replied s box .notown []))) ∧
    (Commands s box vf →
      let c := (s.ctx vf).getD {}
      let badarg : Host.Outcome State Fault Refusal := .next (replied s box .ctxbadarg [])
      (∀ parts, (¬(c.st = .free ∧ parts ∈ s.hearth.parts) → exec (.create box vf parts) s = badarg) ∧
        (c.st = .free → parts ∈ s.hearth.parts → ∃ t, exec (.create box vf parts) s = .next t ∧
          CtxBecomes s t box vf { st := .parked, part := parts, gen := c.gen, slice := 1000, grace := 200, qtime := 2000
                                  handler := 0xFFFFFFFF, nextKid := 1, reduced := s.hearth.stage == .reduced
                                  key := Config.contextKey s.tick } [])) ∧
      (∀ slice grace qtime,
        let legal := c.st = .parked ∧ 100 ≤ slice ∧ slice ≤ 100000 ∧ 10 ≤ grace ∧ 2 * grace ≤ slice ∧ 100 ≤ qtime ∧
          qtime ≤ 100000
        (¬legal → exec (.ctxConfigure box vf slice grace qtime) s = badarg) ∧
        (legal → ∃ t, exec (.ctxConfigure box vf slice grace qtime) s = .next t ∧
          CtxBecomes s t box vf { c with slice := slice, grace := grace, qtime := qtime } [])) ∧
      (∃ bs, exec (.ctxread box vf) s = .next (replied s box .ok bs) ∧ bs.length = 64 ∧
        [CtxSt.free, .parked, .restoring, .running, .yielding, .halting, .quenching, .failed, .draining][natAt bs 0 1]? =
          some c.st ∧
        HasField bs 1 1 vf ∧ HasField bs 2 1 (uv c.part) ∧ HasField bs 3 1 c.reason ∧ HasField bs 4 4 c.slice ∧
        HasField bs 8 4 c.grace ∧ HasField bs 12 4 c.qtime ∧ HasField bs 16 4 c.debt ∧ HasField bs 20 4 c.credit ∧
        HasField bs 24 4 (uv c.savegen) ∧ HasField bs 28 4 (uv c.turns) ∧ HasField bs 32 8 (uv c.erraddr) ∧
        HasField bs 40 4 c.errcause) ∧
      (∃ bs, exec (.fltread box vf) s = .next (replied s box .ok bs) ∧ bs.length = 32 ∧
        HasField bs 0 4 (uv c.esc.kid) ∧ HasField bs 4 4 (uv c.esc.pc) ∧ HasField bs 8 8 (uv c.esc.wid) ∧
        HasField bs 16 8 (uv c.esc.cause) ∧ HasField bs 24 4 (uv c.esc.arg) ∧ HasField bs 28 1 (if c.esc.hm then 1 else 0)) ∧
      ((c.st ≠ .parked → exec (.imgread box vf) s = badarg) ∧
        (c.st = .parked → ∃ (t : State) (images : List (List Byte)), exec (.imgread box vf) s = .next t ∧
          t.replies = s.replies ++ [⟨box, .ok, images.flatten⟩] ∧ t.mem = s.mem ∧ t.waves = s.waves ∧
          let ws : List (Nat × Wave) := s.waves.filter (fun w => s.kernVf w.2.kern == vf)
          images.length = ws.length ∧ ∀ (j : Nat) (x : Nat × Wave) (y : List Byte), ws[j]? = some x → images[j]? = some y →
            (∀ n, n < 16 → ImageHandle x.2 n (natAt y (4 * n) 4)) ∧
            (∀ n, n < 8 → HasField y (64 + 12 * n) 4 (uv (x.2.getI n).stride) ∧ HasField y (68 + 12 * n) 4 (uv (x.2.getI n).base) ∧
              HasField y (72 + 12 * n) 4 (uv (x.2.getI n).len)) ∧
            ∀ n, n < 8 → HasField y (160 + 12 * n) 4 (uv (x.2.getD n).base) ∧ HasField y (164 + 12 * n) 4 (uv (x.2.getD n).pitch) ∧
              HasField y (168 + 12 * n) 2 (uv (x.2.getD n).rows) ∧ HasField y (170 + 12 * n) 2 (uv (x.2.getD n).fmt))) ∧
      (∀ off, (c.st = .free → exec (.hndset box vf off) s = badarg) ∧
        (c.st ≠ .free → ∃ t, exec (.hndset box vf off) s = .next t ∧ CtxBecomes s t box vf { c with handler := off } [])) ∧
      (∀ peer pvf, (¬(peer < s.devs ∧ pvf < 16 ∧ peer ≠ s.dev ∧ c.st ≠ .free) → exec (.runbind box vf peer pvf) s = badarg) ∧
        (peer < s.devs → pvf < 16 → peer ≠ s.dev → c.st ≠ .free → s.peer peer ≠ none → ∃ t, exec (.runbind box vf peer pvf) s = .next t ∧
          CtxBecomes s t box vf c [] ∧ ∀ d v, (t.peer d).bind (fun p => Tbl.find p.bind v) =
            if d = peer ∧ v = pvf then some vf else (s.peer d).bind (fun p => Tbl.find p.bind v))) ∧
      (∀ n, (¬(1 ≤ n ∧ n ≤ 37500 ∧ c.st ≠ .free) → exec (.allowanceSet box vf n) s = badarg) ∧
        (1 ≤ n → n ≤ 37500 → c.st ≠ .free → ∃ t, exec (.allowanceSet box vf n) s = .next t ∧
          CtxBecomes s t box vf { c with allowance := n, balance := min c.balance (2 * n) } [])) ∧
      ((¬MayQuench c.st → exec (.quench box vf) s = badarg) ∧
        (MayQuench c.st → ∃ t, exec (.quench box vf) s = .next t ∧ Quenched s t vf 6 0 ∧
          (NoPlanRuns s → ∀ a, a / 65536 ∈ c.area → byteAt t a = 0) ∧ t.replies = s.replies ++ [⟨box, .ok, []⟩])) ∧
      ((c.st ≠ .parked → c.st ≠ .failed → exec (.destroy box vf) s = badarg) ∧
        (c.st = .parked ∨ c.st = .failed → ∃ t, exec (.destroy box vf) s = .next t ∧
          (t.ctx vf).map (·.st) = some .draining ∧ t.replies = s.replies ++ [⟨box, .ok, []⟩] ∧
          ∀ q, (s.queue q).vf = vf → (s.queue q).st ≠ .unbound →
            (t.queue q).st = if (s.queue q).ents = [] then .unbound else .closing))) ∧
    (∀ c, s.ctx vf = some c →
      (∃ t, exec (.resetdone vf) s = .next t ∧ (∀ v, t.ctx v = if v = vf ∧ c.st = .quenching then
          some { c with st := .failed } else s.ctx v) ∧ t.mem = s.mem ∧ t.replies = s.replies) ∧
      (c.st ≠ .draining → exec (.contextDrained vf) s = .next s) ∧
      (c.st = .draining → ∃ t, exec (.contextDrained vf) s = .next t ∧ t.ctx vf = some { gen := c.gen + 1 } ∧
        (∀ x ∈ t.kernels, x.2.vf ≠ vf) ∧ (∀ x ∈ t.ops, x.2.vf ≠ vf) ∧ (∀ x ∈ t.plans, x.2.vf ≠ vf) ∧
        (∀ x ∈ t.svc, x.1 ≠ vf) ∧ (∀ q, (t.queue q).vf = vf → (t.queue q).st = .unbound) ∧
        (∀ x ∈ t.pendWrites, x.vf ≠ vf) ∧ (∀ x ∈ t.pendBinds, x.vf ≠ vf) ∧
        (∀ a, (a / 65536 ∈ c.frames ∨ a / 65536 ∈ c.area) → byteAt t a = 0) ∧
        ∀ p x, p ≠ s.dev → s.peer p = some x → (∃ b ∈ x.bind, b.2 = vf) → ∃ y, t.peer p = some y ∧
          ∃ o ∈ y.out, o.pkt.head.kind = 10 ∧ o.pkt.head.vf = BitVec.ofNat 4 vf ∧ o.pkt.head.gen = c.gen + 1)) ∧
    (¬MailFree s 16 → exec .evtread s = .next s) ∧
    (MailFree s 16 → ∃ bs, exec .evtread s = .next (replied { s with evring := [] } 16 .ok bs) ∧ bs.length = 32 * s.evring.length ∧
      ∀ (j : Nat) e, s.evring[j]? = some e → HasField bs (32 * j) 8 e.time ∧ HasField bs (32 * j + 8) 1 e.code ∧
        HasField bs (32 * j + 9) 1 e.peer ∧ HasField bs (32 * j + 10) 1 e.dir ∧ HasField bs (32 * j + 11) 1 e.active ∧
        HasField bs (32 * j + 12) 1 e.vf ∧ HasField bs (32 * j + 16) 8 (uv e.mask) ∧ HasField bs (32 * j + 24) 4 e.count ∧
        HasField bs (32 * j + 28) 4 e.lost)

end

namespace Sys2Proof
open Machine

/-! ## Turns, halts, memory blocks and errors (spec/23_context.md) -/

/-- The length of a turn in ns (R403): the slice, the credit used, less the debt. -/
def turnTime (c : Ctx) : Int := 1000 * (c.slice : Int) + min c.credit (250 * c.slice) - c.debt

/-- A slice begins: the credit used and the debt paid leave the record (R403). -/
def sliceBegun (c : Ctx) : Ctx :=
  { c with turnLen := (turnTime c).toNat, credit := c.credit - min c.credit (250 * c.slice), debt := 0 }

/-- A PARKED context of a partition that has work (R392): a RUNNING kernel, or a bound queue with an eligible head. -/
def WaitsForTurn (s : State) (part : BitVec 4) (vf : Nat) (c : Ctx) : Prop :=
  c.st = .parked ∧ c.part = part ∧
  ((∃ x ∈ s.kernels, x.2.vf = vf ∧ x.2.st = .running) ∨
   ∃ x ∈ s.queues, x.2.vf = vf ∧ (x.2.st = .opened ∨ x.2.st = .stopped) ∧
     ∃ k ks kn, x.2.ents = k :: ks ∧ s.kern k = some kn ∧ eligible s kn = true)

/-- Every operation that a halt waits for has ended (R395). -/
def HaltDone (s : State) (vf : Nat) : Prop :=
  (∀ p ∈ s.pairs, p.1 / 160 = vf → ∀ o ∈ p.2.queue, o.started = false) ∧
  ∀ o ∈ s.ops, o.2.vf = vf → o.2.within = false ∧ ∀ r, o.2.k = .swage r → r.inflight = []

/-- The queues of vf in one state are in another, and no other queue has changed. -/
def QueuesTurn (s t : State) (vf : Nat) (a b : QueueSt) : Prop :=
  ∀ q, t.queue q = if (s.queue q).vf = vf ∧ (s.queue q).st = a then { s.queue q with st := b } else s.queue q

/-- The tick's refill (R350): the allowance less a quarter of it at most for a debt, up to twice the allowance. -/
def refilled (c : Ctx) : Int := min (2 * (c.allowance : Int)) (c.balance + c.allowance - min c.tdebt (c.allowance / 4))

/-- The context is active on Tongs (R350). -/
def OnTongs (s : State) (vf : Nat) : Prop :=
  ∃ o ∈ s.ops, o.2.vf = vf ∧ o.2.k.isTongs = true ∧ (o.2.st = .queued ∨ o.2.st = .running)

end Sys2Proof

section
open Sys2Proof Machine

/-- R392, R394, R395, R398, R402 to R404, R349, R350: TURN begins the turn of the next context with work (notes/assumptions/71.md), or skips
it, which lowers its debt (notes/assumptions/79.md); SLICEEND yields to another context with work, or begins a slice; GRACE halts every team
between chains, freezes matrix operations that have not started and requeues Tongs operations; HALTED parks the context and adds its overrun
to DEBT, and 4L of it quenches; QTIMER quenches a context that does not halt. RESTORED goes on once what it needs on chip is free of others,
which go to their save areas (notes/assumptions/57.md), or quenches where a unit of the image fails its tag, with the address of the one
read first (notes/assumptions/46.md). TOKEN_TICK adds a microsecond, refills the token buckets, and lends the balance of idle contexts
(notes/assumptions/78.md). Where nothing is to be done nothing changes (notes/assumptions/1.md). -/
def Obligations.ContextsTakeTurnsAndHalt : Prop :=
  ∀ (s : State) (vf : Nat) (c : Ctx), s.ctx vf = some c →
    (∀ i, (∀ x ∈ s.ctxs, x.2.part = s.partAt i → x.2.st = .free ∨ x.2.st = .parked ∨ x.2.st = .failed ∨ x.2.st = .draining) →
      s.hearth.failing = false → s.partAt i ≠ 0 → (∀ d, d < 4 → (s.partAt i).getLsbD d = true → ∀ x, s.dies[d]? = some x → x.held = false) →
      Distinct s → WaitsForTurn s (s.partAt i) vf c →
      let rank := fun v => (v + 15 - NMap.get 15 s.lastVf i) % 16
      (∀ x ∈ s.ctxs, WaitsForTurn s (s.partAt i) x.1 x.2 → x.1 = vf ∨ rank vf < rank x.1) →
      ∃ t, exec (.turn i) s = .next t ∧ t.mem = s.mem ∧ t.waves = s.waves ∧ NMap.get 15 t.lastVf i = vf ∧
        (∀ v, v ≠ vf → t.ctx v = s.ctx v) ∧
        (turnTime c < 1000 * (c.grace : Int) → t.ctx vf = some { c with debt := c.debt - 1000 * c.slice }) ∧
        (1000 * (c.grace : Int) ≤ turnTime c → t.ctx vf = some { sliceBegun c with
          st := .restoring, turns := c.turns + 1, reduced := c.reduced && s.hearth.stage != .full })) ∧
    (∀ i, s.hearth.failing = true ∨ (∀ x ∈ s.ctxs, ¬WaitsForTurn s (s.partAt i) x.1 x.2) → exec (.turn i) s = .next s) ∧
    (let other := ∃ x ∈ s.ctxs, x.1 ≠ vf ∧ WaitsForTurn s c.part x.1 x.2
      let busy := ∃ x ∈ s.kernels, x.2.vf = vf ∧ (x.2.st = .translating ∨ x.2.st = .dispatching ∨ x.2.st = .running)
      (c.st ≠ .running → exec (.sliceend vf) s = .next s) ∧
      (c.st = .running → ¬other → exec (.sliceend vf) s = .next (s.modCtx vf sliceBegun)) ∧
      (c.st = .running → other → ∃ t x, exec (.sliceend vf) s = .next t ∧ t.ctx vf = some { c with st := x } ∧
        (busy → x = .yielding) ∧ (¬busy → x = .parked) ∧ QueuesTurn s t vf .opened .stopped ∧ t.waves = s.waves ∧
        t.teams = s.teams ∧ t.ops = s.ops ∧ t.mem = s.mem)) ∧
    ((c.st ≠ .yielding → exec (.grace vf) s = .next s) ∧
      (c.st = .yielding → NoPlanGenerating s → ∃ t, exec (.grace vf) s = .next t ∧ t.ctx vf = some { c with st := .halting } ∧
        SameMemory s t ∧
        (∀ j tm, s.team j = some tm → tm.vf = vf → ∃ x, t.team j = some x ∧ x.haltP = true ∧
          x.frozen = tm.frozen ++ ((Tbl.find s.pairs tm.pair).getD {}).queue.filter (fun o => o.team == j && !o.started) ∧
          (∀ o ∈ ((Tbl.find t.pairs tm.pair).getD {}).queue, o.team = j → o.started = true) ∧
          ∀ n w, s.wave n = some w → w.team = j → t.wave n = some { w with
            skidLeft := 0, hold := w.hold.map (fun h => { h with pkt := [] }) }) ∧
        (∀ n w tm, Distinct s → s.wave n = some w → s.team w.team = some tm → tm.vf ≠ vf → t.wave n = some w) ∧
        ∀ o x, s.op o = some x → t.op o = some (
          if x.vf = vf ∧ x.k.isTongs = true ∧ x.st = .running ∧ x.within = false then { x with st := .queued } else x))) ∧
    (∀ past, (¬(c.st = .halting ∧ HaltDone s vf) → exec (.halted vf past) s = .next s) ∧
      (c.st = .halting → HaltDone s vf → ∃ t, exec (.halted vf past) s = .next t ∧
        (c.debt + past < 4000 * c.slice → QueuesTurn s t vf .opened .stopped ∧
          t.ctx vf = some { c with st := .parked, savegen := c.savegen + 1, debt := c.debt + past }) ∧
        (4000 * c.slice ≤ c.debt + past → Quenched s t vf 2 0))) ∧
    ((c.st ≠ .halting → exec (.qtimer vf) s = .next s) ∧
      (c.st = .halting → ∃ t, exec (.qtimer vf) s = .next t ∧ Quenched s t vf 1 0)) ∧
    (∀ first, let passes := fun (x : Nat × BitVec 64) => tagOf c.key vf c.savegen x.1 (s.hbm x.1 4096) = x.2;
      (c.st ≠ .restoring → exec (.restored vf first) s = .next s) ∧
      (c.st = .restoring → (∃ x ∈ c.save, ¬passes x) → ∃ t pa, exec (.restored vf first) s = .next t ∧ Quenched s t vf 3 1 ∧
        (∃ x ∈ c.save, ¬passes x ∧ x.1 = pa) ∧
        ((∃ x ∈ c.save, ¬passes x ∧ x.1 = first) → pa = first) ∧ (t.ctx vf).map (·.erraddr) = some (BitVec.ofNat 64 pa)) ∧
      (c.st = .restoring → (∀ x ∈ c.save, passes x) → s.mayEvict vf (allNeeds s vf) = false → exec (.restored vf first) s = .next s) ∧
      (c.st = .restoring → (∀ x ∈ c.save, passes x) → s.mayEvict vf (allNeeds s vf) = true → ∃ t, exec (.restored vf first) s = .next t ∧
        t.ctx vf = some { c with st := .running, save := [], saved := [] } ∧
        ((∀ x ∈ allNeeds s vf, victims s vf x.1 x.2 = []) → SameMemory s t) ∧ QueuesTurn s t vf .stopped .opened ∧
        (∀ j tm, s.team j = some tm → tm.vf = vf → ∃ x, t.team j = some x ∧ x.haltP = false) ∧
        ∀ n w tm, s.wave n = some w → s.team w.team = some tm → tm.vf = vf → (t.wave n).map (·.age) = some 0)) ∧
    (∃ t, exec .tokenTick s = .next t ∧ t.us = s.us + 1 ∧ t.mem = s.mem ∧ t.waves = s.waves ∧ t.ops = s.ops ∧
      (c.st = .free → ¬OnTongs s vf → t.ctx vf = some c) ∧
      (c.st ≠ .free → (∀ v, v < 16 → ¬OnTongs s v) → t.ctx vf = some { c with
        balance := refilled c, tdebt := c.tdebt - min c.tdebt (c.allowance / 4)
        credit := if s.hearth.stage = .full ∧ (c.st = .running ∨ c.st = .yielding ∨ c.st = .halting) then
            min (1000 * c.slice) (c.credit + (1000 - s.lowestClock c.part / 4)) else c.credit }) ∧
      (vf < 16 → c.st ≠ .free → OnTongs s vf → (∀ v, v < 16 → v ≠ vf → ¬OnTongs s v) → refilled c ≤ 0 → refilled c + c.prioTok ≤ 0 →
        (∀ u x, u < 16 → u ≠ vf → s.ctx u = some x → x.st ≠ .free →
          (t.ctx u).map (·.balance) = some (refilled x - refilled x / 2)) ∧
        (t.ctx vf).map (·.balance) = some (refilled c + ((List.range 16).map (fun u =>
          match s.ctx u with
          | some x => if u = vf ∨ x.st = .free then 0 else refilled x / 2
          | none => 0)).sum)))

/-- R212, R215, R77, R398, R400, R401, R405, R406: BLKMOVE starts to remove a block with no page that a task pins and else answers BLKBUSY;
REMOVED starts the scrub with a shoot-down, BLKMOVE_TIMEOUT gives the block back, and SCRUBBED zeroes it behind the shoot-down, notifies the
guests that receive it and then, a second time, gives it to its new partition (notes/assumptions/73.md). A corrected error is counted, and an
uncorrectable one too (notes/assumptions/80.md); one without an intact copy quenches the contexts that have an entry in the unit
(notes/assumptions/45.md), or the one that reads its image there and no other. Where nothing is to be done, or the unit has no such
address, nothing changes (notes/assumptions/1.md). The debugger attaches, and lets a halted team go on. A wave that meets an illegal
word takes ILLOP. -/
def Obligations.BlocksMoveAndErrorsQuench : Prop :=
  ∀ (s : State),
    (∀ box blk part, ¬MailFree s box → exec (.blkmove box blk part) s = .next s) ∧
    (∀ box blk part, (s.hearth.stage = .reduced ∨ s.hearth.stage = .full) → MailFree s box →
      let b := s.blockAt blk
      let free := blk < 192 ∧ s.partAt part ≠ 0 ∧ b.st = .owned ∧ b.owner ≠ 0 ∧
        ∀ x ∈ s.kernels, ∀ g ∈ x.2.pins, ((s.ctx x.2.vf).bind (fun c => c.frame g)).map (· / 32768) ≠ some blk
      (box ≠ 16 → exec (.blkmove box blk part) s = .next (replied s box .notown [])) ∧
      (box = 16 → ¬free → exec (.blkmove box blk part) s = .next (replied s box .blkbusy [])) ∧
      (box = 16 → free → ∃ t, exec (.blkmove box blk part) s = .next t ∧ t.blockAt blk = { b with st := .removing, tgt := s.partAt part } ∧
        (∀ j, j ≠ blk → t.blockAt j = s.blockAt j) ∧ t.mem = s.mem ∧ t.ctxs = s.ctxs ∧ t.replies = s.replies)) ∧
    (∀ blk,
      let b := s.blockAt blk
      let empty := ∀ x ∈ s.ctxs, ∀ f, (f ∈ x.2.frames ∨ f ∈ x.2.dests ∨ f ∈ x.2.area) → f / 32768 ≠ blk
      let shot := fun (c : Ctx) => c.part = b.owner ∧ c.st ≠ .free
      let drained := ∀ x ∈ b.gens, s.oldInFlight x.1 x.2 = false
      (¬(b.st = .removing ∧ empty) → exec (.removed blk) s = .next s) ∧
      (b.st = .removing → empty → Distinct s → ∃ t y, exec (.removed blk) s = .next t ∧ t.blockAt blk = y ∧
        y.st = .scrubbing ∧ y.owner = b.owner ∧ y.tgt = b.tgt ∧ t.mem = s.mem ∧
        ∀ v c, s.ctx v = some c → t.ctx v = some (if shot c then { c with extgen := c.extgen + 1 } else c) ∧
          (shot c → (v, c.extgen + 1) ∈ y.gens)) ∧
      (b.st ≠ .removing → exec (.blkmoveTimeout blk) s = .next s) ∧
      (b.st = .removing → ∃ t, exec (.blkmoveTimeout blk) s = .next t ∧ t.blockAt blk = { b with st := .owned } ∧
        t.replies = s.replies ++ [⟨16, .blkbusy, []⟩] ∧ t.mem = s.mem) ∧
      ((b.st ≠ .scrubbing ∧ b.st ≠ .adding) ∨ (b.st = .scrubbing ∧ ¬drained) → exec (.scrubbed blk) s = .next s) ∧
      (b.st = .scrubbing → drained → ∃ t, exec (.scrubbed blk) s = .next t ∧ t.blockAt blk = { b with st := .adding, gens := [] } ∧
        (∀ a, byteAt t a = if a / 2 ^ 31 = blk then 0 else byteAt s a) ∧
        t.replies = s.replies ++ (s.ctxs.filter (fun x => x.2.part == b.tgt && x.2.st != .free)).map (fun x =>
          ⟨x.1, .blkadd, bytesOf 1 blk⟩)) ∧
      (b.st = .adding → ∃ t, exec (.scrubbed blk) s = .next t ∧ (t.blockAt blk).st = .owned ∧ (t.blockAt blk).owner = b.tgt ∧
        t.replies = s.replies ++ [⟨16, .ok, []⟩] ∧ t.mem = s.mem)) ∧
    (∀ u reading a,
      let counted := { s with units := Tbl.put s.units u { errors := ((Tbl.find s.units u).getD {}).errors + 1 } }
      exec (.correctedError u) s = .next counted ∧
      let here := (u < 64 → sliceOf a = u) ∧ (64 ≤ u → u < 256 → a / 2 ^ 31 + 64 = u) ∧ u ≤ 760
      let first := if u < 256 then u else if u < 260 then 256 else if u < 580 then 260 else if u < 644 then 580
        else if u < 724 then 644 else if u < 756 then 724 else if u < 760 then 756 else 760
      let addr := if u < 256 then a else u - first
      (¬here → exec (.uncorrectableError u reading a) s = .next s) ∧
      (here → intact s u a = true → exec (.uncorrectableError u reading a) s = .next counted) ∧
      (here → intact s u a = false → Distinct s → ∃ t, exec (.uncorrectableError u reading a) s = .next t ∧ t.units = counted.units ∧
        (∀ v c, reading = true → s.ctx v = some c → c.st = .restoring → (∃ x ∈ c.save, x.1 = a / 4096 * 4096) →
          (∀ x ∈ s.ctxs, x.1 ≠ v → x.2.imageUnit a = none) →
          Quenched s t v 4 2 ∧ (t.ctx v).map (·.erraddr) = some (BitVec.ofNat 64 (a / 4096 * 4096)) ∧ ∀ o, o ≠ v → t.ctx o = s.ctx o) ∧
        (reading = false ∨ (∀ x ∈ s.ctxs, x.2.imageUnit a = none) → ∀ v c, s.ctx v = some c → v < 16 →
          ((unitOwners s u).getLsbD v = true → MayQuench c.st →
            Quenched s t v 7 2 ∧ (t.ctx v).map (·.erraddr) = some (BitVec.ofNat 64 addr)) ∧
          ((unitOwners s u).getLsbD v = false → t.ctx v = some c)))) ∧
    (∀ on, exec (.debuggerAttach on) s = .next { s with dbgatt := on }) ∧
    (∀ j tm, s.team j = some tm →
      (tm.haltD = false → exec (.debuggerResume j) s = .next s) ∧
      (tm.haltD = true → ∃ t, exec (.debuggerResume j) s = .next t ∧ t.mem = s.mem ∧
        (t.team j).map (·.haltD) = some false ∧ ∀ n w, s.wave n = some w →
          t.wave n = some (if w.team = j then { w with age := 0 } else w))) ∧
    (∀ slot n w, s.waves.find? (fun p => mayTry s p.2 && !faultDue s p.2 && fetch s p.2 p.2.pc == .illegal slot) = some (n, w) →
      exec (.illop slot) s = .next (deliver n 0 (BitVec.ofNat 32 slot) w.pc 0 { s with cur := some n, chain := { pc := w.pc } }))

end

namespace Sys2Proof
open Machine

/-! ## The device (spec/30_bringup.md, spec/01_device.md) -/

/-- The device stands at a stage as after a restart (R484): every context FREE, every queue UNBOUND, no kernel, the link to
every other device in training (R422), that of a device that is not there DARK (R27), nothing in the caches and networks, and memory as
after power-on. -/
def Restarted (s t : State) (x : Stage) : Prop :=
  t.hearth.stage = x ∧ (∀ v, ((t.ctx v).map (·.st)).getD .free = .free) ∧ (∀ q, (t.queue q).st = .unbound) ∧
  t.kernels = [] ∧ t.waves = [] ∧ t.ops = [] ∧ t.mem = [] ∧ t.dev = s.dev ∧ t.devs = s.devs ∧ t.slices = [] ∧
  t.mesh = [] ∧ t.meshGot = [] ∧ t.xbar = [] ∧
  (∀ d, d ≠ s.dev → d < (if s.devs ≤ 8 then 8 else 16) →
    (t.peer d).map (·.link) = some (if d < s.devs then .training else .dark)) ∧
  (∀ d ∈ t.dies, d.mhz = 4000)

/-- A failed start with a reason (R486): it is counted, every context is quenched with STARTFAIL (9), and a restart is to come, before which
the contexts' records stand. -/
def FailedStart (s t : State) (reason : Nat) : Prop :=
  t.hearth.fails = s.hearth.fails + 1 ∧ t.hearth.reason = reason ∧ t.hearth.failing = true ∧
  ∀ v c, s.ctx v = some c → MayQuench c.st → Quenched s t v 9 0

/-- A stage at which Hearth answers commands with more than the start stage (R484, R487). -/
def InService (s : State) : Prop := s.hearth.stage = .reduced ∨ s.hearth.stage = .full ∨ s.hearth.stage = .minimal

/-- A firmware image is valid (R488): its key's hash, its signature, and its version. -/
def ValidImage (h : Hearth) (i : List Byte) : Prop :=
  let pk := (i.drop 0x10).take 64
  (Config.shake256 pk).take 32 = h.keyHash ∧ h.fuseMin ≤ natAt i 4 4 ∧
  Config.slhVerify pk (i.take 0x50 ++ (i.drop (0x50 + 29792)).take (natAt i 8 4)) ((i.drop 0x50).take 29792) = true

/-- Partitions that Hearth forms at boot (R389): one, two neighbouring or all four slices, and no slice twice. -/
def PartsOk (ps : List (BitVec 4)) : Prop :=
  (∀ p ∈ ps, uv p ∈ [1, 2, 4, 8, 3, 12, 15]) ∧ ∀ d, d < 4 → (ps.filter (fun p => p.getLsbD d)).length ≤ 1

/-- The link of a port that leads to a router of its 5 × 4 mesh: 80 × die + 4 × local index + port, the ports leading to the next
column, the one before, the next row and the one before (R24, R25). -/
def InMesh (l : Nat) : Prop :=
  let j := l / 4 % 20
  l < 320 ∧ ((l % 4 = 0 ∧ j % 5 < 4) ∨ (l % 4 = 1 ∧ 0 < j % 5) ∨ (l % 4 = 2 ∧ j / 5 < 3) ∨ (l % 4 = 3 ∧ 0 < j / 5))

/-- Both stacks of a die are in a list. -/
def BothStacks (xs : List Nat) (d : Nat) : Prop := 2 * d ∈ xs ∧ 2 * d + 1 ∈ xs

/-- What follows from u, in which a stack is trained or the remap table is written (R484 to R486): reduced service opens on the first die with
both its stacks, at 1.0 GHz, where a stack that has failed ends the start; with all stacks trained full service opens, at 4.0 GHz. -/
def Serves (u t : State) : Prop :=
  let h := u.hearth
  let serves := h.stage = .reduced ∨ (h.stage = .remap ∧ h.remap ≠ [] ∧ ∃ d, d < 4 ∧ BothStacks h.trained d)
  (¬serves → t = u) ∧
  (serves → h.broken ≠ [] → FailedStart u t 4) ∧
  (serves → h.broken = [] → h.trained.length ≠ 8 → (h.stage = .reduced → t = u) ∧
    (h.stage = .remap → t.hearth.stage = .reduced ∧ t.hearth.trained = h.trained ∧ t.mem = u.mem ∧
      ∃ d, d < 4 ∧ BothStacks h.trained d ∧ (∀ e, e < d → ¬BothStacks h.trained e) ∧
        t.hearth.parts = [BitVec.ofNat 4 (2 ^ d)] ∧ ∀ x, t.dies[d]? = some x → x.mhz = 1000)) ∧
  (serves → h.broken = [] → h.trained.length = 8 →
    t.hearth.stage = .full ∧ t.hearth.fails = 0 ∧ (∀ p ∈ h.shape, p ∈ t.hearth.parts) ∧ ∀ x ∈ t.dies, x.mhz = 4000)

end Sys2Proof

section
open Sys2Proof Machine

/-- R9, R10, R21, R22, R24, R389, R484 to R490, R492: POWER_ON and RESET start the device at RESET, where memory is as after power-on
(notes/assumptions/75.md). ROM_DONE leads to VERIFY, which checks the image but not its first four bytes (notes/assumptions/75.md), and REMAP
checks the dies and the partitions and writes the remap table; what a boot finds of these is free (notes/assumptions/102.md).
STACK_TRAINED opens reduced service on the first die with both stacks, at 1.0 GHz, and full service once all stacks are trained, which
clears the count of failed starts. HBMTRAIN, whose reasons stand in notes/assumptions/76.md, and a thermal trip during start fail the start: the
contexts are quenched, and then the device restarts, or at the third failure in a row enters MINIMAL. STATUS, ATTEST, FWLOAD and FWCOMMIT answer the
device mailbox, each once those before it are answered, and before service are refused (notes/assumptions/54.md). In full service the
clocks are halved and restored, and a trip quenches the contexts of the die. A mesh link loses a width step, and returns to
full width with four flits queued, both by a handshake at a packet boundary. A token hold of a crossbar channel sends at most four
packets of the holder in their order, and passes on; a slice answers the reads it received. REGISTER_WRITE and UCIE_EVENT have no effect
(notes/assumptions/77.md); where nothing is to be done nothing changes (notes/assumptions/1.md). -/
def Obligations.DevicesStartServeAndStop : Prop :=
  ∀ (s : State),
    (∃ t, exec .powerOn s = .next t ∧ Restarted s t .reset ∧ t.replies = [] ∧ t.hearth.loaded = none ∧
      t.hearth.stored = s.hearth.stored ∧ t.hearth.fuseMin = s.hearth.fuseMin ∧ t.hearth.fails = s.hearth.fails) ∧
    (¬MailFree s 16 → exec .reset s = .next s ∧ exec .status s = .next s ∧ exec .fwcommit s = .next s ∧
      ∀ x, exec (.fwload x) s = .next s ∧ exec (.attest x) s = .next s) ∧
    (MailFree s 16 → InService s → s.hearth.failing = false → ∃ t, exec .reset s = .next t ∧ Restarted s t .reset ∧
      t.replies = s.replies ++ [⟨16, .ok, []⟩] ∧ t.hearth.fails = s.hearth.fails) ∧
    (MailFree s 16 → ¬InService s ∨ s.hearth.failing = true → exec .reset s = .next (replied s 16 .refused [])) ∧
    (s.hearth.stage ≠ .reset ∨ s.hearth.failing = true → exec .romDone s = .next s) ∧
    (s.hearth.stage = .reset → s.hearth.failing = false →
      exec .romDone s = .next { s with hearth := { s.hearth with stage := .verify } }) ∧
    (s.hearth.failing = true → ∃ t, bootStep s = some t ∧ Restarted s t (if s.hearth.fails < 3 then .reset else .minimal) ∧
      t.hearth.fails = s.hearth.fails ∧ t.hearth.reason = s.hearth.reason ∧ t.hearth.failing = false) ∧
    (s.hearth.failing = false → s.hearth.stage = .verify →
      let h := s.hearth
      let img := if h.bootLoaded = true then h.loaded.getD h.stored else h.stored
      ∃ t, bootStep s = some t ∧ (¬ValidImage h img → FailedStart s t 1) ∧
        (ValidImage h img → t = { s with hearth := { h with stage := .remap, running := img, bootLoaded := false } })) ∧
    (s.hearth.failing = false → s.hearth.stage = .remap → s.hearth.remap = [] → bootStep s =
      some (remapStep (Config.bootClusters s.tick) (Config.bootShape s.tick) (Config.bootManaged s.tick) { s with tick := s.tick + 1 })) ∧
    (s.hearth.failing = false → s.hearth.stage ≠ .verify → s.hearth.stage ≠ .remap ∨ s.hearth.remap ≠ [] → bootStep s = none) ∧
    (∀ clusters shape managed, s.hearth.stage = .remap →
      let h := s.hearth
      let t := remapStep clusters shape managed s
      let usable := fun d => (List.range 22).filter (fun p => (clusters.getD d []).contains p)
      let dies := ∀ d, d < 4 → 20 ≤ (usable d).length
      (¬dies → FailedStart s t 2) ∧ (dies → ¬PartsOk shape → FailedStart s t 3) ∧
      (dies → PartsOk shape → Serves { s with hearth := { h with
        usable := (List.range 4).map (fun d => (usable d).length), shape := shape, parts := shape, managed := managed
        remap := (List.range 4).map (fun d => (usable d).take 20) } } t)) ∧
    (∀ k,
      let h := s.hearth
      let all := k :: h.trained.filter (fun x => x != k)
      let starting := h.failing = false ∧ (h.stage = .remap ∨ h.stage = .reduced) ∧ k < 8 ∧ k ∉ h.broken
      (¬starting → exec (.stackTrained k) s = .next s) ∧
      (starting → ∃ t, exec (.stackTrained k) s = .next t ∧ Serves { s with hearth := { h with trained := all } } t) ∧
      (h.failing = true ∨ 8 ≤ k ∨ k ∈ h.trained ∨ (h.stage ≠ .reduced ∧ h.stage ≠ .remap) → exec (.hbmtrain k) s = .next s) ∧
      (h.failing = false → k < 8 → k ∉ h.trained → h.stage = .reduced ∨ h.stage = .remap → ∃ t, exec (.hbmtrain k) s = .next t ∧
        let lost := ∀ d, d < 4 → 2 * d ∈ k :: h.broken ∨ 2 * d + 1 ∈ k :: h.broken
        (h.stage = .reduced → FailedStart s t 4) ∧ (h.stage = .remap → lost → FailedStart s t 5) ∧
        (h.stage = .remap → ¬lost → t.hearth.stage = .remap ∧ (∀ j, j ∈ t.hearth.broken ↔ j = k ∨ j ∈ h.broken)))) ∧
    (MailFree s 16 → ∃ bs, exec .status s = .next (replied s 16 .ok bs) ∧
      [Stage.reset, .verify, .remap, .reduced, .full, .minimal][natOf bs]? = some s.hearth.stage) ∧
    (MailFree s 16 → ∀ i, (¬InService s → exec (.fwload i) s = .next (replied s 16 .refused []) ∧
          exec .fwcommit s = .next (replied s 16 .refused []) ∧ exec (.attest i) s = .next (replied s 16 .refused [])) ∧
      (InService s →
        (ValidImage s.hearth i → exec (.fwload i) s =
          .next (replied { s with hearth := { s.hearth with loaded := some i, bootLoaded := true } } 16 .ok [])) ∧
        (¬ValidImage s.hearth i → exec (.fwload i) s =
          .next (replied { s with hearth := { s.hearth with loaded := none, bootLoaded := false } } 16 .fwsig [])) ∧
        (s.hearth.loaded = none → exec .fwcommit s = .next (replied s 16 .refused [])) ∧
        (s.hearth.loaded = some i → exec .fwcommit s = .next (replied { s with
          hearth := { s.hearth with stored := i, fuseMin := max s.hearth.fuseMin (natAt i 4 4) } } 16 .ok [])) ∧
        (i.length ≠ 32 → exec (.attest i) s = .next (replied s 16 .refused [])) ∧
        (i.length = 32 → exec (.attest i) s = .next { s with hearth := { s.hearth with attest := some i } }))) ∧
    (s.hearth.attest = none → exec .attestReport s = .next s) ∧
    (∀ n, s.hearth.attest = some n → ∃ r sig, exec .attestReport s =
        .next (replied { s with hearth := { s.hearth with attest := none } } 16 .ok (r ++ sig)) ∧
      r.length = 0x80 ∧ sig.length = 29792 ∧ r.take 32 = fit 32 n ∧ (r.drop 0x20).take 64 = fit 64 s.hearth.idpk ∧
      natAt r 0x60 4 = natAt s.hearth.running 4 4 ∧ HasField r 0x64 4 s.hearth.fuseMin ∧
      [Stage.reset, .verify, .remap, .reduced, .full, .minimal][natAt r 0x68 1]? = some s.hearth.stage ∧
      HasField r 0x69 1 s.hearth.reason ∧ (0 ∉ s.hearth.parts → ∀ d, d < 4 → ((natAt r 0x6A 1).testBit d = true ↔
        ∃ p ∈ s.hearth.parts, p.getLsbD d = true ∧ ∀ e, e < d → p.getLsbD e = false)) ∧ r.drop 0x70 = fit 16 (Config.shake256 s.hearth.running)) ∧
    (∀ d x, s.dies[d]? = some x →
      (s.hearth.stage ≠ .full → exec (.clockHalve d) s = .next s ∧ exec (.clockRestore d) s = .next s) ∧
      (s.hearth.stage = .full → exec (.clockHalve d) s = .next { s with dies := s.dies.set d { x with mhz := 2000 } } ∧
        exec (.clockRestore d) s = .next { s with dies := s.dies.set d { x with mhz := 4000 } }) ∧
      exec (.thermalRelease d) s = .next { s with dies := s.dies.set d { x with held := false } } ∧
      (s.hearth.stage = .minimal ∨ (s.hearth.stage ≠ .full ∧ s.hearth.failing = true) → exec (.thermalTrip d) s = .next s) ∧
      (s.hearth.stage = .full ∨ (s.hearth.stage ≠ .minimal ∧ s.hearth.failing = false) → ∃ t, exec (.thermalTrip d) s = .next t ∧
        (s.hearth.stage ≠ .full → FailedStart s t 6 ∧ t.dies[d]? = some { x with held := true }) ∧
        (s.hearth.stage = .full → t.dies[d]? = some { x with held := true } ∧ ∀ v c, s.ctx v = some c →
          (c.part.getLsbD d = true → MayQuench c.st → Quenched s t v 8 0) ∧
          (Distinct s → c.part.getLsbD d = false → t.ctx v = some c)))) ∧
    (∀ l, let m := (Tbl.find s.mesh l).getD {}
      (¬InMesh l ∨ 0 < m.beat → exec (.linkWidthDrop l) s = .next s ∧ exec (.linkWidthReturn l) s = .next s) ∧
      (InMesh l → m.beat = 0 →
        exec (.linkWidthDrop l) s = .next { s with mesh := Tbl.put s.mesh l { m with want := if m.width = 4 then 2 else 1 } } ∧
        ((m.queue.map (·.flits)).sum < m.sent + 4 → exec (.linkWidthReturn l) s = .next s) ∧
        (m.sent + 4 ≤ (m.queue.map (·.flits)).sum →
          exec (.linkWidthReturn l) s = .next { s with mesh := Tbl.put s.mesh l { m with want := 4 } }))) ∧
    (∀ ch, (144 ≤ ch → exec (.crossbarToken ch) s = .next s) ∧
      (ch < 144 → ∃ (t : State) (x : XbarChan), exec (.crossbarToken ch) s = .next t ∧
        let c := (Tbl.find s.xbar ch).getD {}
        let own := fun (l : List (Nat × XbarPkt)) => l.filter (fun y => y.1 == c.token)
        Tbl.find t.xbar ch = some x ∧ t = { s with xbar := t.xbar } ∧ x.got = c.got ++ (own c.queued).take 4 ∧
        x.token = (c.token + 1) % (if ch < 64 then 80 else 64) ∧ own x.queued = (own c.queued).drop 4 ∧
        (∀ j, j ≠ c.token → x.queued.filter (fun y => y.1 == j) = c.queued.filter (fun y => y.1 == j)) ∧
        (64 ≤ ch → ∀ k, k ≠ ch → Tbl.find t.xbar k = Tbl.find s.xbar k) ∧
        (ch < 64 → ∀ k, k ≠ ch → ((Tbl.find t.xbar k).getD {}).queued = ((Tbl.find s.xbar k).getD {}).queued ++
          ((((own c.queued).take 4).filter (fun y => !y.2.wr && 64 + y.2.cluster == k)).map (fun y => (ch, y.2)))))) ∧
    (∀ r v, exec (.registerWrite r v) s = .next s) ∧ ∀ code, exec (.ucieEvent code) s = .next s

end

namespace Sys2Proof
open Machine

/-! ## Links (spec/25_link.md) -/

/-- A link control flit of a subtype with a correct CRC that carries a number of n bytes behind its subtype (R419). -/
def CtrlFlit (f : Flit) (sub n x : Nat) : Prop :=
  f.kind = 1 ∧ f.crc = flitCrc f ∧ natAt f.payload 0 1 = sub ∧ natAt f.payload 1 n = x

/-- The RESTRIPE that names the next flit and a mask. -/
def RestripeFlit (f : Flit) (a : BitVec 16) (m : BitVec 64) : Prop := CtrlFlit f 2 2 (uv a) ∧ natAt f.payload 8 8 = uv m

/-- The beats of flits of which the first has the number i under a mask: 16 bytes each in the order of the flit's bytes
(notes/assumptions/114.md), beat n of the mask's flits on its (n mod A)-th wavelength (R420). -/
def Beats (m : BitVec 64) (i : Nat) (fs : List Flit) (bs : List (Nat × List Byte)) : Prop :=
  bs.length = 8 * fs.length ∧ ∀ n f, fs[n / 8]? = some f →
    ∃ w, bs[n]? = some (w, ((flitBytes f (uv f.crc)).drop (16 * (n % 8))).take 16) ∧
      (active64 m ≠ 0 → m.getLsbD w = true ∧ ((List.range w).filter m.getLsbD).length = (8 * i + n) % active64 m)

/-- t is s after flits have gone out on link l: where the link's mask has changed, a RESTRIPE that names the first of them goes
before it under the mask before, and the flits count from 0 under the new one (R420). -/
def SentOut (s t : State) (l : Nat) (fs : List Flit) : Prop :=
  (fs = [] → t = s) ∧ ∀ f gs p, fs = f :: gs → s.peer l = some p → ∃ (ctl : List Flit) (b c : List (Nat × List Byte)),
    (p.striped = false → ctl = []) ∧ (p.striped = true → ∃ r, ctl = [r] ∧ RestripeFlit r f.lseq p.tx) ∧
    let m := if p.striped = true then p.tx else p.sending
    let i := if p.striped = true then 0 else p.txIndex
    Beats p.sending p.txIndex ctl b ∧ Beats m i fs c ∧
    t = { s.modPeer l (fun x => { x with striped := false, sending := m, txIndex := i + fs.length }) with
      txs := s.txs ++ (ctl ++ fs).map (fun f => (l, f)), light := s.light ++ (b ++ c).map (fun x => (l, x.1, x.2)) }

/-- The losses of light for which some flit sent before them is not acknowledged (notes/assumptions/62.md). -/
def lolOpen (p : Peer) (fs : List Flit) : List (BitVec 16) := p.lol.filter (fun b => fs.any (fun f => decide (32768 ≤ uv (f.lseq - b))))

/-- t is s after an acknowledgement up to a on link l (R421): the flits up to it leave the replay buffer, the flits that waited
behind 4096 are sent, and packets that may now be sent are; a loss of light before which nothing is left to resend is written as an event with
the count 0 (R436). Where no flit has the number nothing changes. -/
def AckResult (s t : State) (l : Nat) (a : BitVec 16) : Prop :=
  ∃ p, s.peer l = some p ∧
    (((∀ h ∈ p.replay, h.lseq ≠ a) ∧ t = s) ∨
     ∃ pre g rest, p.replay = pre ++ g :: rest ∧ g.lseq = a ∧ (∀ h ∈ pre, h.lseq ≠ a) ∧
       ∃ v, t = State.flushAll v ∧ SentOut ((s.logLol l 0 (p.lol.length - (lolOpen p rest).length)).modPeer l (fun x => { x with
           replay := rest, resends := 0, lol := lolOpen x rest })) v l
         ((rest.take 4096).drop (4095 - pre.length)))

/-- The rows of received flits, with their kinds (R418); the link control flits with their subtypes (R419). -/
inductive FlitRow (l : Nat) (f : Flit) : Instr → Nat → Prop
  | idle : FlitRow l f (.idle l f) 0
  | ack (h : natAt f.payload 0 1 = 0) : FlitRow l f (.ctrlAck l f) 1
  | nak (h : natAt f.payload 0 1 = 1) : FlitRow l f (.nak l f) 1
  | restripe (h : natAt f.payload 0 1 = 2) : FlitRow l f (.restripe l f) 1
  | credit (h : natAt f.payload 0 1 = 3) : FlitRow l f (.ctrlCredit l f) 1
  | lol (h : natAt f.payload 0 1 = 4) : FlitRow l f (.lol l f) 1
  | req : FlitRow l f (.req l f) 2
  | data : FlitRow l f (.data l f) 3
  | rsp : FlitRow l f (.rsp l f) 4
  | pass : FlitRow l f (.pass l f) 5
  | halo : FlitRow l f (.halo l f) 6
  | notice : FlitRow l f (.notice l f) 7
  | done : FlitRow l f (.done l f) 8
  | wait : FlitRow l f (.wait l f) 9
  | genn : FlitRow l f (.genn l f) 10

/-- The link is UP or NARROW, with the fabric out of reset and in service (spec/30_bringup.md R484, R487), and its record is p. -/
def LinkIs (s : State) (l : Nat) (p : Peer) : Prop :=
  s.peer l = some p ∧ (p.link = .up ∨ p.link = .narrow) ∧ s.hearth.stage ≠ .reset ∧ s.hearth.stage ≠ .minimal

/-- The state in which one flit more has been counted on a link (R420), and in which its check is counted as failed. -/
def flitSeen (s : State) (l : Nat) : State := s.modPeer l (fun x => { x with rxIndex := x.rxIndex + 1 })
def flitBad (s : State) (l : Nat) : State := s.modPeer l (fun x => { x with rxIndex := x.rxIndex + 1, crcFails := x.crcFails + 1 })

/-- The next flit on a link crosses a wavelength whose light is lost (R423). -/
def InDark (p : Peer) : Prop := ∃ j, j < 8 ∧ p.rxDark.getLsbD (laneOf p.rx (8 * p.rxIndex + j)) = true

/-- A flit has been discarded: the first of a gap is answered with a NAK of the expected LSEQ (R421). -/
def Gapped (s t : State) (l : Nat) (p : Peer) : Prop :=
  (p.nakSent = true ∧ t = s) ∨ (p.nakSent = false ∧ ∃ r v, CtrlFlit r 1 2 (uv p.rxLseq) ∧ SentOut s v l [r] ∧
    t = v.modPeer l (fun x => { x with nakSent := true }))

/-- The next event record, where the ring has room (R435). -/
def Logged (s t : State) (code peer dir count : Nat) : Prop :=
  s.evring.length < 512 → ∃ e ∈ t.evring, e.code = code ∧ e.peer = peer ∧ e.dir = dir ∧ e.count = count ∧
    e.time = 1000 * s.us

/-- The link has become FAILED (R422, R425, R428, R430): its replay buffer is discarded, its own peer goes by a relay, to which
every packet that is not DONE is sent again under its number, or has no route. The relay is the lowest device with a link to both (R425). -/
def LinkFailed (s t : State) (l : Nat) : Prop :=
  ∃ p y, s.peer l = some p ∧ t.peer l = some y ∧ y.link = .failed ∧ y.replay = [] ∧ y.excluded = 0 ∧
    (p.lol = [] → Logged s t 7 l 2 p.replay.length) ∧ t.mem = s.mem ∧ (p.reach = .direct ∨ p.reach = .detour ∨ p.reach = .noroute →
      (t.relay l = none → y.reach = .noroute) ∧
      ∀ r, t.relay l = some r → y.reach = .detour ∧ ∀ o ∈ p.out, o.sent = true → ∃ z, t.peer r = some z ∧
        ∃ f ∈ z.replay, f.pseq = BitVec.ofNat 24 o.pseq ∧ f.dst = BitVec.ofNat 4 l)

/-- The flits without an acknowledgement have been sent again; behind eight resends in a row the link is FAILED (R421). The losses of light
before are written as events with the flits resent (R436). -/
def Resent (s t : State) (l : Nat) : Prop :=
  ∃ p, s.peer l = some p ∧ (p.replay = [] → t = s) ∧
    (p.replay ≠ [] → 8 ≤ p.resends → LinkFailed s t l) ∧
    (p.replay ≠ [] → p.resends < 8 →
      ∃ v, SentOut (s.modPeer l (fun x => { x with resends := x.resends + 1, lol := [] })) v l (p.replay.take 4096) ∧
        t = v.logLol l (p.replay.take 4096).length p.lol.length)

/-- UP on every wavelength of both directions, else NARROW (R422). -/
def settled (p : Peer) : LinkSt := if p.tx = p.full ∧ p.rx = p.full then .up else .narrow

/-- The fibres of a link all of whose wavelengths stand in a mask (R415). -/
def WholeFibres (m : BitVec 64) (b : BitVec 4) : Prop :=
  ∀ j, j < 4 → (b.getLsbD j = true ↔ ∀ i, i < 16 → m.getLsbD (16 * j + i) = true)

/-- The sender has left wavelengths out, which may return: below eight the link is FAILED, else its next flit goes behind a RESTRIPE
(R420, R422, R423). -/
def Excluded (s t : State) (l : Nat) (m : BitVec 64) (g : Peer → Peer) : Prop :=
  ∃ p, s.peer l = some p ∧
    (active64 (p.tx &&& ~~~m) < 8 → ∃ y, t.peer l = some y ∧ y.link = .failed) ∧
    (8 ≤ active64 (p.tx &&& ~~~m) → t.txs = s.txs ∧
      let x := { g p with tx := p.tx &&& ~~~m, excluded := p.excluded ||| (p.tx &&& m) }
      t.peer l = some { x with link := settled x, striped := true })

end Sys2Proof

section
open Sys2Proof Machine

/-- R415, R418 to R425, R428, R430, R431, R435, R436: the link. A flit that fails its check, of a reserved kind, over a dark wavelength or out
of turn is discarded, and the first of a gap is answered with NAK; link control flits are not counted in LSEQ (notes/assumptions/14.md). IDLE
and CTRL ACK free replay entries; NAK and the replay timer send again, the flits in beats over the active wavelengths; RESTRIPE sets the
receiver's mask; CREDIT returns allowance; LOL, LOSS_OF_LIGHT, BERHIGH, WLBACK and WLDEAD take wavelengths out and bring them back
(notes/assumptions/62.md); RETRAIN, TRAINED and TRAINFAIL train, and give a link spare fibres for those of it that have failed, three attempts
or retrainings before they fail (notes/assumptions/63.md). UNREACHABLE ends what is under way to a peer (notes/assumptions/70.md), and RESYNC
begins a new epoch, on the side that kept its route too (notes/assumptions/116.md). What other devices' links do is an event
(notes/assumptions/101.md). Where nothing is to be done nothing changes (notes/assumptions/1.md). -/
def Obligations.LinksReplayRestripeAndTrain : Prop :=
  ∀ (s : State) (l : Nat),
    (∀ f i k, FlitRow l f i k → (∀ p, ¬LinkIs s l p) → exec i s = .next s) ∧
    (∀ f i k p, FlitRow l f i k → LinkIs s l p →
      (11 ≤ uv f.kind ∨ (uv f.kind = k ∧ f.crc ≠ flitCrc f) ∨ (uv f.kind = k ∧ 2 ≤ k ∧ InDark p) → ∃ t, exec i s = .next t ∧
        Gapped (flitBad s l) t l p) ∧
      (uv f.kind < 11 → uv f.kind ≠ k → exec i s = .next (flitSeen s l)) ∧
      (uv f.kind = k → 2 ≤ k → f.crc = flitCrc f → ¬InDark p → f.lseq ≠ p.rxLseq →
        (uv (p.rxLseq - f.lseq) < 32768 → exec i s = .next (flitSeen s l)) ∧
        (32768 ≤ uv (p.rxLseq - f.lseq) → ∃ t, exec i s = .next t ∧ Gapped (flitSeen s l) t l p))) ∧
    (∀ f p, LinkIs s l p → f.crc = flitCrc f → f.kind = 0 →
      ∃ t, exec (.idle l f) s = .next t ∧ AckResult (flitSeen s l) t l f.ackseq) ∧
    (∀ f p, LinkIs s l p → f.crc = flitCrc f → f.kind = 1 →
      let sub := natAt f.payload 0 1
      let a := BitVec.ofNat 16 (natAt f.payload 1 2)
      let m := BitVec.ofNat 64 (natAt f.payload 8 8)
      ∃ u, AckResult (flitSeen s l) u l f.ackseq ∧
        (sub = 0 → ∃ t, exec (.ctrlAck l f) s = .next t ∧ AckResult u t l a) ∧
        (sub = 1 → ∃ v t, AckResult u v l (a - 1) ∧ exec (.nak l f) s = .next t ∧ Resent v t l) ∧
        (sub = 2 → (active64 m < 8 → ∃ t, exec (.restripe l f) s = .next t ∧ LinkFailed u t l) ∧
          (8 ≤ active64 m → ∀ q, u.peer l = some q → ∃ t, exec (.restripe l f) s = .next t ∧ t.txs = u.txs ∧
            let x := { q with rx := m, rxIndex := 0, rxDark := q.rxDark &&& ~~~(m &&& ~~~q.rx) }
            t.peer l = some { x with link := settled x })) ∧
        (sub = 3 → uv f.dst = s.dev → exec (.ctrlCredit l f) s = .next (State.flush (u.modPeer (uv f.src) (fun x => { x with
          allow := NMap.set 256 x.allow (natAt f.payload 1 1)
            (min 256 (NMap.get 256 x.allow (natAt f.payload 1 1) + natAt f.payload 2 2)) })) (uv f.src))) ∧
        (sub = 3 → uv f.dst ≠ s.dev → exec (.ctrlCredit l f) s = .next u) ∧
        (sub = 4 → ∃ t q b, u.peer l = some q ∧ exec (.lol l f) s = .next t ∧ WholeFibres m b ∧
          (active64 (q.tx &&& ~~~m) < 8 → ∃ y, t.peer l = some y ∧ y.link = .failed) ∧
          (8 ≤ active64 (q.tx &&& ~~~m) → ∃ v, Excluded u v l m (fun x => { x with txLost := x.txLost ||| b, lol := x.lol ++ [x.txLseq] }) ∧
            (q.replay ≠ [] → t = v) ∧
            (q.replay = [] → t = (v.modPeer l (fun x => { x with lol := [] })).logLol l 0 (q.lol.length + 1))))) ∧
    (∀ p, LinkIs s l p →
      (∃ r, CtrlFlit r 0 2 (uv (p.rxLseq - 1)) ∧ ∃ t, exec (.ackTimer l) s = .next t ∧ SentOut s t l [r]) ∧
      (p.replay = [] → exec (.replayTimeout l) s = .next s) ∧
      (∀ f fs, p.replay = f :: fs → ∃ t, exec (.replayTimeout l) s = .next t ∧ Resent s t l) ∧
      (∀ m, ∃ t v r b, exec (.lossOfLight l m) s = .next t ∧ SentOut s v l [r] ∧ CtrlFlit r 4 7 0 ∧
        natAt r.payload 8 8 = uv (m &&& p.rx) ∧ Logged s t 3 l 1 0 ∧ WholeFibres m b ∧ t.txs = v.txs ∧ t.mem = s.mem ∧
        t.peers = (v.modPeer l (fun x => { x with rxLost := x.rxLost ||| b, rxDark := x.rxDark ||| (m &&& x.rx) })).peers) ∧
      (∀ wl, let bit := BitVec.ofNat 64 (2 ^ wl)
        let may := p.tx.getLsbD wl = true ∧ ∀ j, j / 16 = wl / 16 → p.retrain.getLsbD j = false
        (¬may → exec (.berhigh l wl) s = .next s) ∧
        (may → ∃ t, exec (.berhigh l wl) s = .next t ∧ Excluded s t l bit (fun x => { x with
            retrain := x.retrain ||| bit, tries := NMap.set 0 x.tries wl 0 }) ∧
          (8 ≤ active64 (p.tx &&& ~~~bit) → Logged s t 4 l 0 0)) ∧
        (p.retrain.getLsbD wl = true → NMap.get 0 p.tries wl < 2 → retryStep l wl s =
          some (s.modPeer l (fun x => { x with tries := NMap.set 0 x.tries wl (NMap.get 0 x.tries wl + 1) }))) ∧
        (p.excluded.getLsbD wl = false → exec (.wlback l wl) s = .next s) ∧
        (p.retrain.getLsbD wl = false → exec (.wldead l wl) s = .next s ∧ retryStep l wl s = none) ∧
        (p.excluded.getLsbD wl = true →
          ∃ t, exec (.wlback l wl) s = .next t ∧ t.txs = s.txs ∧ Logged s t 5 l 0 (NMap.get 0 p.tries wl + 1) ∧
            let x := { p with
              tx := p.tx ||| bit, excluded := p.excluded &&& ~~~bit, retrain := p.retrain &&& ~~~bit, tries := NMap.set 0 p.tries wl 0 }
            t.peer l = some { x with link := settled x, striped := true }) ∧
        (p.retrain.getLsbD wl = true →
          ∃ t, exec (.wldead l wl) s = .next t ∧ t.txs = s.txs ∧ Logged s t 6 l 0 3 ∧ t.peer l = some { p with
            dead := p.dead ||| bit, excluded := p.excluded &&& ~~~bit, retrain := p.retrain &&& ~~~bit
            tries := NMap.set 0 p.tries wl 3 }))) ∧
    (∀ spares p, s.peer l = some p →
      (p.link ≠ .failed → exec (.retrain l spares) s = .next s) ∧
      (p.link = .failed → ∃ t y, exec (.retrain l spares) s = .next t ∧ t.txs = s.txs ∧ t.peer l = some y ∧
        y = { p with
          link := .training, txLseq := 0, rxLseq := 0, replay := [], resends := 0, nakSent := false, excluded := 0, retrain := 0
          dead := 0, tries := [], attempts := 0, txFib := y.txFib, txLost := y.txLost, rxFib := y.rxFib, rxLost := y.rxLost } ∧
        let spare := fun (n : Nat) => (if s.devs ≤ 8 then 28 else 30) ≤ n ∧ n ≤ 31
        (∀ n, n ∈ y.txFib → n ∈ p.txFib ∨ spare n ∧ spares.testBit n = true ∧ ∀ q ∈ s.peers, n ∉ q.2.txFib) ∧
        (∀ n, n ∈ y.rxFib → n ∈ p.rxFib ∨ spare n ∧ spares.testBit n = true ∧ ∀ q ∈ s.peers, n ∉ q.2.rxFib) ∧
        ∀ n, spares = 2 ^ n →
          let takes := fun (fib : List Nat) (lost : BitVec 4) (used : Peer → List Nat) (fib' : List Nat) (lost' : BitVec 4) =>
            let open_ := spare n ∧ ∀ q ∈ s.peers, n ∉ used q.2
            (¬open_ ∨ (∀ j, j < fib.length → lost.getLsbD j = false) → fib' = fib ∧ lost' = lost) ∧
            ∀ j, open_ → j < fib.length → lost.getLsbD j = true → (∀ i, i < j → lost.getLsbD i = false) →
              fib' = fib.set j n ∧ lost' = lost &&& ~~~BitVec.ofNat 4 (2 ^ j)
          takes p.txFib p.txLost Peer.txFib y.txFib y.txLost ∧ takes p.rxFib p.rxLost Peer.rxFib y.rxFib y.rxLost ∧
          ((y.txFib ≠ p.txFib ∧ y.rxFib = p.rxFib → Logged s t 12 l 0 n) ∧ (y.txFib = p.txFib ∧ y.rxFib ≠ p.rxFib → Logged s t 12 l 1 n)
            ∧ (y.txFib ≠ p.txFib ∧ y.rxFib ≠ p.rxFib → Logged s t 12 l 2 n)))) ∧
    (∀ p, s.peer l = some p →
      (∀ mask, let m := mask &&& p.full
        (¬(p.link = .training ∧ s.hearth.stage ≠ .reset ∧ s.hearth.stage ≠ .minimal ∧ 8 ≤ active64 m) → exec (.trained l mask) s = .next s) ∧
        (p.link = .training → s.hearth.stage ≠ .reset → s.hearth.stage ≠ .minimal → 8 ≤ active64 m → ∃ t y, exec (.trained l mask) s = .next t ∧ t.peer l = some y ∧
          y.full = p.full ∧ y.tx = m ∧ y.rx = m ∧ y.sending = m ∧ y.excluded = p.full &&& ~~~m ∧ y.link = (if m = p.full then .up else .narrow) ∧
          WholeFibres (p.full &&& ~~~m) y.txLost ∧ y.rxLost = y.txLost ∧ y.rxLseq = 0 ∧ Logged s t 1 l 2 (p.attempts + 1) ∧
          y.reach = (if p.reach = .unreachable ∨ p.reach = .resync then .resync else .direct))) ∧
      (p.link ≠ .training → exec (.trainfail l) s = .next s) ∧
      (p.link = .training → ∃ t y, exec (.trainfail l) s = .next t ∧ t.peer l = some y ∧ y.link = .failed ∧ y.attempts = 3 ∧
        Logged s t 2 l 2 3 ∧ (p.lol = [] → s.evring.length < 511 → ∃ e ∈ t.evring, e.code = 7 ∧ e.peer = l ∧ e.count = p.replay.length)) ∧
      (p.link = .training → p.attempts < 2 → attemptStep l s = some (s.modPeer l (fun x => { x with attempts := x.attempts + 1 }))) ∧
      (p.link ≠ .training ∨ 2 ≤ p.attempts → attemptStep l s = none)) ∧
    (∀ p q up, s.peer l = some p →
      (p.far.getLsbD q = up ∨ 16 ≤ q → farStep l q up s = none) ∧
      (p.far.getLsbD q ≠ up → q < 16 → ∃ t y, farStep l q up s = some t ∧ t.peer l = some y ∧
        ∀ k, y.far.getLsbD k = (if k = q then up else p.far.getLsbD k))) ∧
    (let serves := fun (j : Nat) (x : Peer) => j ≠ l ∧ (x.link = .up ∨ x.link = .narrow) ∧ x.far.getLsbD l = true;
      (s.relay l = none ↔ ∀ x ∈ s.peers, ¬serves x.1 x.2) ∧
      ∀ j, s.relay l = some j → (∃ x, (j, x) ∈ s.peers ∧ serves j x) ∧
        ((s.peers.map (·.1)).Pairwise (· < ·) → ∀ x ∈ s.peers, serves x.1 x.2 → j ≤ x.1)) ∧
    (∀ p, s.peer l = some p →
      (¬(p.reach = .noroute ∧ s.route l = none) → exec (.unreachable l) s = .next s) ∧
      (p.reach = .noroute → s.route l = none → ∃ t y, exec (.unreachable l) s = .next t ∧ t.peer l = some y ∧
        y.reach = .unreachable ∧ y.out = [] ∧ Logged s t 10 l 2 p.out.length) ∧
      (p.reach = .unreachable ∨ p.reach = .noroute ∨ s.route l = none → exec (.resync l) s = .next s) ∧
      (p.reach ≠ .unreachable → p.reach ≠ .noroute → s.route l ≠ none → ∃ t y, exec (.resync l) s = .next t ∧ t.peer l = some y ∧
        y.epoch = p.epoch + 1 ∧ y.expPseq = 0 ∧ y.held = [] ∧ y.part = [] ∧ y.given = [] ∧
        y.reach = (if p.link = .up ∨ p.link = .narrow then .direct else .detour) ∧
        Logged s t 11 l 2 (uv (p.epoch + 1)) ∧ (∀ x ∈ t.parked, uv x.pkt.head.src ≠ l) ∧
        (∀ r ∈ t.rounds, ∀ c ∈ r.2.parts, c.src ≠ l) ∧ ∀ c ∈ t.channels, c.2.src = l → c.2.pkts = []))

end

namespace Sys2Proof
open Machine

/-! ## Packets on arrival (spec/25_link.md R417, R425 to R427, R430 to R434) -/

/-- The link accepts a flit of a kind (R421), and u is the state then: the expected LSEQ has moved on and the flit's
acknowledgement has been taken. -/
def Accepts (s u : State) (l : Nat) (f : Flit) (k : Nat) : Prop :=
  ∃ p, LinkIs s l p ∧ uv f.kind = k ∧ f.crc = flitCrc f ∧ f.lseq = p.rxLseq ∧ ¬InDark p ∧
    AckResult (s.modPeer l (fun x => { x with rxIndex := x.rxIndex + 1, rxLseq := x.rxLseq + 1, nakSent := false })) u l f.ackseq

/-- The flits of a packet that have come on a link: those of its copies on other links are kept apart (R429). -/
def onLink (l : Nat) (f : Flit) (y : Nat × Flit) : Bool := y.1 == l && y.2.pseq == f.pseq

/-- The flit completes a packet (R417): a head with LAST, or the last data flit behind the packet's head on the same link. -/
def Completes (l : Nat) (x : Peer) (f : Flit) (k : Packet) : Prop :=
  f.last = true ∧ ((f.kind ≠ 3 ∧ k = { head := f, data := [] }) ∨ (f.kind = 3 ∧ ∃ h ds,
    (x.part.filter (onLink l f)).map (·.2) = h :: ds ∧ h.kind ≠ 3 ∧
      k = { head := h, data := (ds ++ [f]).flatMap (fun d => fit 112 d.payload) }))

/-- No packet of the halo class waits at this device, and no two channels have one number, nor has a
channel the next number. -/
def NoHaloWaits (s : State) : Prop :=
  (∀ c ∈ s.channels, c.2.halo = true → c.2.pkts = []) ∧ (s.channels.map (·.1)).Nodup ∧
  ∀ c ∈ s.channels, c.1 < s.serial

/-- An older generation (R434). -/
def Older (now g : BitVec 8) : Prop := 0 < uv (now - g) ∧ uv (now - g) < 128

/-- In t the packet stands at the end of its channel ch, and nothing has been performed. -/
def AtChannelEnd (s t : State) (k : Packet) (ch : Nat) : Prop :=
  ∃ c, Tbl.find t.channels ch = some c ∧ c.pkts.getLast? = some k ∧ c.src = uv k.head.src ∧
    (c.halo = true ↔ uv k.head.kind = 6 ∨ uv k.head.kind = 7) ∧
    (c.halo = false → c.vf = uv k.head.vf ∧ c.tag = uv k.head.tag ∧ c.gen = k.head.gen) ∧ t.mem = s.mem ∧ t.kernels = s.kernels

/-- The operation of an own packet has noted its outcome and the bytes of its reply (R443, R444). -/
def Noted (s t : State) (o : OutPkt) (st : Nat) (bytes : List Byte) : Prop :=
  ∀ i j y, o.pkt.op = some (i, j) → s.op i = some y →
    (∀ r, y.k = .remote r → t.op i = some { y with k := .remote { r with
      done := NMap.put r.done j (some st), reply := if bytes = [] then r.reply else bytes } }) ∧
    (∀ r, y.k = .swage r → t.op i = some { y with k := .swage { r with stat := NMap.put r.stat j (some st) } })

end Sys2Proof

section
open Sys2Proof Machine

/-- R417, R425 to R434: an accepted flit for another device is forwarded with RLY; one of another epoch is dropped; a flit without
LAST waits for the rest of its packet on its link. A whole packet that is older than the next expected is answered again as before; one that
is early is held, among at most 8192 flits; the next is handed on: a request, a pass, a halo or a notice to its channel, but with no binding,
or of an older generation, it is answered GONE (notes/assumptions/59.md); a reply to the operation that awaits it; a generation notice
drops what is older. DONE ends the packet that it names, unless a reply is still awaited, and WAIT marks it; both pass the reorder stage by
(notes/assumptions/58.md). What names nothing here changes nothing (notes/assumptions/1.md). -/
def Obligations.FlitsAreOrderedAndAnswered : Prop :=
  ∀ (s u : State) (l : Nat) (f : Flit) (i : Instr) (k : Nat), FlitRow l f i k → 2 ≤ k → Accepts s u l f k →
    let src := uv f.src
    (uv f.dst ≠ s.dev → (∀ q, ¬LinkIs u (uv f.dst) q) → exec i s = .next u) ∧
    (uv f.dst ≠ s.dev → ∀ q, LinkIs u (uv f.dst) q → ∃ t r y, exec i s = .next t ∧
      r = { f with rly := true, lseq := q.txLseq, ackseq := q.rxLseq - 1, crc := r.crc } ∧ r.crc = flitCrc r ∧
      t.peer (uv f.dst) = some y ∧ y.replay = q.replay ++ [r] ∧ y.txLseq = q.txLseq + 1 ∧ t.mem = u.mem) ∧
    (uv f.dst = s.dev → ∀ x, u.peer src = some x →
      (f.epoch ≠ x.epoch → exec i s = .next u) ∧
      (f.epoch = x.epoch → k ≠ 8 → k ≠ 9 →
        let rest := x.part.filter (fun y => !onLink l f y)
        let before := if k = 3 then x.part.filter (onLink l f) else []
        (f.last = false → exec i s = .next (u.modPeer src (fun y => { y with
          part := rest ++ (before.map (·.2) ++ [f]).map (fun z => (l, z)) }))) ∧
        (f.last = true → (∀ kt, ¬Completes l x f kt) → exec i s = .next (u.modPeer src (fun y => { y with part := rest }))) ∧
        ∀ kt, Completes l x f kt → uv kt.head.src = src → src ≠ s.dev → NoHaloWaits u →
          let v := u.modPeer src (fun y => { y with part := rest })
          let n := uv kt.head.pseq
          let kind := uv kt.head.kind
          let ahead := (n + 2 ^ 24 - x.expPseq) % 2 ^ 24
          let gone := u.localVf kt = none
          let old := ∃ g, Tbl.find x.gens (uv kt.head.vf) = some g ∧ Older g kt.head.gen
          (2 ^ 23 ≤ ahead →
            let w := v.modPeer src (fun y => { y with discards := y.discards + 1 })
            (Tbl.find x.given n = none → exec i s = .next w) ∧
            ∀ st, Tbl.find x.given n = some st → exec i s = .next (w.xmitPair src (pairFlit 8 kt st))) ∧
          (ahead < 2 ^ 23 → (∃ z ∈ x.held, z.head.pseq = kt.head.pseq) → exec i s = .next v) ∧
          let fits := (x.held.map Packet.size).sum + kt.size ≤ 8192
          (ahead < 2 ^ 23 → n ≠ x.expPseq → ¬fits → exec i s = .next v) ∧
          (ahead < 2 ^ 23 → n ≠ x.expPseq → fits → (∀ z ∈ x.held, z.head.pseq ≠ kt.head.pseq ∧ uv z.head.pseq ≠ x.expPseq) →
            exec i s = .next (v.modPeer src (fun y => { y with held := y.held ++ [kt] }))) ∧
          (n = x.expPseq → x.held = [] → ∃ t, exec i s = .next t ∧
            (t.peer src).map (fun y => (y.expPseq, y.held)) = some ((n + 1) % 2 ^ 24, []) ∧
            (kind ≠ 4 → kind ≠ 10 → old ∨ gone → Answered u t kt 2 ∧ t.channels = u.channels ∧ t.mem = u.mem) ∧
            (kind ≠ 4 → kind ≠ 10 → old → (t.peer src).map (·.discards) = some (x.discards + 1)) ∧
            ((kind = 2 ∨ kind = 5) → ¬old → ¬gone → ∃ ch, AtChannelEnd u t kt ch) ∧
            ((kind = 6 ∨ kind = 7) → ¬old → ¬gone → ∃ ch r, AtChannelEnd u r kt ch ∧ exec (.deliver ch) r = .next t) ∧
            (kind = 4 → Answered u t kt 0 ∧ ∀ o,
              let seq := natAt kt.head.payload 0 3
              x.out.find? (fun o => o.sent && o.pseq == seq) = some o →
              (t.peer src).map (·.out) = some (x.out.filter (fun y => !(y.sent && y.pseq == seq))) ∧
              (¬Older (u.genOf (uv o.pkt.head.vf)) kt.head.gen → Noted u t o (natAt kt.head.payload 3 1)
                (if (Req.of o.pkt.head).col = 3 then (kt.head.payload.drop 4).take 4
                 else kt.data.take (Req.of o.pkt.head).len))) ∧
            (kind = 10 → Answered u t kt 0 ∧
              let vf := natAt kt.head.payload 0 1
              let g := BitVec.ofNat 8 (natAt kt.head.payload 1 1)
              (t.peer src).map (fun y => Tbl.find y.gens vf) = some (some g) ∧
              (∀ y ∈ t.parked, uv y.pkt.head.src = src → uv y.pkt.head.vf = vf → ¬Older g y.pkt.head.gen) ∧
              ∀ c ∈ t.channels, ∀ y ∈ c.2.pkts, uv y.head.src = src → uv y.head.vf = vf → ¬Older g y.head.gen))) ∧
      (f.epoch = x.epoch → k = 8 →
        let seq := natAt f.payload 0 3
        let st := natAt f.payload 3 1
        (x.out.find? (fun o => o.sent && o.pseq == seq) = none → exec i s = .next u) ∧
        ∀ o, x.out.find? (fun o => o.sent && o.pseq == seq) = some o →
          let awaits := o.pkt.head.kind = 2 ∧ ((Req.of o.pkt.head).col = 1 ∨ (Req.of o.pkt.head).col = 3) ∧ st = 0
          (awaits → exec i s = .next u) ∧
          (¬awaits → ∃ t, exec i s = .next (State.flush t src) ∧ (t.peer src).map (fun y => (y.out, y.waits)) =
              some (x.out.filter (fun y => !(y.sent && y.pseq == seq)), x.waits.filter (fun y => y != seq)) ∧
            (o.pkt.head.kind = 10 ∨ o.pkt.head.kind = 4 ∨ ¬Older (u.genOf (uv o.pkt.head.vf)) f.gen → Noted u t o st []))) ∧
      (f.epoch = x.epoch → k = 9 →
        let seq := natAt f.payload 0 3
        ((∃ o ∈ x.out, o.sent = true ∧ o.pseq = seq) →
          exec i s = .next (u.modPeer src (fun y => { y with waits := seq :: y.waits.filter (fun z => z != seq) }))) ∧
        ((∀ o ∈ x.out, o.sent = false ∨ o.pseq ≠ seq) → exec i s = .next u)))

end

namespace Sys2Proof
open Machine

/-! ## The machine as a whole -/

/-- Words that the specification writes out, with the word behind them where they carry a literal, and the chain bit and the
instruction that it gives for each (spec/03_formats.md, spec/04_opcode_map.md, spec/07_isa_integer.md to
spec/28_swage.md). -/
def specWords : List (Word × Option Word × Bool × Instr) := [
  (0xA0008100, none, true, .fadd 1 0 (.nbr .x false 0)), (0x204106FF, some 0x3E800000, false, .fmul 2 3 (.lit 0x3E800000)),
  (0x611FFFFA, none, false, .bra 8 0x1FFFFA), (0x1A280005, none, false, .moviUni 20 5),
  (0x66A00000, none, false, .nop), (0x0A800080, none, false, .icmpUni .gt 0 0 (.imm 0)),
  (0x10430C06, none, false, .pxor 6 6 6), (0x00010445, none, false, .iadd 2 2 (.s 5)),
  (0x1C8182FF, some 0x804, false, .bfeUnsigned 3 1 (.lit 0x804)), (0x16A08044, none, false, .iset 1 4),
  (0x38A40001, none, false, .cvt .bf16f32 .rz 8 (.v 1)), (0x40840800, none, false, .ld .b32 8 ⟨0, true, 0, 0, .wave⟩),
  (0x4606400B, none, false, .ldt 12 ⟨4, false, 0, 0, true, 3⟩), (0x5C022211, none, false, .atomFloat .fadd 4 ⟨2, false, 2, 1, .team⟩),
  (0x50A51647, none, false, .xchg 10 11 (.s 7)), (0x65E00006, none, false, .split 6), (0x7C600000, none, false, .tret),
  (0x68200032, none, false, .barr 1 2), (0x6A210023, none, false, .hjoin 3 1 2), (0x6AA0000C, none, false, .fenceAll .system),
  (0x70C20001, none, false, .launch true 4), (0x70041812, none, false, .cpy ⟨8, 12, 0, some 2⟩),
  (0x70A00021, none, false, .cpyqRes 1), (0x76048000, none, false, .resq 9 0),
  (0x7A813030, none, false, .mma .bf16 ⟨0, 2, 3, 0, false, 1, true⟩)]

/-- A chain of one word stands where wave n fetches (spec/03_formats.md R47 to R57): the 12 bytes of its packet, the word at its
PC, and the word behind it in the packet. -/
structure Fetches (s : State) (w : Wave) (x : Word) (lit : Option Word) : Prop where
  target : legalTarget s w w.pc = true
  bytes : ∃ bs, s.vread (s.kernVf w.kern) ((s.hdr w.kern).codebase + (uv w.pc - uv w.pc % 12)) 12 = some bs ∧
    x = leWord (bs.drop (uv w.pc % 12)) ∧
    lit = if uv w.pc % 12 < 8 then some (leWord (bs.drop (uv w.pc % 12 + 4))) else none

end Sys2Proof

section
open Sys2Proof Machine

/-- R47 to R69, R76: decoding and encoding agree. For every well-formed instruction that has a word, and either chain bit, the
decoder reads the chain bit and the instruction from the encoder's words; where the instruction carries no literal, whatever
stands behind its word. -/
def Obligations.DecodingInvertsEncoding : Prop :=
  ∀ (ch : Bool) (i : Instr), i.wf = true → i.fields ≠ none → ∃ x rest, encode ch i = x :: rest ∧
    (rest = [] → i.lit? = none ∧ ∀ nxt, decodeWord x nxt = .ok (ch, i)) ∧
    (∀ y ys, rest = y :: ys → ys = [] ∧ i.lit? = some y ∧ decodeWord x (some y) = .ok (ch, i))

/-- The words that the specification writes out decode to the instructions that it gives for them; the words 0x7E000000 (major
0x3F) and 0x3BC00000 (an empty column of major 0x1D) have no meaning (R77). -/
def Obligations.SpecWordsDecode : Prop :=
  specWords.all (fun p => match decodeWord p.1 p.2.1 with
    | .ok r => decide (r = p.2.2)
    | .error _ => false) = true ∧
  [(0x7E000000 : Word), 0x3BC00000].all (fun x => match decodeWord x none with
    | .ok _ => false
    | .error _ => true) = true

/-- Whatever a step does, HBM stays in its canonical form: addresses strictly rising, and no byte listed that an unlisted address
would read the same (the model's own invariant, notes/assumptions/3.md). Equal memories are therefore equal data. -/
def Obligations.EveryStepKeepsMemoryCanonical : Prop :=
  ∀ s t : State, Memory.wf s.mem = true → step s = .next t → Memory.wf t.mem = true

/-- R16, R27, R284, R291, R393, R422, R484: the machine right after reset: stage RESET, every context FREE, every queue UNBOUND, every
priority's pointer at queue 127, no kernel, team, wave or operation, every link of the configuration of 8 devices in training on its four fibres (notes/assumptions/63.md), the networks and caches empty, the
event ring empty, no debugger attached and the clocks at 4.0 GHz (notes/assumptions/4.md), and memory in its canonical form with every byte 0
(the last the model's choice, notes/assumptions/3.md). -/
def Obligations.ResetIsAsSpecified : Prop :=
  let s := State.reset
  Memory.wf s.mem = true ∧ (∀ a, byteAt s a = 0) ∧ s.hearth.stage = .reset ∧ (∀ v, s.ctx v = none) ∧
  (∀ q, (s.queue q).st = .unbound) ∧ (∀ i, NMap.get 127 s.served i = 127) ∧ s.kernels = [] ∧ s.teams = [] ∧ s.waves = [] ∧
  s.ops = [] ∧ s.slices = [] ∧ s.mesh = [] ∧ s.xbar = [] ∧ s.peer 0 = none ∧ (∀ d, 0 < d → d < 8 → ∃ p, s.peer d = some p ∧
    p.link = .training ∧ p.full = BitVec.allOnes 64 ∧ p.txFib = [4 * d - 4, 4 * d - 3, 4 * d - 2, 4 * d - 1] ∧ p.rxFib = p.txFib) ∧ s.evring = [] ∧ s.dbgatt = false ∧ ∀ d, d < 4 → s.dies[d]? = some { mhz := 4000, held := false }

/-- R50, R51, R55, R77, R79, R248: a step runs what stands on the agenda: an event by its meaning, one of the machine's own steps where it may be
taken, and a wave's issue by fetching the word at its PC; that the agenda's head goes first, and the machine's own steps in a fixed order where
it is empty, is the model's choice (notes/assumptions/11.md). A word that decodes, alone in its chain, is executed with the chain's place
set out, in deterministic mode with what the wave sees in its quantum as it stood at the first attempt (notes/assumptions/100.md); one without a
meaning raises ILLOP (cause 0) with its slot; a PC that is no chain start raises BADTGT (cause 1), beyond the code segment with the first
offset behind its last word. With nothing on the agenda and nothing that may go on, the machine stands still (notes/assumptions/1.md). -/
def Obligations.StepRunsTheDecodedInstruction : Prop :=
  ∀ (s : State),
    (∀ i rest, s.agenda = .event i :: rest →
      step s = after State.idle (exec i { s with agenda := rest, cur := none })) ∧
    (∀ x rest, s.agenda = .own x :: rest →
      step s = .next ((ownStep x { s with agenda := rest }).getD { s with agenda := rest })) ∧
    (∀ n rest w, s.agenda = .issue n :: rest → s.wave n = some w →
      let s' := { s with agenda := rest }
      let pc := uv w.pc
      mayTry s' w = true → faultDue s' w = false →
        (∀ x lit i, Fetches s' w x lit → decodeWord x lit = .ok (false, i) → (w.redo = 0 ∨ w.redo.getLsbD 0 = true) →
          (((s'.ctx (s'.kernVf w.kern)).map (·.reduced)).getD false = true → fullOnly i = false) →
          let next := BitVec.ofNat 32 (pc + if pc % 12 < 8 ∧ takesLit x = true then 8 else 4)
          let v := openView n s'
          step s = after (settleIssue n ((v.wave n).getD w) [(pc % 12 / 4, 0, i)]) (exec i { v with
            cur := some n, chain := ctxFor .direct { pc := w.pc, next := next } (pc % 12 / 4) 0 })) ∧
        (∀ x lit e, Fetches s' w x lit → decodeWord x lit = .error e → step s = .next (State.idle
          (deliver n 0 (BitVec.ofNat 32 (pc % 12 / 4)) w.pc 0 { s' with cur := some n, chain := { pc := w.pc } }))) ∧
        (let e := 12 * (s'.hdr w.kern).codelen;
          pc % 4 ≠ 0 ∨ e ≤ pc → step s = .next (deliver n 1 w.pc (if e ≤ pc then BitVec.ofNat 32 e else w.pc) 0 s'))) ∧
    (s.agenda = [] → (∀ t, progress s = some t → step s = .next t) ∧
      (progress s = none → nextWave exec s = none → step s = .next s))

end
end

