-- ==== Sys2Proof/Laws/Dispatch.lean ====
section
/-! SUPPORT. The meaning that exec calls for each constructor, so that no proof unfolds the dispatch. -/
namespace Sys2Proof.Machine
@[simp] theorem exec_iadd d a b (s : State) : exec (.iadd d a b) s = execIadd d a b s := rfl
@[simp] theorem exec_iaddUni d a b (s : State) : exec (.iaddUni d a b) s = execIaddUni d a b s := rfl
@[simp] theorem exec_isub d a b (s : State) : exec (.isub d a b) s = execIsub d a b s := rfl
@[simp] theorem exec_isubUni d a b (s : State) : exec (.isubUni d a b) s = execIsubUni d a b s := rfl
@[simp] theorem exec_irsub d a b (s : State) : exec (.irsub d a b) s = execIrsub d a b s := rfl
@[simp] theorem exec_irsubUni d a b (s : State) : exec (.irsubUni d a b) s = execIrsubUni d a b s := rfl
@[simp] theorem exec_imul d a b (s : State) : exec (.imul d a b) s = execImul d a b s := rfl
@[simp] theorem exec_imulUni d a b (s : State) : exec (.imulUni d a b) s = execImulUni d a b s := rfl
@[simp] theorem exec_imulhi d a b (s : State) : exec (.imulhi d a b) s = execImulhi d a b s := rfl
@[simp] theorem exec_imulhiUni d a b (s : State) : exec (.imulhiUni d a b) s = execImulhiUni d a b s := rfl
@[simp] theorem exec_imad d a b (s : State) : exec (.imad d a b) s = execImad d a b s := rfl
@[simp] theorem exec_imadUni d a b (s : State) : exec (.imadUni d a b) s = execImadUni d a b s := rfl
@[simp] theorem exec_imin d a b (s : State) : exec (.imin d a b) s = execImin d a b s := rfl
@[simp] theorem exec_iminUni d a b (s : State) : exec (.iminUni d a b) s = execIminUni d a b s := rfl
@[simp] theorem exec_imax d a b (s : State) : exec (.imax d a b) s = execImax d a b s := rfl
@[simp] theorem exec_imaxUni d a b (s : State) : exec (.imaxUni d a b) s = execImaxUni d a b s := rfl
@[simp] theorem exec_iabs d b (s : State) : exec (.iabs d b) s = execIabs d b s := rfl
@[simp] theorem exec_iabsUni d b (s : State) : exec (.iabsUni d b) s = execIabsUni d b s := rfl
@[simp] theorem exec_ineg d b (s : State) : exec (.ineg d b) s = execIneg d b s := rfl
@[simp] theorem exec_inegUni d b (s : State) : exec (.inegUni d b) s = execInegUni d b s := rfl
@[simp] theorem exec_iaddc d a b (s : State) : exec (.iaddc d a b) s = execIaddc d a b s := rfl
@[simp] theorem exec_iaddcUni d a b (s : State) : exec (.iaddcUni d a b) s = execIaddcUni d a b s := rfl
@[simp] theorem exec_isat d a b (s : State) : exec (.isat d a b) s = execIsat d a b s := rfl
@[simp] theorem exec_isatUni d a b (s : State) : exec (.isatUni d a b) s = execIsatUni d a b s := rfl
@[simp] theorem exec_and d a b (s : State) : exec (.and d a b) s = execAnd d a b s := rfl
@[simp] theorem exec_andUni d a b (s : State) : exec (.andUni d a b) s = execAndUni d a b s := rfl
@[simp] theorem exec_or d a b (s : State) : exec (.or d a b) s = execOr d a b s := rfl
@[simp] theorem exec_orUni d a b (s : State) : exec (.orUni d a b) s = execOrUni d a b s := rfl
@[simp] theorem exec_xor d a b (s : State) : exec (.xor d a b) s = execXor d a b s := rfl
@[simp] theorem exec_xorUni d a b (s : State) : exec (.xorUni d a b) s = execXorUni d a b s := rfl
@[simp] theorem exec_andn d a b (s : State) : exec (.andn d a b) s = execAndn d a b s := rfl
@[simp] theorem exec_andnUni d a b (s : State) : exec (.andnUni d a b) s = execAndnUni d a b s := rfl
@[simp] theorem exec_not d b (s : State) : exec (.not d b) s = execNot d b s := rfl
@[simp] theorem exec_notUni d b (s : State) : exec (.notUni d b) s = execNotUni d b s := rfl
@[simp] theorem exec_shl d a b (s : State) : exec (.shl d a b) s = execShl d a b s := rfl
@[simp] theorem exec_shlUni d a b (s : State) : exec (.shlUni d a b) s = execShlUni d a b s := rfl
@[simp] theorem exec_shr d a b (s : State) : exec (.shr d a b) s = execShr d a b s := rfl
@[simp] theorem exec_shrUni d a b (s : State) : exec (.shrUni d a b) s = execShrUni d a b s := rfl
@[simp] theorem exec_sar d a b (s : State) : exec (.sar d a b) s = execSar d a b s := rfl
@[simp] theorem exec_sarUni d a b (s : State) : exec (.sarUni d a b) s = execSarUni d a b s := rfl
@[simp] theorem exec_rot d a b (s : State) : exec (.rot d a b) s = execRot d a b s := rfl
@[simp] theorem exec_rotUni d a b (s : State) : exec (.rotUni d a b) s = execRotUni d a b s := rfl
@[simp] theorem exec_clz d b (s : State) : exec (.clz d b) s = execClz d b s := rfl
@[simp] theorem exec_clzUni d b (s : State) : exec (.clzUni d b) s = execClzUni d b s := rfl
@[simp] theorem exec_popc d b (s : State) : exec (.popc d b) s = execPopc d b s := rfl
@[simp] theorem exec_popcUni d b (s : State) : exec (.popcUni d b) s = execPopcUni d b s := rfl
@[simp] theorem exec_brev d b (s : State) : exec (.brev d b) s = execBrev d b s := rfl
@[simp] theorem exec_brevUni d b (s : State) : exec (.brevUni d b) s = execBrevUni d b s := rfl
@[simp] theorem exec_bfe d a b (s : State) : exec (.bfe d a b) s = execBfe d a b s := rfl
@[simp] theorem exec_bfeUni d a b (s : State) : exec (.bfeUni d a b) s = execBfeUni d a b s := rfl
@[simp] theorem exec_bfi d a b (s : State) : exec (.bfi d a b) s = execBfi d a b s := rfl
@[simp] theorem exec_bfiUni d a b (s : State) : exec (.bfiUni d a b) s = execBfiUni d a b s := rfl
@[simp] theorem exec_sel d a b (s : State) : exec (.sel d a b) s = execSel d a b s := rfl
@[simp] theorem exec_selUni d a b (s : State) : exec (.selUni d a b) s = execSelUni d a b s := rfl
@[simp] theorem exec_icmp c d a b (s : State) : exec (.icmp c d a b) s = execIcmp c d a b s := rfl
@[simp] theorem exec_icmpUni c d a b (s : State) : exec (.icmpUni c d a b) s = execIcmpUni c d a b s := rfl
@[simp] theorem exec_icmpUnsigned c d a b (s : State) : exec (.icmpUnsigned c d a b) s = execIcmpUnsigned c d a b s := rfl
@[simp] theorem exec_icmpUnsignedUni c d a b (s : State) : exec (.icmpUnsignedUni c d a b) s = execIcmpUnsignedUni c d a b s := rfl
@[simp] theorem exec_pand d a b (s : State) : exec (.pand d a b) s = execPand d a b s := rfl
@[simp] theorem exec_pandUni d a b (s : State) : exec (.pandUni d a b) s = execPandUni d a b s := rfl
@[simp] theorem exec_por d a b (s : State) : exec (.por d a b) s = execPor d a b s := rfl
@[simp] theorem exec_porUni d a b (s : State) : exec (.porUni d a b) s = execPorUni d a b s := rfl
@[simp] theorem exec_pxor d a b (s : State) : exec (.pxor d a b) s = execPxor d a b s := rfl
@[simp] theorem exec_pxorUni d a b (s : State) : exec (.pxorUni d a b) s = execPxorUni d a b s := rfl
@[simp] theorem exec_pnot d b (s : State) : exec (.pnot d b) s = execPnot d b s := rfl
@[simp] theorem exec_pnotUni d b (s : State) : exec (.pnotUni d b) s = execPnotUni d b s := rfl
@[simp] theorem exec_vote m d b (s : State) : exec (.vote m d b) s = execVote m d b s := rfl
@[simp] theorem exec_ballot d k b (s : State) : exec (.ballot d k b) s = execBallot d k b s := rfl
@[simp] theorem exec_mov d b (s : State) : exec (.mov d b) s = execMov d b s := rfl
@[simp] theorem exec_movUni d b (s : State) : exec (.movUni d b) s = execMovUni d b s := rfl
@[simp] theorem exec_movl d b (s : State) : exec (.movl d b) s = execMovl d b s := rfl
@[simp] theorem exec_movlUni d b (s : State) : exec (.movlUni d b) s = execMovlUni d b s := rfl
@[simp] theorem exec_widf d k (s : State) : exec (.widf d k) s = execWidf d k s := rfl
@[simp] theorem exec_widfUni d k (s : State) : exec (.widfUni d k) s = execWidfUni d k s := rfl
@[simp] theorem exec_aadd d a b (s : State) : exec (.aadd d a b) s = execAadd d a b s := rfl
@[simp] theorem exec_aset d b (s : State) : exec (.aset d b) s = execAset d b s := rfl
@[simp] theorem exec_iset d n (s : State) : exec (.iset d n) s = execIset d n s := rfl
@[simp] theorem exec_movi d im (s : State) : exec (.movi d im) s = execMovi d im s := rfl
@[simp] theorem exec_moviUni d im (s : State) : exec (.moviUni d im) s = execMoviUni d im s := rfl
@[simp] theorem exec_imulhiUnsigned d a b (s : State) : exec (.imulhiUnsigned d a b) s = execImulhiUnsigned d a b s := rfl
@[simp] theorem exec_imulhiUnsignedUni d a b (s : State) : exec (.imulhiUnsignedUni d a b) s = execImulhiUnsignedUni d a b s := rfl
@[simp] theorem exec_iminUnsigned d a b (s : State) : exec (.iminUnsigned d a b) s = execIminUnsigned d a b s := rfl
@[simp] theorem exec_iminUnsignedUni d a b (s : State) : exec (.iminUnsignedUni d a b) s = execIminUnsignedUni d a b s := rfl
@[simp] theorem exec_imaxUnsigned d a b (s : State) : exec (.imaxUnsigned d a b) s = execImaxUnsigned d a b s := rfl
@[simp] theorem exec_imaxUnsignedUni d a b (s : State) : exec (.imaxUnsignedUni d a b) s = execImaxUnsignedUni d a b s := rfl
@[simp] theorem exec_isatUnsigned d a b (s : State) : exec (.isatUnsigned d a b) s = execIsatUnsigned d a b s := rfl
@[simp] theorem exec_isatUnsignedUni d a b (s : State) : exec (.isatUnsignedUni d a b) s = execIsatUnsignedUni d a b s := rfl
@[simp] theorem exec_bfeUnsigned d a b (s : State) : exec (.bfeUnsigned d a b) s = execBfeUnsigned d a b s := rfl
@[simp] theorem exec_bfeUnsignedUni d a b (s : State) : exec (.bfeUnsignedUni d a b) s = execBfeUnsignedUni d a b s := rfl
@[simp] theorem exec_fadd d a b (s : State) : exec (.fadd d a b) s = execFadd d a b s := rfl
@[simp] theorem exec_faddUni d a b (s : State) : exec (.faddUni d a b) s = execFaddUni d a b s := rfl
@[simp] theorem exec_fsub d a b (s : State) : exec (.fsub d a b) s = execFsub d a b s := rfl
@[simp] theorem exec_fsubUni d a b (s : State) : exec (.fsubUni d a b) s = execFsubUni d a b s := rfl
@[simp] theorem exec_fmul d a b (s : State) : exec (.fmul d a b) s = execFmul d a b s := rfl
@[simp] theorem exec_fmulUni d a b (s : State) : exec (.fmulUni d a b) s = execFmulUni d a b s := rfl
@[simp] theorem exec_ffma d a b (s : State) : exec (.ffma d a b) s = execFfma d a b s := rfl
@[simp] theorem exec_ffmaUni d a b (s : State) : exec (.ffmaUni d a b) s = execFfmaUni d a b s := rfl
@[simp] theorem exec_fmin d a b (s : State) : exec (.fmin d a b) s = execFmin d a b s := rfl
@[simp] theorem exec_fminUni d a b (s : State) : exec (.fminUni d a b) s = execFminUni d a b s := rfl
@[simp] theorem exec_fmax d a b (s : State) : exec (.fmax d a b) s = execFmax d a b s := rfl
@[simp] theorem exec_fmaxUni d a b (s : State) : exec (.fmaxUni d a b) s = execFmaxUni d a b s := rfl
@[simp] theorem exec_fabs d b (s : State) : exec (.fabs d b) s = execFabs d b s := rfl
@[simp] theorem exec_fabsUni d b (s : State) : exec (.fabsUni d b) s = execFabsUni d b s := rfl
@[simp] theorem exec_fneg d b (s : State) : exec (.fneg d b) s = execFneg d b s := rfl
@[simp] theorem exec_fnegUni d b (s : State) : exec (.fnegUni d b) s = execFnegUni d b s := rfl
@[simp] theorem exec_frsub d a b (s : State) : exec (.frsub d a b) s = execFrsub d a b s := rfl
@[simp] theorem exec_frsubUni d a b (s : State) : exec (.frsubUni d a b) s = execFrsubUni d a b s := rfl
@[simp] theorem exec_fcmp c d a b (s : State) : exec (.fcmp c d a b) s = execFcmp c d a b s := rfl
@[simp] theorem exec_fcmpUni c d a b (s : State) : exec (.fcmpUni c d a b) s = execFcmpUni c d a b s := rfl
@[simp] theorem exec_frcp d b (s : State) : exec (.frcp d b) s = execFrcp d b s := rfl
@[simp] theorem exec_frcpUni d b (s : State) : exec (.frcpUni d b) s = execFrcpUni d b s := rfl
@[simp] theorem exec_frsq d b (s : State) : exec (.frsq d b) s = execFrsq d b s := rfl
@[simp] theorem exec_frsqUni d b (s : State) : exec (.frsqUni d b) s = execFrsqUni d b s := rfl
@[simp] theorem exec_fsqrt d b (s : State) : exec (.fsqrt d b) s = execFsqrt d b s := rfl
@[simp] theorem exec_fsqrtUni d b (s : State) : exec (.fsqrtUni d b) s = execFsqrtUni d b s := rfl
@[simp] theorem exec_fexp2 d b (s : State) : exec (.fexp2 d b) s = execFexp2 d b s := rfl
@[simp] theorem exec_fexp2Uni d b (s : State) : exec (.fexp2Uni d b) s = execFexp2Uni d b s := rfl
@[simp] theorem exec_flog2 d b (s : State) : exec (.flog2 d b) s = execFlog2 d b s := rfl
@[simp] theorem exec_flog2Uni d b (s : State) : exec (.flog2Uni d b) s = execFlog2Uni d b s := rfl
@[simp] theorem exec_fsin d b (s : State) : exec (.fsin d b) s = execFsin d b s := rfl
@[simp] theorem exec_fsinUni d b (s : State) : exec (.fsinUni d b) s = execFsinUni d b s := rfl
@[simp] theorem exec_fcos d b (s : State) : exec (.fcos d b) s = execFcos d b s := rfl
@[simp] theorem exec_fcosUni d b (s : State) : exec (.fcosUni d b) s = execFcosUni d b s := rfl
@[simp] theorem exec_dadd d a b (s : State) : exec (.dadd d a b) s = execDadd d a b s := rfl
@[simp] theorem exec_dmul d a b (s : State) : exec (.dmul d a b) s = execDmul d a b s := rfl
@[simp] theorem exec_dfma d a b (s : State) : exec (.dfma d a b) s = execDfma d a b s := rfl
@[simp] theorem exec_hadd2 m d a b (s : State) : exec (.hadd2 m d a b) s = execHadd2 m d a b s := rfl
@[simp] theorem exec_hadd2Uni m d a b (s : State) : exec (.hadd2Uni m d a b) s = execHadd2Uni m d a b s := rfl
@[simp] theorem exec_hmul2 m d a b (s : State) : exec (.hmul2 m d a b) s = execHmul2 m d a b s := rfl
@[simp] theorem exec_hmul2Uni m d a b (s : State) : exec (.hmul2Uni m d a b) s = execHmul2Uni m d a b s := rfl
@[simp] theorem exec_hfma2 m d a b (s : State) : exec (.hfma2 m d a b) s = execHfma2 m d a b s := rfl
@[simp] theorem exec_hfma2Uni m d a b (s : State) : exec (.hfma2Uni m d a b) s = execHfma2Uni m d a b s := rfl
@[simp] theorem exec_rand m d (s : State) : exec (.rand m d) s = execRand m d s := rfl
@[simp] theorem exec_cvt c m d b (s : State) : exec (.cvt c m d b) s = execCvt c m d b s := rfl
@[simp] theorem exec_cvtExt c d b (s : State) : exec (.cvtExt c d b) s = execCvtExt c d b s := rfl
@[simp] theorem exec_cvtUni c d b (s : State) : exec (.cvtUni c d b) s = execCvtUni c d b s := rfl
@[simp] theorem exec_npack m d a (s : State) : exec (.npack m d a) s = execNpack m d a s := rfl
@[simp] theorem exec_nunpack m d a (s : State) : exec (.nunpack m d a) s = execNunpack m d a s := rfl
@[simp] theorem exec_ld m d a (s : State) : exec (.ld m d a) s = execLd m d a s := rfl
@[simp] theorem exec_st m d a (s : State) : exec (.st m d a) s = execSt m d a s := rfl
@[simp] theorem exec_ldUni m d a (s : State) : exec (.ldUni m d a) s = execLdUni m d a s := rfl
@[simp] theorem exec_stUni d a (s : State) : exec (.stUni d a) s = execStUni d a s := rfl
@[simp] theorem exec_ldt d a (s : State) : exec (.ldt d a) s = execLdt d a s := rfl
@[simp] theorem exec_stt d a (s : State) : exec (.stt d a) s = execStt d a s := rfl
@[simp] theorem exec_accrd d t b (s : State) : exec (.accrd d t b) s = execAccrd d t b s := rfl
@[simp] theorem exec_accwr t a b (s : State) : exec (.accwr t a b) s = execAccwr t a b s := rfl
@[simp] theorem exec_lshuf m d a b (s : State) : exec (.lshuf m d a b) s = execLshuf m d a b s := rfl
@[simp] theorem exec_bcast d a b (s : State) : exec (.bcast d a b) s = execBcast d a b s := rfl
@[simp] theorem exec_bcastUni d a b (s : State) : exec (.bcastUni d a b) s = execBcastUni d a b s := rfl
@[simp] theorem exec_xchg d a b (s : State) : exec (.xchg d a b) s = execXchg d a b s := rfl
@[simp] theorem exec_atom m d a (s : State) : exec (.atom m d a) s = execAtom m d a s := rfl
@[simp] theorem exec_atomBitwise m d a (s : State) : exec (.atomBitwise m d a) s = execAtomBitwise m d a s := rfl
@[simp] theorem exec_atomFloat m d a (s : State) : exec (.atomFloat m d a) s = execAtomFloat m d a s := rfl
@[simp] theorem exec_atomUni m d a (s : State) : exec (.atomUni m d a) s = execAtomUni m d a s := rfl
@[simp] theorem exec_bra c o (s : State) : exec (.bra c o) s = execBra c o s := rfl
@[simp] theorem exec_call k o (s : State) : exec (.call k o) s = execCall k o s := rfl
@[simp] theorem exec_split o (s : State) : exec (.split o) s = execSplit o s := rfl
@[simp] theorem exec_jmp b (s : State) : exec (.jmp b) s = execJmp b s := rfl
@[simp] theorem exec_ret  (s : State) : exec (.ret) s = execRet s := rfl
@[simp] theorem exec_merge  (s : State) : exec (.merge) s = execMerge s := rfl
@[simp] theorem exec_yield  (s : State) : exec (.yield) s = execYield s := rfl
@[simp] theorem exec_exit  (s : State) : exec (.exit) s = execExit s := rfl
@[simp] theorem exec_nop  (s : State) : exec (.nop) s = execNop s := rfl
@[simp] theorem exec_binit n b (s : State) : exec (.binit n b) s = execBinit n b s := rfl
@[simp] theorem exec_barr h b (s : State) : exec (.barr h b) s = execBarr h b s := rfl
@[simp] theorem exec_bwait b (s : State) : exec (.bwait b) s = execBwait b s := rfl
@[simp] theorem exec_bsync h b (s : State) : exec (.bsync h b) s = execBsync h b s := rfl
@[simp] theorem exec_bqry n b (s : State) : exec (.bqry n b) s = execBqry n b s := rfl
@[simp] theorem exec_hfork d h (s : State) : exec (.hfork d h) s = execHfork d h s := rfl
@[simp] theorem exec_hjoin d h e (s : State) : exec (.hjoin d h e) s = execHjoin d h e s := rfl
@[simp] theorem exec_hpass h n (s : State) : exec (.hpass h n) s = execHpass h n s := rfl
@[simp] theorem exec_hrecv d n (s : State) : exec (.hrecv d n) s = execHrecv d n s := rfl
@[simp] theorem exec_hwait h (s : State) : exec (.hwait h) s = execHwait h s := rfl
@[simp] theorem exec_hwaitRet h (s : State) : exec (.hwaitRet h) s = execHwaitRet h s := rfl
@[simp] theorem exec_fence c h (s : State) : exec (.fence c h) s = execFence c h s := rfl
@[simp] theorem exec_fenceAll c (s : State) : exec (.fenceAll c) s = execFenceAll c s := rfl
@[simp] theorem exec_step  (s : State) : exec (.step) s = execStep s := rfl
@[simp] theorem exec_acq  (s : State) : exec (.acq) s = execAcq s := rfl
@[simp] theorem exec_rel  (s : State) : exec (.rel) s = execRel s := rfl
@[simp] theorem exec_elect d (s : State) : exec (.elect d) s = execElect d s := rfl
@[simp] theorem exec_cpy o (s : State) : exec (.cpy o) s = execCpy o s := rfl
@[simp] theorem exec_tcpy o (s : State) : exec (.tcpy o) s = execTcpy o s := rfl
@[simp] theorem exec_gath o (s : State) : exec (.gath o) s = execGath o s := rfl
@[simp] theorem exec_scat o (s : State) : exec (.scat o) s = execScat o s := rfl
@[simp] theorem exec_cbinit c n (s : State) : exec (.cbinit c n) s = execCbinit c n s := rfl
@[simp] theorem exec_cpyq n h (s : State) : exec (.cpyq n h) s = execCpyq n h s := rfl
@[simp] theorem exec_cpyqRes h (s : State) : exec (.cpyqRes h) s = execCpyqRes h s := rfl
@[simp] theorem exec_cpyqAbn h (s : State) : exec (.cpyqAbn h) s = execCpyqAbn h s := rfl
@[simp] theorem exec_launch t n (s : State) : exec (.launch t n) s = execLaunch t n s := rfl
@[simp] theorem exec_qroom n (s : State) : exec (.qroom n) s = execQroom n s := rfl
@[simp] theorem exec_rst o (s : State) : exec (.rst o) s = execRst o s := rfl
@[simp] theorem exec_rld o (s : State) : exec (.rld o) s = execRld o s := rfl
@[simp] theorem exec_rred o (s : State) : exec (.rred o) s = execRred o s := rfl
@[simp] theorem exec_ratom o (s : State) : exec (.ratom o) s = execRatom o s := rfl
@[simp] theorem exec_rcpy o (s : State) : exec (.rcpy o) s = execRcpy o s := rfl
@[simp] theorem exec_rwait t n h (s : State) : exec (.rwait t n h) s = execRwait t n h s := rfl
@[simp] theorem exec_swplan n p (s : State) : exec (.swplan n p) s = execSwplan n p s := rfl
@[simp] theorem exec_swgo o (s : State) : exec (.swgo o) s = execSwgo o s := rfl
@[simp] theorem exec_swstat n (s : State) : exec (.swstat n) s = execSwstat n s := rfl
@[simp] theorem exec_swresume o (s : State) : exec (.swresume o) s = execSwresume o s := rfl
@[simp] theorem exec_swabort h (s : State) : exec (.swabort h) s = execSwabort h s := rfl
@[simp] theorem exec_cbtake d c (s : State) : exec (.cbtake d c) s = execCbtake d c s := rfl
@[simp] theorem exec_cbfree c (s : State) : exec (.cbfree c) s = execCbfree c s := rfl
@[simp] theorem exec_resq d h (s : State) : exec (.resq d h) s = execResq d h s := rfl
@[simp] theorem exec_pagereq d h (s : State) : exec (.pagereq d h) s = execPagereq d h s := rfl
@[simp] theorem exec_mzero t (s : State) : exec (.mzero t) s = execMzero t s := rfl
@[simp] theorem exec_mrdy  (s : State) : exec (.mrdy) s = execMrdy s := rfl
@[simp] theorem exec_mwait t (s : State) : exec (.mwait t) s = execMwait t s := rfl
@[simp] theorem exec_mdrain m t n im z (s : State) : exec (.mdrain m t n im z) s = execMdrain m t n im z s := rfl
@[simp] theorem exec_mma m o (s : State) : exec (.mma m o) s = execMma m o s := rfl
@[simp] theorem exec_sysr d r b (s : State) : exec (.sysr d r b) s = execSysr d r b s := rfl
@[simp] theorem exec_syswTrappc b (s : State) : exec (.syswTrappc b) s = execSyswTrappc b s := rfl
@[simp] theorem exec_syswTrapres b (s : State) : exec (.syswTrapres b) s = execSyswTrapres b s := rfl
@[simp] theorem exec_trap b (s : State) : exec (.trap b) s = execTrap b s := rfl
@[simp] theorem exec_tret  (s : State) : exec (.tret) s = execTret s := rfl
@[simp] theorem exec_causec d b (s : State) : exec (.causec d b) s = execCausec d b s := rfl
@[simp] theorem exec_bkpt im (s : State) : exec (.bkpt im) s = execBkpt im s := rfl
@[simp] theorem exec_pendingFaultDelivery w (s : State) : exec (.pendingFaultDelivery w) s = execPendingFaultDelivery w s := rfl
@[simp] theorem exec_notice peer flit (s : State) : exec (.notice peer flit) s = execNotice peer flit s := rfl
@[simp] theorem exec_halo peer flit (s : State) : exec (.halo peer flit) s = execHalo peer flit s := rfl
@[simp] theorem exec_place k t core (s : State) : exec (.place k t core) s = execPlace k t core s := rfl
@[simp] theorem exec_evict core (s : State) : exec (.evict core) s = execEvict core s := rfl
@[simp] theorem exec_reload core (s : State) : exec (.reload core) s = execReload core s := rfl
@[simp] theorem exec_quantumEnd t (s : State) : exec (.quantumEnd t) s = execQuantumEnd t s := rfl
@[simp] theorem exec_commit t (s : State) : exec (.commit t) s = execCommit t s := rfl
@[simp] theorem exec_tokenPass k (s : State) : exec (.tokenPass k) s = execTokenPass k s := rfl
@[simp] theorem exec_detlock k (s : State) : exec (.detlock k) s = execDetlock k s := rfl
@[simp] theorem exec_perform w slot (s : State) : exec (.perform w slot) s = execPerform w slot s := rfl
@[simp] theorem exec_drain w id (s : State) : exec (.drain w id) s = execDrain w id s := rfl
@[simp] theorem exec_accept w id (s : State) : exec (.accept w id) s = execAccept w id s := rfl
@[simp] theorem exec_segment op (s : State) : exec (.segment op) s = execSegment op s := rfl
@[simp] theorem exec_complete op (s : State) : exec (.complete op) s = execComplete op s := rfl
@[simp] theorem exec_fault op (s : State) : exec (.fault op) s = execFault op s := rfl
@[simp] theorem exec_deliver ch (s : State) : exec (.deliver ch) s = execDeliver ch s := rfl
@[simp] theorem exec_ack op (s : State) : exec (.ack op) s = execAck op s := rfl
@[simp] theorem exec_openGate w slot (s : State) : exec (.openGate w slot) s = execOpenGate w slot s := rfl
@[simp] theorem exec_fenceOpen w id (s : State) : exec (.fenceOpen w id) s = execFenceOpen w id s := rfl
@[simp] theorem exec_rootlaunch box vf q pkt (s : State) : exec (.rootlaunch box vf q pkt) s = execRootlaunch box vf q pkt s := rfl
@[simp] theorem exec_bind box vf q base logcap prio (s : State) : exec (.bind box vf q base logcap prio) s = execBind box vf q base logcap prio s := rfl
@[simp] theorem exec_unbind box vf q (s : State) : exec (.unbind box vf q) s = execUnbind box vf q s := rfl
@[simp] theorem exec_discard q (s : State) : exec (.discard q) s = execDiscard q s := rfl
@[simp] theorem exec_select part (s : State) : exec (.select part) s = execSelect part s := rfl
@[simp] theorem exec_translated k (s : State) : exec (.translated k) s = execTranslated k s := rfl
@[simp] theorem exec_kernelDone k (s : State) : exec (.kernelDone k) s = execKernelDone k s := rfl
@[simp] theorem exec_counterPoll q (s : State) : exec (.counterPoll q) s = execCounterPoll q s := rfl
@[simp] theorem exec_memwrite box vf va bytes (s : State) : exec (.memwrite box vf va bytes) s = execMemwrite box vf va bytes s := rfl
@[simp] theorem exec_filled vf page e1 e2 asked host (s : State) : exec (.filled vf page e1 e2 asked host) s = execFilled vf page e1 e2 asked host s := rfl
@[simp] theorem exec_noback vf page (s : State) : exec (.noback vf page) s = execNoback vf page s := rfl
@[simp] theorem exec_shootdown vf pages (s : State) : exec (.shootdown vf pages) s = execShootdown vf pages s := rfl
@[simp] theorem exec_reclaim vf task (s : State) : exec (.reclaim vf task) s = execReclaim vf task s := rfl
@[simp] theorem exec_shootdownTimeout vf (s : State) : exec (.shootdownTimeout vf) s = execShootdownTimeout vf s := rfl
@[simp] theorem exec_move vf page pfn (s : State) : exec (.move vf page pfn) s = execMove vf page pfn s := rfl
@[simp] theorem exec_moved vf page (s : State) : exec (.moved vf page) s = execMoved vf page s := rfl
@[simp] theorem exec_waitNoticeTimer ch (s : State) : exec (.waitNoticeTimer ch) s = execWaitNoticeTimer ch s := rfl
@[simp] theorem exec_parkedComplete ch (s : State) : exec (.parkedComplete ch) s = execParkedComplete ch s := rfl
@[simp] theorem exec_reserve op (s : State) : exec (.reserve op) s = execReserve op s := rfl
@[simp] theorem exec_tokenTick  (s : State) : exec (.tokenTick) s = execTokenTick s := rfl
@[simp] theorem exec_allowanceSet box vf amount (s : State) : exec (.allowanceSet box vf amount) s = execAllowanceSet box vf amount s := rfl
@[simp] theorem exec_matrixStart pair (s : State) : exec (.matrixStart pair) s = execMatrixStart pair s := rfl
@[simp] theorem exec_retire pair (s : State) : exec (.retire pair) s = execRetire pair s := rfl
@[simp] theorem exec_create box vf parts (s : State) : exec (.create box vf parts) s = execCreate box vf parts s := rfl
@[simp] theorem exec_ctxConfigure box vf slice grace qtime (s : State) : exec (.ctxConfigure box vf slice grace qtime) s = execCtxConfigure box vf slice grace qtime s := rfl
@[simp] theorem exec_ctxread box vf (s : State) : exec (.ctxread box vf) s = execCtxread box vf s := rfl
@[simp] theorem exec_imgread box vf (s : State) : exec (.imgread box vf) s = execImgread box vf s := rfl
@[simp] theorem exec_destroy box vf (s : State) : exec (.destroy box vf) s = execDestroy box vf s := rfl
@[simp] theorem exec_contextDrained vf (s : State) : exec (.contextDrained vf) s = execContextDrained vf s := rfl
@[simp] theorem exec_turn part (s : State) : exec (.turn part) s = execTurn part s := rfl
@[simp] theorem exec_sliceend vf (s : State) : exec (.sliceend vf) s = execSliceend vf s := rfl
@[simp] theorem exec_grace vf (s : State) : exec (.grace vf) s = execGrace vf s := rfl
@[simp] theorem exec_halted vf overrun (s : State) : exec (.halted vf overrun) s = execHalted vf overrun s := rfl
@[simp] theorem exec_qtimer vf (s : State) : exec (.qtimer vf) s = execQtimer vf s := rfl
@[simp] theorem exec_restored vf first (s : State) : exec (.restored vf first) s = execRestored vf first s := rfl
@[simp] theorem exec_quench box vf (s : State) : exec (.quench box vf) s = execQuench box vf s := rfl
@[simp] theorem exec_resetdone vf (s : State) : exec (.resetdone vf) s = execResetdone vf s := rfl
@[simp] theorem exec_blkmove box block part (s : State) : exec (.blkmove box block part) s = execBlkmove box block part s := rfl
@[simp] theorem exec_removed block (s : State) : exec (.removed block) s = execRemoved block s := rfl
@[simp] theorem exec_blkmoveTimeout block (s : State) : exec (.blkmoveTimeout block) s = execBlkmoveTimeout block s := rfl
@[simp] theorem exec_scrubbed block (s : State) : exec (.scrubbed block) s = execScrubbed block s := rfl
@[simp] theorem exec_correctedError unit (s : State) : exec (.correctedError unit) s = execCorrectedError unit s := rfl
@[simp] theorem exec_uncorrectableError unit reading addr (s : State) : exec (.uncorrectableError unit reading addr) s = execUncorrectableError unit reading addr s := rfl
@[simp] theorem exec_hndset box vf off (s : State) : exec (.hndset box vf off) s = execHndset box vf off s := rfl
@[simp] theorem exec_fltread box vf (s : State) : exec (.fltread box vf) s = execFltread box vf s := rfl
@[simp] theorem exec_evtread  (s : State) : exec (.evtread) s = execEvtread s := rfl
@[simp] theorem exec_runbind box vf peer peerVf (s : State) : exec (.runbind box vf peer peerVf) s = execRunbind box vf peer peerVf s := rfl
@[simp] theorem exec_idle peer flit (s : State) : exec (.idle peer flit) s = execIdle peer flit s := rfl
@[simp] theorem exec_ctrlAck peer flit (s : State) : exec (.ctrlAck peer flit) s = execCtrlAck peer flit s := rfl
@[simp] theorem exec_nak peer flit (s : State) : exec (.nak peer flit) s = execNak peer flit s := rfl
@[simp] theorem exec_restripe peer flit (s : State) : exec (.restripe peer flit) s = execRestripe peer flit s := rfl
@[simp] theorem exec_ctrlCredit peer flit (s : State) : exec (.ctrlCredit peer flit) s = execCtrlCredit peer flit s := rfl
@[simp] theorem exec_lol peer flit (s : State) : exec (.lol peer flit) s = execLol peer flit s := rfl
@[simp] theorem exec_req peer flit (s : State) : exec (.req peer flit) s = execReq peer flit s := rfl
@[simp] theorem exec_data peer flit (s : State) : exec (.data peer flit) s = execData peer flit s := rfl
@[simp] theorem exec_rsp peer flit (s : State) : exec (.rsp peer flit) s = execRsp peer flit s := rfl
@[simp] theorem exec_pass peer flit (s : State) : exec (.pass peer flit) s = execPass peer flit s := rfl
@[simp] theorem exec_done peer flit (s : State) : exec (.done peer flit) s = execDone peer flit s := rfl
@[simp] theorem exec_wait peer flit (s : State) : exec (.wait peer flit) s = execWait peer flit s := rfl
@[simp] theorem exec_genn peer flit (s : State) : exec (.genn peer flit) s = execGenn peer flit s := rfl
@[simp] theorem exec_ackTimer peer (s : State) : exec (.ackTimer peer) s = execAckTimer peer s := rfl
@[simp] theorem exec_replayTimeout peer (s : State) : exec (.replayTimeout peer) s = execReplayTimeout peer s := rfl
@[simp] theorem exec_lossOfLight peer mask (s : State) : exec (.lossOfLight peer mask) s = execLossOfLight peer mask s := rfl
@[simp] theorem exec_berhigh peer wl (s : State) : exec (.berhigh peer wl) s = execBerhigh peer wl s := rfl
@[simp] theorem exec_wlback peer wl (s : State) : exec (.wlback peer wl) s = execWlback peer wl s := rfl
@[simp] theorem exec_wldead peer wl (s : State) : exec (.wldead peer wl) s = execWldead peer wl s := rfl
@[simp] theorem exec_retrain peer spares (s : State) : exec (.retrain peer spares) s = execRetrain peer spares s := rfl
@[simp] theorem exec_trained peer mask (s : State) : exec (.trained peer mask) s = execTrained peer mask s := rfl
@[simp] theorem exec_trainfail peer (s : State) : exec (.trainfail peer) s = execTrainfail peer s := rfl
@[simp] theorem exec_unreachable peer (s : State) : exec (.unreachable peer) s = execUnreachable peer s := rfl
@[simp] theorem exec_resync peer (s : State) : exec (.resync peer) s = execResync peer s := rfl
@[simp] theorem exec_rcpyPacket op (s : State) : exec (.rcpyPacket op) s = execRcpyPacket op s := rfl
@[simp] theorem exec_written w (s : State) : exec (.written w) s = execWritten w s := rfl
@[simp] theorem exec_swageSegmentStart op (s : State) : exec (.swageSegmentStart op) s = execSwageSegmentStart op s := rfl
@[simp] theorem exec_swageSegmentDone op seg (s : State) : exec (.swageSegmentDone op seg) s = execSwageSegmentDone op seg s := rfl
@[simp] theorem exec_linkWidthDrop link (s : State) : exec (.linkWidthDrop link) s = execLinkWidthDrop link s := rfl
@[simp] theorem exec_linkWidthReturn link (s : State) : exec (.linkWidthReturn link) s = execLinkWidthReturn link s := rfl
@[simp] theorem exec_crossbarToken chan (s : State) : exec (.crossbarToken chan) s = execCrossbarToken chan s := rfl
@[simp] theorem exec_clockHalve die (s : State) : exec (.clockHalve die) s = execClockHalve die s := rfl
@[simp] theorem exec_clockRestore die (s : State) : exec (.clockRestore die) s = execClockRestore die s := rfl
@[simp] theorem exec_thermalTrip die (s : State) : exec (.thermalTrip die) s = execThermalTrip die s := rfl
@[simp] theorem exec_powerOn  (s : State) : exec (.powerOn) s = execPowerOn s := rfl
@[simp] theorem exec_reset  (s : State) : exec (.reset) s = execReset s := rfl
@[simp] theorem exec_romDone (s : State) : exec .romDone s = execRomDone s := rfl
@[simp] theorem exec_stackTrained stack (s : State) : exec (.stackTrained stack) s = execStackTrained stack s := rfl
@[simp] theorem exec_hbmtrain stack (s : State) : exec (.hbmtrain stack) s = execHbmtrain stack s := rfl
@[simp] theorem exec_status  (s : State) : exec (.status) s = execStatus s := rfl
@[simp] theorem exec_attest nonce (s : State) : exec (.attest nonce) s = execAttest nonce s := rfl
@[simp] theorem exec_attestReport  (s : State) : exec (.attestReport) s = execAttestReport s := rfl
@[simp] theorem exec_fwload image (s : State) : exec (.fwload image) s = execFwload image s := rfl
@[simp] theorem exec_fwcommit  (s : State) : exec (.fwcommit) s = execFwcommit s := rfl
@[simp] theorem exec_registerWrite reg value (s : State) : exec (.registerWrite reg value) s = execRegisterWrite reg value s := rfl
@[simp] theorem exec_illop slot (s : State) : exec (.illop slot) s = execIllop slot s := rfl
@[simp] theorem exec_ucieEvent code (s : State) : exec (.ucieEvent code) s = execUcieEvent code s := rfl
@[simp] theorem exec_thermalRelease die (s : State) : exec (.thermalRelease die) s = execThermalRelease die s := rfl
@[simp] theorem exec_debuggerAttach on (s : State) : exec (.debuggerAttach on) s = execDebuggerAttach on s := rfl
@[simp] theorem exec_debuggerResume t (s : State) : exec (.debuggerResume t) s = execDebuggerResume t s := rfl
end Sys2Proof.Machine
end

