-- ==== Sys2Proof/Laws/Maps.lean ====
section
/-! SUPPORT. What the operations on sparse maps and tables do: reading after a write, and that every write keeps the
canonical form. -/
namespace Sys2Proof

@[simp] theorem NMap.get_nil {α : Type} (d : α) (k : Nat) : NMap.get d [] k = d := rfl

theorem NMap.get_put {α : Type} (d : α) (m : NMap α) (k : Nat) (x : α) (j : Nat) :
    NMap.get d (NMap.put m k x) j = if j = k then x else NMap.get d m j := by
  induction m with
  | nil => simp [NMap.put, NMap.get]
  | cons p m ih =>
    obtain ⟨a, y⟩ := p
    simp only [NMap.put]
    split <;> (try split) <;> simp_all [NMap.get] <;> grind

theorem NMap.get_erase {α : Type} (d : α) (m : NMap α) (k j : Nat) :
    NMap.get d (NMap.erase m k) j = if j = k then d else NMap.get d m j := by
  induction m with
  | nil => simp [NMap.erase, NMap.get]
  | cons p m ih =>
    obtain ⟨a, y⟩ := p
    simp only [NMap.erase]
    split <;> simp_all [NMap.get] <;> grind

/-- Reading after a write: the value written at its key, every other key as before. -/
@[simp] theorem NMap.get_set {α : Type} [DecidableEq α] (d : α) (m : NMap α) (k : Nat) (x : α) (j : Nat) :
    NMap.get d (NMap.set d m k x) j = if j = k then x else NMap.get d m j := by
  unfold NMap.set
  split <;> simp_all [NMap.get_put, NMap.get_erase]

theorem NMap.above_put {α : Type} (m : NMap α) (b k : Nat) (x : α) (h : NMap.above b m = true) (hb : b < k) :
    NMap.above b (NMap.put m k x) = true := by
  induction m with
  | nil => simp [NMap.put, NMap.above, hb]
  | cons p m ih =>
    obtain ⟨a, y⟩ := p
    simp only [NMap.put]
    split <;> (try split) <;> simp_all [NMap.above]

theorem NMap.above_erase {α : Type} (m : NMap α) (b k : Nat) (h : NMap.above b m = true) :
    NMap.above b (NMap.erase m k) = true := by
  induction m with
  | nil => rfl
  | cons p m ih =>
    obtain ⟨a, y⟩ := p
    simp only [NMap.erase]
    split <;> simp_all [NMap.above]

theorem NMap.above_mono {α : Type} (m : NMap α) (b c : Nat) (h : NMap.above b m = true) (hc : c ≤ b) :
    NMap.above c m = true := by
  induction m with
  | nil => rfl
  | cons p m ih =>
    obtain ⟨a, y⟩ := p
    simp_all [NMap.above]
    omega

theorem NMap.wf_erase {α : Type} [DecidableEq α] (d : α) (m : NMap α) (k : Nat) (h : NMap.wf d m = true) :
    NMap.wf d (NMap.erase m k) = true := by
  induction m with
  | nil => rfl
  | cons p m ih =>
    obtain ⟨a, y⟩ := p
    simp only [NMap.erase]
    split <;> simp_all [NMap.wf, NMap.above_erase]

theorem NMap.wf_put {α : Type} [DecidableEq α] (d : α) (m : NMap α) (k : Nat) (x : α) (h : NMap.wf d m = true)
    (hx : x ≠ d) : NMap.wf d (NMap.put m k x) = true := by
  induction m with
  | nil => simp [NMap.put, NMap.wf, NMap.above, hx]
  | cons p m ih =>
    obtain ⟨a, y⟩ := p
    simp only [NMap.wf, Bool.and_eq_true, decide_eq_true_eq] at h
    simp only [NMap.put]
    split
    · rename_i hk
      simp [NMap.wf, NMap.above, h, hx, hk, NMap.above_mono m a k h.1.2 (Nat.le_of_lt hk)]
    · split
      · simp_all [NMap.wf]
      · rename_i h1 h2
        simp [NMap.wf, h, ih h.2, NMap.above_put m a k x h.1.2 (by omega)]

/-- A write keeps the canonical form. -/
theorem NMap.wf_set {α : Type} [DecidableEq α] (d : α) (m : NMap α) (k : Nat) (x : α) (h : NMap.wf d m = true) :
    NMap.wf d (NMap.set d m k x) = true := by
  unfold NMap.set
  split
  · exact NMap.wf_erase d m k h
  · exact NMap.wf_put d m k x h (by assumption)

/-- Changing one record leaves the others, and applies the change where the record is. -/
@[simp] theorem Tbl.find_modify {α : Type} (f : α → α) (t : Tbl α) (k j : Nat) :
    Tbl.find (Tbl.modify f t k) j = if j = k then (Tbl.find t j).map f else Tbl.find t j := by
  induction t with
  | nil => simp [Tbl.modify, Tbl.find]
  | cons p m ih =>
    obtain ⟨a, y⟩ := p
    simp only [Tbl.modify]
    split <;> simp_all [Tbl.find] <;> grind

/-- Reading a table after a record is written. -/
@[simp] theorem Tbl.find_put {α : Type} (t : Tbl α) (k : Nat) (x : α) (j : Nat) :
    Tbl.find (Tbl.put t k x) j = if j = k then some x else Tbl.find t j := by
  unfold Tbl.put
  induction t with
  | nil => simp [NMap.put, Tbl.find]
  | cons p m ih =>
    obtain ⟨a, y⟩ := p
    simp only [NMap.put]
    split <;> (try split) <;> simp_all [Tbl.find] <;> grind

@[simp] theorem Tbl.find_del {α : Type} (t : Tbl α) (k j : Nat) :
    Tbl.find (Tbl.del t k) j = if j = k then none else Tbl.find t j := by
  unfold Tbl.del
  induction t with
  | nil => simp [NMap.erase, Tbl.find]
  | cons p m ih =>
    obtain ⟨a, y⟩ := p
    simp only [NMap.erase]
    split <;> simp_all [Tbl.find] <;> grind

@[simp] theorem Tbl.find_mapVals {α : Type} (f : Nat → α → α) (t : Tbl α) (k : Nat) :
    Tbl.find (Tbl.mapVals f t) k = (Tbl.find t k).map (f k) := by
  induction t with
  | nil => rfl
  | cons p m ih =>
    obtain ⟨a, y⟩ := p
    simp only [Tbl.mapVals, Tbl.find]
    split <;> simp_all

/-- Two changes of one record are one change. -/
theorem Tbl.modify_modify {α : Type} (f g : α → α) (t : Tbl α) (k : Nat) :
    Tbl.modify g (Tbl.modify f t k) k = Tbl.modify (fun x => g (f x)) t k := by
  induction t with
  | nil => rfl
  | cons p m ih =>
    obtain ⟨a, y⟩ := p
    simp only [Tbl.modify]
    split <;> simp_all [Tbl.modify]

/-- A change whose value at the record found is known is the writing of that value. -/
theorem Tbl.modify_const {α : Type} (f : α → α) (t : Tbl α) (k : Nat) (x : α) (h : Tbl.find t k = some x) :
    Tbl.modify f t k = Tbl.modify (fun _ => f x) t k := by
  induction t with
  | nil => rfl
  | cons p m ih =>
    obtain ⟨a, y⟩ := p
    simp only [Tbl.find] at h
    simp only [Tbl.modify]
    split <;> simp_all

end Sys2Proof
end

