-- ==== Sys2Proof/Laws/State.lean ====
section
/-! SUPPORT. What each update of the state and of a wave leaves: one lemma for each field and each update. -/
namespace Sys2Proof.Machine

/-! ## State.modWave -/

@[simp] theorem State.modWave_dev (s : State) (n : Nat) (g : Wave → Wave) : (s.modWave n g).dev = s.dev := rfl
@[simp] theorem State.modWave_devs (s : State) (n : Nat) (g : Wave → Wave) : (s.modWave n g).devs = s.devs := rfl
@[simp] theorem State.modWave_hearth (s : State) (n : Nat) (g : Wave → Wave) : (s.modWave n g).hearth = s.hearth := rfl
@[simp] theorem State.modWave_dies (s : State) (n : Nat) (g : Wave → Wave) : (s.modWave n g).dies = s.dies := rfl
@[simp] theorem State.modWave_ctxs (s : State) (n : Nat) (g : Wave → Wave) : (s.modWave n g).ctxs = s.ctxs := rfl
@[simp] theorem State.modWave_queues (s : State) (n : Nat) (g : Wave → Wave) : (s.modWave n g).queues = s.queues := rfl
@[simp] theorem State.modWave_served (s : State) (n : Nat) (g : Wave → Wave) : (s.modWave n g).served = s.served := rfl
@[simp] theorem State.modWave_lastVf (s : State) (n : Nat) (g : Wave → Wave) : (s.modWave n g).lastVf = s.lastVf := rfl
@[simp] theorem State.modWave_kernels (s : State) (n : Nat) (g : Wave → Wave) : (s.modWave n g).kernels = s.kernels := rfl
@[simp] theorem State.modWave_teams (s : State) (n : Nat) (g : Wave → Wave) : (s.modWave n g).teams = s.teams := rfl
@[simp] theorem State.modWave_waves (s : State) (n : Nat) (g : Wave → Wave) : (s.modWave n g).waves = Tbl.modify g s.waves n :=
  rfl
@[simp] theorem State.modWave_pairs (s : State) (n : Nat) (g : Wave → Wave) : (s.modWave n g).pairs = s.pairs := rfl
@[simp] theorem State.modWave_ops (s : State) (n : Nat) (g : Wave → Wave) : (s.modWave n g).ops = s.ops := rfl
@[simp] theorem State.modWave_plans (s : State) (n : Nat) (g : Wave → Wave) : (s.modWave n g).plans = s.plans := rfl
@[simp] theorem State.modWave_mem (s : State) (n : Nat) (g : Wave → Wave) : (s.modWave n g).mem = s.mem := rfl
@[simp] theorem State.modWave_peers (s : State) (n : Nat) (g : Wave → Wave) : (s.modWave n g).peers = s.peers := rfl
@[simp] theorem State.modWave_channels (s : State) (n : Nat) (g : Wave → Wave) : (s.modWave n g).channels = s.channels := rfl
@[simp] theorem State.modWave_rounds (s : State) (n : Nat) (g : Wave → Wave) : (s.modWave n g).rounds = s.rounds := rfl
@[simp] theorem State.modWave_parked (s : State) (n : Nat) (g : Wave → Wave) : (s.modWave n g).parked = s.parked := rfl
@[simp] theorem State.modWave_txs (s : State) (n : Nat) (g : Wave → Wave) : (s.modWave n g).txs = s.txs := rfl
@[simp] theorem State.modWave_light (s : State) (n : Nat) (g : Wave → Wave) : (s.modWave n g).light = s.light := rfl
@[simp] theorem State.modWave_svc (s : State) (n : Nat) (g : Wave → Wave) : (s.modWave n g).svc = s.svc := rfl
@[simp] theorem State.modWave_evring (s : State) (n : Nat) (g : Wave → Wave) : (s.modWave n g).evring = s.evring := rfl
@[simp] theorem State.modWave_evLost (s : State) (n : Nat) (g : Wave → Wave) : (s.modWave n g).evLost = s.evLost := rfl
@[simp] theorem State.modWave_replies (s : State) (n : Nat) (g : Wave → Wave) : (s.modWave n g).replies = s.replies := rfl
@[simp] theorem State.modWave_pendWrites (s : State) (n : Nat) (g : Wave → Wave) : (s.modWave n g).pendWrites = s.pendWrites :=
  rfl
@[simp] theorem State.modWave_pendBinds (s : State) (n : Nat) (g : Wave → Wave) : (s.modWave n g).pendBinds = s.pendBinds := rfl
@[simp] theorem State.modWave_blocks (s : State) (n : Nat) (g : Wave → Wave) : (s.modWave n g).blocks = s.blocks := rfl
@[simp] theorem State.modWave_units (s : State) (n : Nat) (g : Wave → Wave) : (s.modWave n g).units = s.units := rfl
@[simp] theorem State.modWave_slices (s : State) (n : Nat) (g : Wave → Wave) : (s.modWave n g).slices = s.slices := rfl
@[simp] theorem State.modWave_mesh (s : State) (n : Nat) (g : Wave → Wave) : (s.modWave n g).mesh = s.mesh := rfl
@[simp] theorem State.modWave_meshGot (s : State) (n : Nat) (g : Wave → Wave) : (s.modWave n g).meshGot = s.meshGot := rfl
@[simp] theorem State.modWave_xbar (s : State) (n : Nat) (g : Wave → Wave) : (s.modWave n g).xbar = s.xbar := rfl
@[simp] theorem State.modWave_dbgatt (s : State) (n : Nat) (g : Wave → Wave) : (s.modWave n g).dbgatt = s.dbgatt := rfl
@[simp] theorem State.modWave_us (s : State) (n : Nat) (g : Wave → Wave) : (s.modWave n g).us = s.us := rfl
@[simp] theorem State.modWave_cur (s : State) (n : Nat) (g : Wave → Wave) : (s.modWave n g).cur = s.cur := rfl
@[simp] theorem State.modWave_chain (s : State) (n : Nat) (g : Wave → Wave) : (s.modWave n g).chain = s.chain := rfl
@[simp] theorem State.modWave_agenda (s : State) (n : Nat) (g : Wave → Wave) : (s.modWave n g).agenda = s.agenda := rfl
@[simp] theorem State.modWave_tick (s : State) (n : Nat) (g : Wave → Wave) : (s.modWave n g).tick = s.tick := rfl
@[simp] theorem State.modWave_serial (s : State) (n : Nat) (g : Wave → Wave) : (s.modWave n g).serial = s.serial := rfl

/-! ## State.modTeam -/

@[simp] theorem State.modTeam_dev (s : State) (n : Nat) (g : Team → Team) : (s.modTeam n g).dev = s.dev := rfl
@[simp] theorem State.modTeam_devs (s : State) (n : Nat) (g : Team → Team) : (s.modTeam n g).devs = s.devs := rfl
@[simp] theorem State.modTeam_hearth (s : State) (n : Nat) (g : Team → Team) : (s.modTeam n g).hearth = s.hearth := rfl
@[simp] theorem State.modTeam_dies (s : State) (n : Nat) (g : Team → Team) : (s.modTeam n g).dies = s.dies := rfl
@[simp] theorem State.modTeam_ctxs (s : State) (n : Nat) (g : Team → Team) : (s.modTeam n g).ctxs = s.ctxs := rfl
@[simp] theorem State.modTeam_queues (s : State) (n : Nat) (g : Team → Team) : (s.modTeam n g).queues = s.queues := rfl
@[simp] theorem State.modTeam_served (s : State) (n : Nat) (g : Team → Team) : (s.modTeam n g).served = s.served := rfl
@[simp] theorem State.modTeam_lastVf (s : State) (n : Nat) (g : Team → Team) : (s.modTeam n g).lastVf = s.lastVf := rfl
@[simp] theorem State.modTeam_kernels (s : State) (n : Nat) (g : Team → Team) : (s.modTeam n g).kernels = s.kernels := rfl
@[simp] theorem State.modTeam_teams (s : State) (n : Nat) (g : Team → Team) : (s.modTeam n g).teams = Tbl.modify g s.teams n :=
  rfl
@[simp] theorem State.modTeam_waves (s : State) (n : Nat) (g : Team → Team) : (s.modTeam n g).waves = s.waves := rfl
@[simp] theorem State.modTeam_pairs (s : State) (n : Nat) (g : Team → Team) : (s.modTeam n g).pairs = s.pairs := rfl
@[simp] theorem State.modTeam_ops (s : State) (n : Nat) (g : Team → Team) : (s.modTeam n g).ops = s.ops := rfl
@[simp] theorem State.modTeam_plans (s : State) (n : Nat) (g : Team → Team) : (s.modTeam n g).plans = s.plans := rfl
@[simp] theorem State.modTeam_mem (s : State) (n : Nat) (g : Team → Team) : (s.modTeam n g).mem = s.mem := rfl
@[simp] theorem State.modTeam_peers (s : State) (n : Nat) (g : Team → Team) : (s.modTeam n g).peers = s.peers := rfl
@[simp] theorem State.modTeam_channels (s : State) (n : Nat) (g : Team → Team) : (s.modTeam n g).channels = s.channels := rfl
@[simp] theorem State.modTeam_rounds (s : State) (n : Nat) (g : Team → Team) : (s.modTeam n g).rounds = s.rounds := rfl
@[simp] theorem State.modTeam_parked (s : State) (n : Nat) (g : Team → Team) : (s.modTeam n g).parked = s.parked := rfl
@[simp] theorem State.modTeam_txs (s : State) (n : Nat) (g : Team → Team) : (s.modTeam n g).txs = s.txs := rfl
@[simp] theorem State.modTeam_light (s : State) (n : Nat) (g : Team → Team) : (s.modTeam n g).light = s.light := rfl
@[simp] theorem State.modTeam_svc (s : State) (n : Nat) (g : Team → Team) : (s.modTeam n g).svc = s.svc := rfl
@[simp] theorem State.modTeam_evring (s : State) (n : Nat) (g : Team → Team) : (s.modTeam n g).evring = s.evring := rfl
@[simp] theorem State.modTeam_evLost (s : State) (n : Nat) (g : Team → Team) : (s.modTeam n g).evLost = s.evLost := rfl
@[simp] theorem State.modTeam_replies (s : State) (n : Nat) (g : Team → Team) : (s.modTeam n g).replies = s.replies := rfl
@[simp] theorem State.modTeam_pendWrites (s : State) (n : Nat) (g : Team → Team) : (s.modTeam n g).pendWrites = s.pendWrites :=
  rfl
@[simp] theorem State.modTeam_pendBinds (s : State) (n : Nat) (g : Team → Team) : (s.modTeam n g).pendBinds = s.pendBinds := rfl
@[simp] theorem State.modTeam_blocks (s : State) (n : Nat) (g : Team → Team) : (s.modTeam n g).blocks = s.blocks := rfl
@[simp] theorem State.modTeam_units (s : State) (n : Nat) (g : Team → Team) : (s.modTeam n g).units = s.units := rfl
@[simp] theorem State.modTeam_slices (s : State) (n : Nat) (g : Team → Team) : (s.modTeam n g).slices = s.slices := rfl
@[simp] theorem State.modTeam_mesh (s : State) (n : Nat) (g : Team → Team) : (s.modTeam n g).mesh = s.mesh := rfl
@[simp] theorem State.modTeam_meshGot (s : State) (n : Nat) (g : Team → Team) : (s.modTeam n g).meshGot = s.meshGot := rfl
@[simp] theorem State.modTeam_xbar (s : State) (n : Nat) (g : Team → Team) : (s.modTeam n g).xbar = s.xbar := rfl
@[simp] theorem State.modTeam_dbgatt (s : State) (n : Nat) (g : Team → Team) : (s.modTeam n g).dbgatt = s.dbgatt := rfl
@[simp] theorem State.modTeam_us (s : State) (n : Nat) (g : Team → Team) : (s.modTeam n g).us = s.us := rfl
@[simp] theorem State.modTeam_cur (s : State) (n : Nat) (g : Team → Team) : (s.modTeam n g).cur = s.cur := rfl
@[simp] theorem State.modTeam_chain (s : State) (n : Nat) (g : Team → Team) : (s.modTeam n g).chain = s.chain := rfl
@[simp] theorem State.modTeam_agenda (s : State) (n : Nat) (g : Team → Team) : (s.modTeam n g).agenda = s.agenda := rfl
@[simp] theorem State.modTeam_tick (s : State) (n : Nat) (g : Team → Team) : (s.modTeam n g).tick = s.tick := rfl
@[simp] theorem State.modTeam_serial (s : State) (n : Nat) (g : Team → Team) : (s.modTeam n g).serial = s.serial := rfl

/-! ## State.modKern -/

@[simp] theorem State.modKern_dev (s : State) (n : Nat) (g : Kernel → Kernel) : (s.modKern n g).dev = s.dev := rfl
@[simp] theorem State.modKern_devs (s : State) (n : Nat) (g : Kernel → Kernel) : (s.modKern n g).devs = s.devs := rfl
@[simp] theorem State.modKern_hearth (s : State) (n : Nat) (g : Kernel → Kernel) : (s.modKern n g).hearth = s.hearth := rfl
@[simp] theorem State.modKern_dies (s : State) (n : Nat) (g : Kernel → Kernel) : (s.modKern n g).dies = s.dies := rfl
@[simp] theorem State.modKern_ctxs (s : State) (n : Nat) (g : Kernel → Kernel) : (s.modKern n g).ctxs = s.ctxs := rfl
@[simp] theorem State.modKern_queues (s : State) (n : Nat) (g : Kernel → Kernel) : (s.modKern n g).queues = s.queues := rfl
@[simp] theorem State.modKern_served (s : State) (n : Nat) (g : Kernel → Kernel) : (s.modKern n g).served = s.served := rfl
@[simp] theorem State.modKern_lastVf (s : State) (n : Nat) (g : Kernel → Kernel) : (s.modKern n g).lastVf = s.lastVf := rfl
@[simp] theorem State.modKern_kernels (s : State) (n : Nat) (g : Kernel → Kernel) : (s.modKern n g).kernels = Tbl.modify g s.kernels n :=
  rfl
@[simp] theorem State.modKern_teams (s : State) (n : Nat) (g : Kernel → Kernel) : (s.modKern n g).teams = s.teams := rfl
@[simp] theorem State.modKern_waves (s : State) (n : Nat) (g : Kernel → Kernel) : (s.modKern n g).waves = s.waves := rfl
@[simp] theorem State.modKern_pairs (s : State) (n : Nat) (g : Kernel → Kernel) : (s.modKern n g).pairs = s.pairs := rfl
@[simp] theorem State.modKern_ops (s : State) (n : Nat) (g : Kernel → Kernel) : (s.modKern n g).ops = s.ops := rfl
@[simp] theorem State.modKern_plans (s : State) (n : Nat) (g : Kernel → Kernel) : (s.modKern n g).plans = s.plans := rfl
@[simp] theorem State.modKern_mem (s : State) (n : Nat) (g : Kernel → Kernel) : (s.modKern n g).mem = s.mem := rfl
@[simp] theorem State.modKern_peers (s : State) (n : Nat) (g : Kernel → Kernel) : (s.modKern n g).peers = s.peers := rfl
@[simp] theorem State.modKern_channels (s : State) (n : Nat) (g : Kernel → Kernel) : (s.modKern n g).channels = s.channels := rfl
@[simp] theorem State.modKern_rounds (s : State) (n : Nat) (g : Kernel → Kernel) : (s.modKern n g).rounds = s.rounds := rfl
@[simp] theorem State.modKern_parked (s : State) (n : Nat) (g : Kernel → Kernel) : (s.modKern n g).parked = s.parked := rfl
@[simp] theorem State.modKern_txs (s : State) (n : Nat) (g : Kernel → Kernel) : (s.modKern n g).txs = s.txs := rfl
@[simp] theorem State.modKern_light (s : State) (n : Nat) (g : Kernel → Kernel) : (s.modKern n g).light = s.light := rfl
@[simp] theorem State.modKern_svc (s : State) (n : Nat) (g : Kernel → Kernel) : (s.modKern n g).svc = s.svc := rfl
@[simp] theorem State.modKern_evring (s : State) (n : Nat) (g : Kernel → Kernel) : (s.modKern n g).evring = s.evring := rfl
@[simp] theorem State.modKern_evLost (s : State) (n : Nat) (g : Kernel → Kernel) : (s.modKern n g).evLost = s.evLost := rfl
@[simp] theorem State.modKern_replies (s : State) (n : Nat) (g : Kernel → Kernel) : (s.modKern n g).replies = s.replies := rfl
@[simp] theorem State.modKern_pendWrites (s : State) (n : Nat) (g : Kernel → Kernel) : (s.modKern n g).pendWrites = s.pendWrites :=
  rfl
@[simp] theorem State.modKern_pendBinds (s : State) (n : Nat) (g : Kernel → Kernel) : (s.modKern n g).pendBinds = s.pendBinds :=
  rfl
@[simp] theorem State.modKern_blocks (s : State) (n : Nat) (g : Kernel → Kernel) : (s.modKern n g).blocks = s.blocks := rfl
@[simp] theorem State.modKern_units (s : State) (n : Nat) (g : Kernel → Kernel) : (s.modKern n g).units = s.units := rfl
@[simp] theorem State.modKern_slices (s : State) (n : Nat) (g : Kernel → Kernel) : (s.modKern n g).slices = s.slices := rfl
@[simp] theorem State.modKern_mesh (s : State) (n : Nat) (g : Kernel → Kernel) : (s.modKern n g).mesh = s.mesh := rfl
@[simp] theorem State.modKern_meshGot (s : State) (n : Nat) (g : Kernel → Kernel) : (s.modKern n g).meshGot = s.meshGot := rfl
@[simp] theorem State.modKern_xbar (s : State) (n : Nat) (g : Kernel → Kernel) : (s.modKern n g).xbar = s.xbar := rfl
@[simp] theorem State.modKern_dbgatt (s : State) (n : Nat) (g : Kernel → Kernel) : (s.modKern n g).dbgatt = s.dbgatt := rfl
@[simp] theorem State.modKern_us (s : State) (n : Nat) (g : Kernel → Kernel) : (s.modKern n g).us = s.us := rfl
@[simp] theorem State.modKern_cur (s : State) (n : Nat) (g : Kernel → Kernel) : (s.modKern n g).cur = s.cur := rfl
@[simp] theorem State.modKern_chain (s : State) (n : Nat) (g : Kernel → Kernel) : (s.modKern n g).chain = s.chain := rfl
@[simp] theorem State.modKern_agenda (s : State) (n : Nat) (g : Kernel → Kernel) : (s.modKern n g).agenda = s.agenda := rfl
@[simp] theorem State.modKern_tick (s : State) (n : Nat) (g : Kernel → Kernel) : (s.modKern n g).tick = s.tick := rfl
@[simp] theorem State.modKern_serial (s : State) (n : Nat) (g : Kernel → Kernel) : (s.modKern n g).serial = s.serial := rfl

/-! ## State.modCtx -/

@[simp] theorem State.modCtx_dev (s : State) (n : Nat) (g : Ctx → Ctx) : (s.modCtx n g).dev = s.dev := rfl
@[simp] theorem State.modCtx_devs (s : State) (n : Nat) (g : Ctx → Ctx) : (s.modCtx n g).devs = s.devs := rfl
@[simp] theorem State.modCtx_hearth (s : State) (n : Nat) (g : Ctx → Ctx) : (s.modCtx n g).hearth = s.hearth := rfl
@[simp] theorem State.modCtx_dies (s : State) (n : Nat) (g : Ctx → Ctx) : (s.modCtx n g).dies = s.dies := rfl
@[simp] theorem State.modCtx_ctxs (s : State) (n : Nat) (g : Ctx → Ctx) : (s.modCtx n g).ctxs = Tbl.modify g s.ctxs n := rfl
@[simp] theorem State.modCtx_queues (s : State) (n : Nat) (g : Ctx → Ctx) : (s.modCtx n g).queues = s.queues := rfl
@[simp] theorem State.modCtx_served (s : State) (n : Nat) (g : Ctx → Ctx) : (s.modCtx n g).served = s.served := rfl
@[simp] theorem State.modCtx_lastVf (s : State) (n : Nat) (g : Ctx → Ctx) : (s.modCtx n g).lastVf = s.lastVf := rfl
@[simp] theorem State.modCtx_kernels (s : State) (n : Nat) (g : Ctx → Ctx) : (s.modCtx n g).kernels = s.kernels := rfl
@[simp] theorem State.modCtx_teams (s : State) (n : Nat) (g : Ctx → Ctx) : (s.modCtx n g).teams = s.teams := rfl
@[simp] theorem State.modCtx_waves (s : State) (n : Nat) (g : Ctx → Ctx) : (s.modCtx n g).waves = s.waves := rfl
@[simp] theorem State.modCtx_pairs (s : State) (n : Nat) (g : Ctx → Ctx) : (s.modCtx n g).pairs = s.pairs := rfl
@[simp] theorem State.modCtx_ops (s : State) (n : Nat) (g : Ctx → Ctx) : (s.modCtx n g).ops = s.ops := rfl
@[simp] theorem State.modCtx_plans (s : State) (n : Nat) (g : Ctx → Ctx) : (s.modCtx n g).plans = s.plans := rfl
@[simp] theorem State.modCtx_mem (s : State) (n : Nat) (g : Ctx → Ctx) : (s.modCtx n g).mem = s.mem := rfl
@[simp] theorem State.modCtx_peers (s : State) (n : Nat) (g : Ctx → Ctx) : (s.modCtx n g).peers = s.peers := rfl
@[simp] theorem State.modCtx_channels (s : State) (n : Nat) (g : Ctx → Ctx) : (s.modCtx n g).channels = s.channels := rfl
@[simp] theorem State.modCtx_rounds (s : State) (n : Nat) (g : Ctx → Ctx) : (s.modCtx n g).rounds = s.rounds := rfl
@[simp] theorem State.modCtx_parked (s : State) (n : Nat) (g : Ctx → Ctx) : (s.modCtx n g).parked = s.parked := rfl
@[simp] theorem State.modCtx_txs (s : State) (n : Nat) (g : Ctx → Ctx) : (s.modCtx n g).txs = s.txs := rfl
@[simp] theorem State.modCtx_light (s : State) (n : Nat) (g : Ctx → Ctx) : (s.modCtx n g).light = s.light := rfl
@[simp] theorem State.modCtx_svc (s : State) (n : Nat) (g : Ctx → Ctx) : (s.modCtx n g).svc = s.svc := rfl
@[simp] theorem State.modCtx_evring (s : State) (n : Nat) (g : Ctx → Ctx) : (s.modCtx n g).evring = s.evring := rfl
@[simp] theorem State.modCtx_evLost (s : State) (n : Nat) (g : Ctx → Ctx) : (s.modCtx n g).evLost = s.evLost := rfl
@[simp] theorem State.modCtx_replies (s : State) (n : Nat) (g : Ctx → Ctx) : (s.modCtx n g).replies = s.replies := rfl
@[simp] theorem State.modCtx_pendWrites (s : State) (n : Nat) (g : Ctx → Ctx) : (s.modCtx n g).pendWrites = s.pendWrites := rfl
@[simp] theorem State.modCtx_pendBinds (s : State) (n : Nat) (g : Ctx → Ctx) : (s.modCtx n g).pendBinds = s.pendBinds := rfl
@[simp] theorem State.modCtx_blocks (s : State) (n : Nat) (g : Ctx → Ctx) : (s.modCtx n g).blocks = s.blocks := rfl
@[simp] theorem State.modCtx_units (s : State) (n : Nat) (g : Ctx → Ctx) : (s.modCtx n g).units = s.units := rfl
@[simp] theorem State.modCtx_slices (s : State) (n : Nat) (g : Ctx → Ctx) : (s.modCtx n g).slices = s.slices := rfl
@[simp] theorem State.modCtx_mesh (s : State) (n : Nat) (g : Ctx → Ctx) : (s.modCtx n g).mesh = s.mesh := rfl
@[simp] theorem State.modCtx_meshGot (s : State) (n : Nat) (g : Ctx → Ctx) : (s.modCtx n g).meshGot = s.meshGot := rfl
@[simp] theorem State.modCtx_xbar (s : State) (n : Nat) (g : Ctx → Ctx) : (s.modCtx n g).xbar = s.xbar := rfl
@[simp] theorem State.modCtx_dbgatt (s : State) (n : Nat) (g : Ctx → Ctx) : (s.modCtx n g).dbgatt = s.dbgatt := rfl
@[simp] theorem State.modCtx_us (s : State) (n : Nat) (g : Ctx → Ctx) : (s.modCtx n g).us = s.us := rfl
@[simp] theorem State.modCtx_cur (s : State) (n : Nat) (g : Ctx → Ctx) : (s.modCtx n g).cur = s.cur := rfl
@[simp] theorem State.modCtx_chain (s : State) (n : Nat) (g : Ctx → Ctx) : (s.modCtx n g).chain = s.chain := rfl
@[simp] theorem State.modCtx_agenda (s : State) (n : Nat) (g : Ctx → Ctx) : (s.modCtx n g).agenda = s.agenda := rfl
@[simp] theorem State.modCtx_tick (s : State) (n : Nat) (g : Ctx → Ctx) : (s.modCtx n g).tick = s.tick := rfl
@[simp] theorem State.modCtx_serial (s : State) (n : Nat) (g : Ctx → Ctx) : (s.modCtx n g).serial = s.serial := rfl

/-! ## State.modOp -/

@[simp] theorem State.modOp_dev (s : State) (n : Nat) (g : Op → Op) : (s.modOp n g).dev = s.dev := rfl
@[simp] theorem State.modOp_devs (s : State) (n : Nat) (g : Op → Op) : (s.modOp n g).devs = s.devs := rfl
@[simp] theorem State.modOp_hearth (s : State) (n : Nat) (g : Op → Op) : (s.modOp n g).hearth = s.hearth := rfl
@[simp] theorem State.modOp_dies (s : State) (n : Nat) (g : Op → Op) : (s.modOp n g).dies = s.dies := rfl
@[simp] theorem State.modOp_ctxs (s : State) (n : Nat) (g : Op → Op) : (s.modOp n g).ctxs = s.ctxs := rfl
@[simp] theorem State.modOp_queues (s : State) (n : Nat) (g : Op → Op) : (s.modOp n g).queues = s.queues := rfl
@[simp] theorem State.modOp_served (s : State) (n : Nat) (g : Op → Op) : (s.modOp n g).served = s.served := rfl
@[simp] theorem State.modOp_lastVf (s : State) (n : Nat) (g : Op → Op) : (s.modOp n g).lastVf = s.lastVf := rfl
@[simp] theorem State.modOp_kernels (s : State) (n : Nat) (g : Op → Op) : (s.modOp n g).kernels = s.kernels := rfl
@[simp] theorem State.modOp_teams (s : State) (n : Nat) (g : Op → Op) : (s.modOp n g).teams = s.teams := rfl
@[simp] theorem State.modOp_waves (s : State) (n : Nat) (g : Op → Op) : (s.modOp n g).waves = s.waves := rfl
@[simp] theorem State.modOp_pairs (s : State) (n : Nat) (g : Op → Op) : (s.modOp n g).pairs = s.pairs := rfl
@[simp] theorem State.modOp_ops (s : State) (n : Nat) (g : Op → Op) : (s.modOp n g).ops = Tbl.modify g s.ops n := rfl
@[simp] theorem State.modOp_plans (s : State) (n : Nat) (g : Op → Op) : (s.modOp n g).plans = s.plans := rfl
@[simp] theorem State.modOp_mem (s : State) (n : Nat) (g : Op → Op) : (s.modOp n g).mem = s.mem := rfl
@[simp] theorem State.modOp_peers (s : State) (n : Nat) (g : Op → Op) : (s.modOp n g).peers = s.peers := rfl
@[simp] theorem State.modOp_channels (s : State) (n : Nat) (g : Op → Op) : (s.modOp n g).channels = s.channels := rfl
@[simp] theorem State.modOp_rounds (s : State) (n : Nat) (g : Op → Op) : (s.modOp n g).rounds = s.rounds := rfl
@[simp] theorem State.modOp_parked (s : State) (n : Nat) (g : Op → Op) : (s.modOp n g).parked = s.parked := rfl
@[simp] theorem State.modOp_txs (s : State) (n : Nat) (g : Op → Op) : (s.modOp n g).txs = s.txs := rfl
@[simp] theorem State.modOp_light (s : State) (n : Nat) (g : Op → Op) : (s.modOp n g).light = s.light := rfl
@[simp] theorem State.modOp_svc (s : State) (n : Nat) (g : Op → Op) : (s.modOp n g).svc = s.svc := rfl
@[simp] theorem State.modOp_evring (s : State) (n : Nat) (g : Op → Op) : (s.modOp n g).evring = s.evring := rfl
@[simp] theorem State.modOp_evLost (s : State) (n : Nat) (g : Op → Op) : (s.modOp n g).evLost = s.evLost := rfl
@[simp] theorem State.modOp_replies (s : State) (n : Nat) (g : Op → Op) : (s.modOp n g).replies = s.replies := rfl
@[simp] theorem State.modOp_pendWrites (s : State) (n : Nat) (g : Op → Op) : (s.modOp n g).pendWrites = s.pendWrites := rfl
@[simp] theorem State.modOp_pendBinds (s : State) (n : Nat) (g : Op → Op) : (s.modOp n g).pendBinds = s.pendBinds := rfl
@[simp] theorem State.modOp_blocks (s : State) (n : Nat) (g : Op → Op) : (s.modOp n g).blocks = s.blocks := rfl
@[simp] theorem State.modOp_units (s : State) (n : Nat) (g : Op → Op) : (s.modOp n g).units = s.units := rfl
@[simp] theorem State.modOp_slices (s : State) (n : Nat) (g : Op → Op) : (s.modOp n g).slices = s.slices := rfl
@[simp] theorem State.modOp_mesh (s : State) (n : Nat) (g : Op → Op) : (s.modOp n g).mesh = s.mesh := rfl
@[simp] theorem State.modOp_meshGot (s : State) (n : Nat) (g : Op → Op) : (s.modOp n g).meshGot = s.meshGot := rfl
@[simp] theorem State.modOp_xbar (s : State) (n : Nat) (g : Op → Op) : (s.modOp n g).xbar = s.xbar := rfl
@[simp] theorem State.modOp_dbgatt (s : State) (n : Nat) (g : Op → Op) : (s.modOp n g).dbgatt = s.dbgatt := rfl
@[simp] theorem State.modOp_us (s : State) (n : Nat) (g : Op → Op) : (s.modOp n g).us = s.us := rfl
@[simp] theorem State.modOp_cur (s : State) (n : Nat) (g : Op → Op) : (s.modOp n g).cur = s.cur := rfl
@[simp] theorem State.modOp_chain (s : State) (n : Nat) (g : Op → Op) : (s.modOp n g).chain = s.chain := rfl
@[simp] theorem State.modOp_agenda (s : State) (n : Nat) (g : Op → Op) : (s.modOp n g).agenda = s.agenda := rfl
@[simp] theorem State.modOp_tick (s : State) (n : Nat) (g : Op → Op) : (s.modOp n g).tick = s.tick := rfl
@[simp] theorem State.modOp_serial (s : State) (n : Nat) (g : Op → Op) : (s.modOp n g).serial = s.serial := rfl

/-! ## State.modQueue -/

@[simp] theorem State.modQueue_dev (s : State) (n : Nat) (g : Queue → Queue) : (s.modQueue n g).dev = s.dev := rfl
@[simp] theorem State.modQueue_devs (s : State) (n : Nat) (g : Queue → Queue) : (s.modQueue n g).devs = s.devs := rfl
@[simp] theorem State.modQueue_hearth (s : State) (n : Nat) (g : Queue → Queue) : (s.modQueue n g).hearth = s.hearth := rfl
@[simp] theorem State.modQueue_dies (s : State) (n : Nat) (g : Queue → Queue) : (s.modQueue n g).dies = s.dies := rfl
@[simp] theorem State.modQueue_ctxs (s : State) (n : Nat) (g : Queue → Queue) : (s.modQueue n g).ctxs = s.ctxs := rfl
@[simp] theorem State.modQueue_queues (s : State) (n : Nat) (g : Queue → Queue) : (s.modQueue n g).queues = Tbl.put s.queues n (g ((Tbl.find s.queues n).getD {})) :=
  rfl
@[simp] theorem State.modQueue_served (s : State) (n : Nat) (g : Queue → Queue) : (s.modQueue n g).served = s.served := rfl
@[simp] theorem State.modQueue_lastVf (s : State) (n : Nat) (g : Queue → Queue) : (s.modQueue n g).lastVf = s.lastVf := rfl
@[simp] theorem State.modQueue_kernels (s : State) (n : Nat) (g : Queue → Queue) : (s.modQueue n g).kernels = s.kernels := rfl
@[simp] theorem State.modQueue_teams (s : State) (n : Nat) (g : Queue → Queue) : (s.modQueue n g).teams = s.teams := rfl
@[simp] theorem State.modQueue_waves (s : State) (n : Nat) (g : Queue → Queue) : (s.modQueue n g).waves = s.waves := rfl
@[simp] theorem State.modQueue_pairs (s : State) (n : Nat) (g : Queue → Queue) : (s.modQueue n g).pairs = s.pairs := rfl
@[simp] theorem State.modQueue_ops (s : State) (n : Nat) (g : Queue → Queue) : (s.modQueue n g).ops = s.ops := rfl
@[simp] theorem State.modQueue_plans (s : State) (n : Nat) (g : Queue → Queue) : (s.modQueue n g).plans = s.plans := rfl
@[simp] theorem State.modQueue_mem (s : State) (n : Nat) (g : Queue → Queue) : (s.modQueue n g).mem = s.mem := rfl
@[simp] theorem State.modQueue_peers (s : State) (n : Nat) (g : Queue → Queue) : (s.modQueue n g).peers = s.peers := rfl
@[simp] theorem State.modQueue_channels (s : State) (n : Nat) (g : Queue → Queue) : (s.modQueue n g).channels = s.channels := rfl
@[simp] theorem State.modQueue_rounds (s : State) (n : Nat) (g : Queue → Queue) : (s.modQueue n g).rounds = s.rounds := rfl
@[simp] theorem State.modQueue_parked (s : State) (n : Nat) (g : Queue → Queue) : (s.modQueue n g).parked = s.parked := rfl
@[simp] theorem State.modQueue_txs (s : State) (n : Nat) (g : Queue → Queue) : (s.modQueue n g).txs = s.txs := rfl
@[simp] theorem State.modQueue_light (s : State) (n : Nat) (g : Queue → Queue) : (s.modQueue n g).light = s.light := rfl
@[simp] theorem State.modQueue_svc (s : State) (n : Nat) (g : Queue → Queue) : (s.modQueue n g).svc = s.svc := rfl
@[simp] theorem State.modQueue_evring (s : State) (n : Nat) (g : Queue → Queue) : (s.modQueue n g).evring = s.evring := rfl
@[simp] theorem State.modQueue_evLost (s : State) (n : Nat) (g : Queue → Queue) : (s.modQueue n g).evLost = s.evLost := rfl
@[simp] theorem State.modQueue_replies (s : State) (n : Nat) (g : Queue → Queue) : (s.modQueue n g).replies = s.replies := rfl
@[simp] theorem State.modQueue_pendWrites (s : State) (n : Nat) (g : Queue → Queue) : (s.modQueue n g).pendWrites = s.pendWrites :=
  rfl
@[simp] theorem State.modQueue_pendBinds (s : State) (n : Nat) (g : Queue → Queue) : (s.modQueue n g).pendBinds = s.pendBinds :=
  rfl
@[simp] theorem State.modQueue_blocks (s : State) (n : Nat) (g : Queue → Queue) : (s.modQueue n g).blocks = s.blocks := rfl
@[simp] theorem State.modQueue_units (s : State) (n : Nat) (g : Queue → Queue) : (s.modQueue n g).units = s.units := rfl
@[simp] theorem State.modQueue_slices (s : State) (n : Nat) (g : Queue → Queue) : (s.modQueue n g).slices = s.slices := rfl
@[simp] theorem State.modQueue_mesh (s : State) (n : Nat) (g : Queue → Queue) : (s.modQueue n g).mesh = s.mesh := rfl
@[simp] theorem State.modQueue_meshGot (s : State) (n : Nat) (g : Queue → Queue) : (s.modQueue n g).meshGot = s.meshGot := rfl
@[simp] theorem State.modQueue_xbar (s : State) (n : Nat) (g : Queue → Queue) : (s.modQueue n g).xbar = s.xbar := rfl
@[simp] theorem State.modQueue_dbgatt (s : State) (n : Nat) (g : Queue → Queue) : (s.modQueue n g).dbgatt = s.dbgatt := rfl
@[simp] theorem State.modQueue_us (s : State) (n : Nat) (g : Queue → Queue) : (s.modQueue n g).us = s.us := rfl
@[simp] theorem State.modQueue_cur (s : State) (n : Nat) (g : Queue → Queue) : (s.modQueue n g).cur = s.cur := rfl
@[simp] theorem State.modQueue_chain (s : State) (n : Nat) (g : Queue → Queue) : (s.modQueue n g).chain = s.chain := rfl
@[simp] theorem State.modQueue_agenda (s : State) (n : Nat) (g : Queue → Queue) : (s.modQueue n g).agenda = s.agenda := rfl
@[simp] theorem State.modQueue_tick (s : State) (n : Nat) (g : Queue → Queue) : (s.modQueue n g).tick = s.tick := rfl
@[simp] theorem State.modQueue_serial (s : State) (n : Nat) (g : Queue → Queue) : (s.modQueue n g).serial = s.serial := rfl

/-! ## State.modPlan -/

@[simp] theorem State.modPlan_dev (s : State) (key : Nat) (g : Plan → Plan) : (s.modPlan key g).dev = s.dev := rfl
@[simp] theorem State.modPlan_devs (s : State) (key : Nat) (g : Plan → Plan) : (s.modPlan key g).devs = s.devs := rfl
@[simp] theorem State.modPlan_hearth (s : State) (key : Nat) (g : Plan → Plan) : (s.modPlan key g).hearth = s.hearth := rfl
@[simp] theorem State.modPlan_dies (s : State) (key : Nat) (g : Plan → Plan) : (s.modPlan key g).dies = s.dies := rfl
@[simp] theorem State.modPlan_ctxs (s : State) (key : Nat) (g : Plan → Plan) : (s.modPlan key g).ctxs = s.ctxs := rfl
@[simp] theorem State.modPlan_queues (s : State) (key : Nat) (g : Plan → Plan) : (s.modPlan key g).queues = s.queues := rfl
@[simp] theorem State.modPlan_served (s : State) (key : Nat) (g : Plan → Plan) : (s.modPlan key g).served = s.served := rfl
@[simp] theorem State.modPlan_lastVf (s : State) (key : Nat) (g : Plan → Plan) : (s.modPlan key g).lastVf = s.lastVf := rfl
@[simp] theorem State.modPlan_kernels (s : State) (key : Nat) (g : Plan → Plan) : (s.modPlan key g).kernels = s.kernels := rfl
@[simp] theorem State.modPlan_teams (s : State) (key : Nat) (g : Plan → Plan) : (s.modPlan key g).teams = s.teams := rfl
@[simp] theorem State.modPlan_waves (s : State) (key : Nat) (g : Plan → Plan) : (s.modPlan key g).waves = s.waves := rfl
@[simp] theorem State.modPlan_pairs (s : State) (key : Nat) (g : Plan → Plan) : (s.modPlan key g).pairs = s.pairs := rfl
@[simp] theorem State.modPlan_ops (s : State) (key : Nat) (g : Plan → Plan) : (s.modPlan key g).ops = s.ops := rfl
@[simp] theorem State.modPlan_plans (s : State) (key : Nat) (g : Plan → Plan) : (s.modPlan key g).plans = Tbl.modify g s.plans key :=
  rfl
@[simp] theorem State.modPlan_mem (s : State) (key : Nat) (g : Plan → Plan) : (s.modPlan key g).mem = s.mem := rfl
@[simp] theorem State.modPlan_peers (s : State) (key : Nat) (g : Plan → Plan) : (s.modPlan key g).peers = s.peers := rfl
@[simp] theorem State.modPlan_channels (s : State) (key : Nat) (g : Plan → Plan) : (s.modPlan key g).channels = s.channels := rfl
@[simp] theorem State.modPlan_rounds (s : State) (key : Nat) (g : Plan → Plan) : (s.modPlan key g).rounds = s.rounds := rfl
@[simp] theorem State.modPlan_parked (s : State) (key : Nat) (g : Plan → Plan) : (s.modPlan key g).parked = s.parked := rfl
@[simp] theorem State.modPlan_txs (s : State) (key : Nat) (g : Plan → Plan) : (s.modPlan key g).txs = s.txs := rfl
@[simp] theorem State.modPlan_light (s : State) (key : Nat) (g : Plan → Plan) : (s.modPlan key g).light = s.light := rfl
@[simp] theorem State.modPlan_svc (s : State) (key : Nat) (g : Plan → Plan) : (s.modPlan key g).svc = s.svc := rfl
@[simp] theorem State.modPlan_evring (s : State) (key : Nat) (g : Plan → Plan) : (s.modPlan key g).evring = s.evring := rfl
@[simp] theorem State.modPlan_evLost (s : State) (key : Nat) (g : Plan → Plan) : (s.modPlan key g).evLost = s.evLost := rfl
@[simp] theorem State.modPlan_replies (s : State) (key : Nat) (g : Plan → Plan) : (s.modPlan key g).replies = s.replies := rfl
@[simp] theorem State.modPlan_pendWrites (s : State) (key : Nat) (g : Plan → Plan) : (s.modPlan key g).pendWrites = s.pendWrites :=
  rfl
@[simp] theorem State.modPlan_pendBinds (s : State) (key : Nat) (g : Plan → Plan) : (s.modPlan key g).pendBinds = s.pendBinds :=
  rfl
@[simp] theorem State.modPlan_blocks (s : State) (key : Nat) (g : Plan → Plan) : (s.modPlan key g).blocks = s.blocks := rfl
@[simp] theorem State.modPlan_units (s : State) (key : Nat) (g : Plan → Plan) : (s.modPlan key g).units = s.units := rfl
@[simp] theorem State.modPlan_slices (s : State) (key : Nat) (g : Plan → Plan) : (s.modPlan key g).slices = s.slices := rfl
@[simp] theorem State.modPlan_mesh (s : State) (key : Nat) (g : Plan → Plan) : (s.modPlan key g).mesh = s.mesh := rfl
@[simp] theorem State.modPlan_meshGot (s : State) (key : Nat) (g : Plan → Plan) : (s.modPlan key g).meshGot = s.meshGot := rfl
@[simp] theorem State.modPlan_xbar (s : State) (key : Nat) (g : Plan → Plan) : (s.modPlan key g).xbar = s.xbar := rfl
@[simp] theorem State.modPlan_dbgatt (s : State) (key : Nat) (g : Plan → Plan) : (s.modPlan key g).dbgatt = s.dbgatt := rfl
@[simp] theorem State.modPlan_us (s : State) (key : Nat) (g : Plan → Plan) : (s.modPlan key g).us = s.us := rfl
@[simp] theorem State.modPlan_cur (s : State) (key : Nat) (g : Plan → Plan) : (s.modPlan key g).cur = s.cur := rfl
@[simp] theorem State.modPlan_chain (s : State) (key : Nat) (g : Plan → Plan) : (s.modPlan key g).chain = s.chain := rfl
@[simp] theorem State.modPlan_agenda (s : State) (key : Nat) (g : Plan → Plan) : (s.modPlan key g).agenda = s.agenda := rfl
@[simp] theorem State.modPlan_tick (s : State) (key : Nat) (g : Plan → Plan) : (s.modPlan key g).tick = s.tick := rfl
@[simp] theorem State.modPlan_serial (s : State) (key : Nat) (g : Plan → Plan) : (s.modPlan key g).serial = s.serial := rfl

/-! ## State.modPeer -/

@[simp] theorem State.modPeer_dev (s : State) (p : Nat) (g : Peer → Peer) : (s.modPeer p g).dev = s.dev := rfl
@[simp] theorem State.modPeer_devs (s : State) (p : Nat) (g : Peer → Peer) : (s.modPeer p g).devs = s.devs := rfl
@[simp] theorem State.modPeer_hearth (s : State) (p : Nat) (g : Peer → Peer) : (s.modPeer p g).hearth = s.hearth := rfl
@[simp] theorem State.modPeer_dies (s : State) (p : Nat) (g : Peer → Peer) : (s.modPeer p g).dies = s.dies := rfl
@[simp] theorem State.modPeer_ctxs (s : State) (p : Nat) (g : Peer → Peer) : (s.modPeer p g).ctxs = s.ctxs := rfl
@[simp] theorem State.modPeer_queues (s : State) (p : Nat) (g : Peer → Peer) : (s.modPeer p g).queues = s.queues := rfl
@[simp] theorem State.modPeer_served (s : State) (p : Nat) (g : Peer → Peer) : (s.modPeer p g).served = s.served := rfl
@[simp] theorem State.modPeer_lastVf (s : State) (p : Nat) (g : Peer → Peer) : (s.modPeer p g).lastVf = s.lastVf := rfl
@[simp] theorem State.modPeer_kernels (s : State) (p : Nat) (g : Peer → Peer) : (s.modPeer p g).kernels = s.kernels := rfl
@[simp] theorem State.modPeer_teams (s : State) (p : Nat) (g : Peer → Peer) : (s.modPeer p g).teams = s.teams := rfl
@[simp] theorem State.modPeer_waves (s : State) (p : Nat) (g : Peer → Peer) : (s.modPeer p g).waves = s.waves := rfl
@[simp] theorem State.modPeer_pairs (s : State) (p : Nat) (g : Peer → Peer) : (s.modPeer p g).pairs = s.pairs := rfl
@[simp] theorem State.modPeer_ops (s : State) (p : Nat) (g : Peer → Peer) : (s.modPeer p g).ops = s.ops := rfl
@[simp] theorem State.modPeer_plans (s : State) (p : Nat) (g : Peer → Peer) : (s.modPeer p g).plans = s.plans := rfl
@[simp] theorem State.modPeer_mem (s : State) (p : Nat) (g : Peer → Peer) : (s.modPeer p g).mem = s.mem := rfl
@[simp] theorem State.modPeer_peers (s : State) (p : Nat) (g : Peer → Peer) : (s.modPeer p g).peers = Tbl.modify g s.peers p :=
  rfl
@[simp] theorem State.modPeer_channels (s : State) (p : Nat) (g : Peer → Peer) : (s.modPeer p g).channels = s.channels := rfl
@[simp] theorem State.modPeer_rounds (s : State) (p : Nat) (g : Peer → Peer) : (s.modPeer p g).rounds = s.rounds := rfl
@[simp] theorem State.modPeer_parked (s : State) (p : Nat) (g : Peer → Peer) : (s.modPeer p g).parked = s.parked := rfl
@[simp] theorem State.modPeer_txs (s : State) (p : Nat) (g : Peer → Peer) : (s.modPeer p g).txs = s.txs := rfl
@[simp] theorem State.modPeer_light (s : State) (p : Nat) (g : Peer → Peer) : (s.modPeer p g).light = s.light := rfl
@[simp] theorem State.modPeer_svc (s : State) (p : Nat) (g : Peer → Peer) : (s.modPeer p g).svc = s.svc := rfl
@[simp] theorem State.modPeer_evring (s : State) (p : Nat) (g : Peer → Peer) : (s.modPeer p g).evring = s.evring := rfl
@[simp] theorem State.modPeer_evLost (s : State) (p : Nat) (g : Peer → Peer) : (s.modPeer p g).evLost = s.evLost := rfl
@[simp] theorem State.modPeer_replies (s : State) (p : Nat) (g : Peer → Peer) : (s.modPeer p g).replies = s.replies := rfl
@[simp] theorem State.modPeer_pendWrites (s : State) (p : Nat) (g : Peer → Peer) : (s.modPeer p g).pendWrites = s.pendWrites :=
  rfl
@[simp] theorem State.modPeer_pendBinds (s : State) (p : Nat) (g : Peer → Peer) : (s.modPeer p g).pendBinds = s.pendBinds := rfl
@[simp] theorem State.modPeer_blocks (s : State) (p : Nat) (g : Peer → Peer) : (s.modPeer p g).blocks = s.blocks := rfl
@[simp] theorem State.modPeer_units (s : State) (p : Nat) (g : Peer → Peer) : (s.modPeer p g).units = s.units := rfl
@[simp] theorem State.modPeer_slices (s : State) (p : Nat) (g : Peer → Peer) : (s.modPeer p g).slices = s.slices := rfl
@[simp] theorem State.modPeer_mesh (s : State) (p : Nat) (g : Peer → Peer) : (s.modPeer p g).mesh = s.mesh := rfl
@[simp] theorem State.modPeer_meshGot (s : State) (p : Nat) (g : Peer → Peer) : (s.modPeer p g).meshGot = s.meshGot := rfl
@[simp] theorem State.modPeer_xbar (s : State) (p : Nat) (g : Peer → Peer) : (s.modPeer p g).xbar = s.xbar := rfl
@[simp] theorem State.modPeer_dbgatt (s : State) (p : Nat) (g : Peer → Peer) : (s.modPeer p g).dbgatt = s.dbgatt := rfl
@[simp] theorem State.modPeer_us (s : State) (p : Nat) (g : Peer → Peer) : (s.modPeer p g).us = s.us := rfl
@[simp] theorem State.modPeer_cur (s : State) (p : Nat) (g : Peer → Peer) : (s.modPeer p g).cur = s.cur := rfl
@[simp] theorem State.modPeer_chain (s : State) (p : Nat) (g : Peer → Peer) : (s.modPeer p g).chain = s.chain := rfl
@[simp] theorem State.modPeer_agenda (s : State) (p : Nat) (g : Peer → Peer) : (s.modPeer p g).agenda = s.agenda := rfl
@[simp] theorem State.modPeer_tick (s : State) (p : Nat) (g : Peer → Peer) : (s.modPeer p g).tick = s.tick := rfl
@[simp] theorem State.modPeer_serial (s : State) (p : Nat) (g : Peer → Peer) : (s.modPeer p g).serial = s.serial := rfl

/-! ## State.useLine -/

@[simp] theorem State.useLine_dev (s : State) (vf : Nat) (wr : Bool) (n : Nat) : (s.useLine vf wr n).dev = s.dev := rfl
@[simp] theorem State.useLine_devs (s : State) (vf : Nat) (wr : Bool) (n : Nat) : (s.useLine vf wr n).devs = s.devs := rfl
@[simp] theorem State.useLine_hearth (s : State) (vf : Nat) (wr : Bool) (n : Nat) : (s.useLine vf wr n).hearth = s.hearth := rfl
@[simp] theorem State.useLine_dies (s : State) (vf : Nat) (wr : Bool) (n : Nat) : (s.useLine vf wr n).dies = s.dies := rfl
@[simp] theorem State.useLine_ctxs (s : State) (vf : Nat) (wr : Bool) (n : Nat) : (s.useLine vf wr n).ctxs = s.ctxs := rfl
@[simp] theorem State.useLine_queues (s : State) (vf : Nat) (wr : Bool) (n : Nat) : (s.useLine vf wr n).queues = s.queues := rfl
@[simp] theorem State.useLine_served (s : State) (vf : Nat) (wr : Bool) (n : Nat) : (s.useLine vf wr n).served = s.served := rfl
@[simp] theorem State.useLine_lastVf (s : State) (vf : Nat) (wr : Bool) (n : Nat) : (s.useLine vf wr n).lastVf = s.lastVf := rfl
@[simp] theorem State.useLine_kernels (s : State) (vf : Nat) (wr : Bool) (n : Nat) : (s.useLine vf wr n).kernels = s.kernels :=
  rfl
@[simp] theorem State.useLine_teams (s : State) (vf : Nat) (wr : Bool) (n : Nat) : (s.useLine vf wr n).teams = s.teams := rfl
@[simp] theorem State.useLine_waves (s : State) (vf : Nat) (wr : Bool) (n : Nat) : (s.useLine vf wr n).waves = s.waves := rfl
@[simp] theorem State.useLine_pairs (s : State) (vf : Nat) (wr : Bool) (n : Nat) : (s.useLine vf wr n).pairs = s.pairs := rfl
@[simp] theorem State.useLine_ops (s : State) (vf : Nat) (wr : Bool) (n : Nat) : (s.useLine vf wr n).ops = s.ops := rfl
@[simp] theorem State.useLine_plans (s : State) (vf : Nat) (wr : Bool) (n : Nat) : (s.useLine vf wr n).plans = s.plans := rfl
@[simp] theorem State.useLine_mem (s : State) (vf : Nat) (wr : Bool) (n : Nat) : (s.useLine vf wr n).mem = s.mem := rfl
@[simp] theorem State.useLine_peers (s : State) (vf : Nat) (wr : Bool) (n : Nat) : (s.useLine vf wr n).peers = s.peers := rfl
@[simp] theorem State.useLine_channels (s : State) (vf : Nat) (wr : Bool) (n : Nat) : (s.useLine vf wr n).channels = s.channels :=
  rfl
@[simp] theorem State.useLine_rounds (s : State) (vf : Nat) (wr : Bool) (n : Nat) : (s.useLine vf wr n).rounds = s.rounds := rfl
@[simp] theorem State.useLine_parked (s : State) (vf : Nat) (wr : Bool) (n : Nat) : (s.useLine vf wr n).parked = s.parked := rfl
@[simp] theorem State.useLine_txs (s : State) (vf : Nat) (wr : Bool) (n : Nat) : (s.useLine vf wr n).txs = s.txs := rfl
@[simp] theorem State.useLine_light (s : State) (vf : Nat) (wr : Bool) (n : Nat) : (s.useLine vf wr n).light = s.light := rfl
@[simp] theorem State.useLine_svc (s : State) (vf : Nat) (wr : Bool) (n : Nat) : (s.useLine vf wr n).svc = s.svc := rfl
@[simp] theorem State.useLine_evring (s : State) (vf : Nat) (wr : Bool) (n : Nat) : (s.useLine vf wr n).evring = s.evring := rfl
@[simp] theorem State.useLine_evLost (s : State) (vf : Nat) (wr : Bool) (n : Nat) : (s.useLine vf wr n).evLost = s.evLost := rfl
@[simp] theorem State.useLine_replies (s : State) (vf : Nat) (wr : Bool) (n : Nat) : (s.useLine vf wr n).replies = s.replies :=
  rfl
@[simp] theorem State.useLine_pendWrites (s : State) (vf : Nat) (wr : Bool) (n : Nat) : (s.useLine vf wr n).pendWrites = s.pendWrites :=
  rfl
@[simp] theorem State.useLine_pendBinds (s : State) (vf : Nat) (wr : Bool) (n : Nat) : (s.useLine vf wr n).pendBinds = s.pendBinds :=
  rfl
@[simp] theorem State.useLine_blocks (s : State) (vf : Nat) (wr : Bool) (n : Nat) : (s.useLine vf wr n).blocks = s.blocks := rfl
@[simp] theorem State.useLine_units (s : State) (vf : Nat) (wr : Bool) (n : Nat) : (s.useLine vf wr n).units = s.units := rfl
@[simp] theorem State.useLine_slices (s : State) (vf : Nat) (wr : Bool) (n : Nat) : (s.useLine vf wr n).slices = Tbl.put s.slices (sliceOf (128 * n)) (Machine.useLine vf wr n ((Tbl.find s.slices (sliceOf (128 * n))).getD [])) :=
  rfl
@[simp] theorem State.useLine_mesh (s : State) (vf : Nat) (wr : Bool) (n : Nat) : (s.useLine vf wr n).mesh = s.mesh := rfl
@[simp] theorem State.useLine_meshGot (s : State) (vf : Nat) (wr : Bool) (n : Nat) : (s.useLine vf wr n).meshGot = s.meshGot :=
  rfl
@[simp] theorem State.useLine_xbar (s : State) (vf : Nat) (wr : Bool) (n : Nat) : (s.useLine vf wr n).xbar = s.xbar := rfl
@[simp] theorem State.useLine_dbgatt (s : State) (vf : Nat) (wr : Bool) (n : Nat) : (s.useLine vf wr n).dbgatt = s.dbgatt := rfl
@[simp] theorem State.useLine_us (s : State) (vf : Nat) (wr : Bool) (n : Nat) : (s.useLine vf wr n).us = s.us := rfl
@[simp] theorem State.useLine_cur (s : State) (vf : Nat) (wr : Bool) (n : Nat) : (s.useLine vf wr n).cur = s.cur := rfl
@[simp] theorem State.useLine_chain (s : State) (vf : Nat) (wr : Bool) (n : Nat) : (s.useLine vf wr n).chain = s.chain := rfl
@[simp] theorem State.useLine_agenda (s : State) (vf : Nat) (wr : Bool) (n : Nat) : (s.useLine vf wr n).agenda = s.agenda := rfl
@[simp] theorem State.useLine_tick (s : State) (vf : Nat) (wr : Bool) (n : Nat) : (s.useLine vf wr n).tick = s.tick := rfl
@[simp] theorem State.useLine_serial (s : State) (vf : Nat) (wr : Bool) (n : Nat) : (s.useLine vf wr n).serial = s.serial := rfl

/-! ## State.setHbm -/

@[simp] theorem State.setHbm_dev (s : State) (a : Nat) (bs : List Byte) : (s.setHbm a bs).dev = s.dev := rfl
@[simp] theorem State.setHbm_devs (s : State) (a : Nat) (bs : List Byte) : (s.setHbm a bs).devs = s.devs := rfl
@[simp] theorem State.setHbm_hearth (s : State) (a : Nat) (bs : List Byte) : (s.setHbm a bs).hearth = s.hearth := rfl
@[simp] theorem State.setHbm_dies (s : State) (a : Nat) (bs : List Byte) : (s.setHbm a bs).dies = s.dies := rfl
@[simp] theorem State.setHbm_ctxs (s : State) (a : Nat) (bs : List Byte) : (s.setHbm a bs).ctxs = s.ctxs := rfl
@[simp] theorem State.setHbm_queues (s : State) (a : Nat) (bs : List Byte) : (s.setHbm a bs).queues = s.queues := rfl
@[simp] theorem State.setHbm_served (s : State) (a : Nat) (bs : List Byte) : (s.setHbm a bs).served = s.served := rfl
@[simp] theorem State.setHbm_lastVf (s : State) (a : Nat) (bs : List Byte) : (s.setHbm a bs).lastVf = s.lastVf := rfl
@[simp] theorem State.setHbm_kernels (s : State) (a : Nat) (bs : List Byte) : (s.setHbm a bs).kernels = s.kernels := rfl
@[simp] theorem State.setHbm_teams (s : State) (a : Nat) (bs : List Byte) : (s.setHbm a bs).teams = s.teams := rfl
@[simp] theorem State.setHbm_waves (s : State) (a : Nat) (bs : List Byte) : (s.setHbm a bs).waves = s.waves := rfl
@[simp] theorem State.setHbm_pairs (s : State) (a : Nat) (bs : List Byte) : (s.setHbm a bs).pairs = s.pairs := rfl
@[simp] theorem State.setHbm_ops (s : State) (a : Nat) (bs : List Byte) : (s.setHbm a bs).ops = s.ops := rfl
@[simp] theorem State.setHbm_plans (s : State) (a : Nat) (bs : List Byte) : (s.setHbm a bs).plans = s.plans := rfl
@[simp] theorem State.setHbm_mem (s : State) (a : Nat) (bs : List Byte) : (s.setHbm a bs).mem = writeBytes memDefault s.mem a bs :=
  rfl
@[simp] theorem State.setHbm_peers (s : State) (a : Nat) (bs : List Byte) : (s.setHbm a bs).peers = s.peers := rfl
@[simp] theorem State.setHbm_channels (s : State) (a : Nat) (bs : List Byte) : (s.setHbm a bs).channels = s.channels := rfl
@[simp] theorem State.setHbm_rounds (s : State) (a : Nat) (bs : List Byte) : (s.setHbm a bs).rounds = s.rounds := rfl
@[simp] theorem State.setHbm_parked (s : State) (a : Nat) (bs : List Byte) : (s.setHbm a bs).parked = s.parked := rfl
@[simp] theorem State.setHbm_txs (s : State) (a : Nat) (bs : List Byte) : (s.setHbm a bs).txs = s.txs := rfl
@[simp] theorem State.setHbm_light (s : State) (a : Nat) (bs : List Byte) : (s.setHbm a bs).light = s.light := rfl
@[simp] theorem State.setHbm_svc (s : State) (a : Nat) (bs : List Byte) : (s.setHbm a bs).svc = s.svc := rfl
@[simp] theorem State.setHbm_evring (s : State) (a : Nat) (bs : List Byte) : (s.setHbm a bs).evring = s.evring := rfl
@[simp] theorem State.setHbm_evLost (s : State) (a : Nat) (bs : List Byte) : (s.setHbm a bs).evLost = s.evLost := rfl
@[simp] theorem State.setHbm_replies (s : State) (a : Nat) (bs : List Byte) : (s.setHbm a bs).replies = s.replies := rfl
@[simp] theorem State.setHbm_pendWrites (s : State) (a : Nat) (bs : List Byte) : (s.setHbm a bs).pendWrites = s.pendWrites := rfl
@[simp] theorem State.setHbm_pendBinds (s : State) (a : Nat) (bs : List Byte) : (s.setHbm a bs).pendBinds = s.pendBinds := rfl
@[simp] theorem State.setHbm_blocks (s : State) (a : Nat) (bs : List Byte) : (s.setHbm a bs).blocks = s.blocks := rfl
@[simp] theorem State.setHbm_units (s : State) (a : Nat) (bs : List Byte) : (s.setHbm a bs).units = s.units := rfl
@[simp] theorem State.setHbm_slices (s : State) (a : Nat) (bs : List Byte) : (s.setHbm a bs).slices = s.slices := rfl
@[simp] theorem State.setHbm_mesh (s : State) (a : Nat) (bs : List Byte) : (s.setHbm a bs).mesh = s.mesh := rfl
@[simp] theorem State.setHbm_meshGot (s : State) (a : Nat) (bs : List Byte) : (s.setHbm a bs).meshGot = s.meshGot := rfl
@[simp] theorem State.setHbm_xbar (s : State) (a : Nat) (bs : List Byte) : (s.setHbm a bs).xbar = s.xbar := rfl
@[simp] theorem State.setHbm_dbgatt (s : State) (a : Nat) (bs : List Byte) : (s.setHbm a bs).dbgatt = s.dbgatt := rfl
@[simp] theorem State.setHbm_us (s : State) (a : Nat) (bs : List Byte) : (s.setHbm a bs).us = s.us := rfl
@[simp] theorem State.setHbm_cur (s : State) (a : Nat) (bs : List Byte) : (s.setHbm a bs).cur = s.cur := rfl
@[simp] theorem State.setHbm_chain (s : State) (a : Nat) (bs : List Byte) : (s.setHbm a bs).chain = s.chain := rfl
@[simp] theorem State.setHbm_agenda (s : State) (a : Nat) (bs : List Byte) : (s.setHbm a bs).agenda = s.agenda := rfl
@[simp] theorem State.setHbm_tick (s : State) (a : Nat) (bs : List Byte) : (s.setHbm a bs).tick = s.tick := rfl
@[simp] theorem State.setHbm_serial (s : State) (a : Nat) (bs : List Byte) : (s.setHbm a bs).serial = s.serial := rfl

/-! ## The state after a chain -/

@[simp] theorem State.pass_dev (s : State) (n : Nat) : (s.pass n).dev = s.dev := rfl
@[simp] theorem State.pass_devs (s : State) (n : Nat) : (s.pass n).devs = s.devs := rfl
@[simp] theorem State.pass_hearth (s : State) (n : Nat) : (s.pass n).hearth = s.hearth := rfl
@[simp] theorem State.pass_dies (s : State) (n : Nat) : (s.pass n).dies = s.dies := rfl
@[simp] theorem State.pass_ctxs (s : State) (n : Nat) : (s.pass n).ctxs = s.ctxs := rfl
@[simp] theorem State.pass_queues (s : State) (n : Nat) : (s.pass n).queues = s.queues := rfl
@[simp] theorem State.pass_served (s : State) (n : Nat) : (s.pass n).served = s.served := rfl
@[simp] theorem State.pass_lastVf (s : State) (n : Nat) : (s.pass n).lastVf = s.lastVf := rfl
@[simp] theorem State.pass_kernels (s : State) (n : Nat) : (s.pass n).kernels = s.kernels := rfl
@[simp] theorem State.pass_teams (s : State) (n : Nat) : (s.pass n).teams = s.teams := rfl
@[simp] theorem State.pass_waves (s : State) (n : Nat) : (s.pass n).waves = Tbl.modify (·.advance s.chain.next) s.waves n := rfl
@[simp] theorem State.pass_pairs (s : State) (n : Nat) : (s.pass n).pairs = s.pairs := rfl
@[simp] theorem State.pass_ops (s : State) (n : Nat) : (s.pass n).ops = s.ops := rfl
@[simp] theorem State.pass_plans (s : State) (n : Nat) : (s.pass n).plans = s.plans := rfl
@[simp] theorem State.pass_mem (s : State) (n : Nat) : (s.pass n).mem = s.mem := rfl
@[simp] theorem State.pass_peers (s : State) (n : Nat) : (s.pass n).peers = s.peers := rfl
@[simp] theorem State.pass_channels (s : State) (n : Nat) : (s.pass n).channels = s.channels := rfl
@[simp] theorem State.pass_rounds (s : State) (n : Nat) : (s.pass n).rounds = s.rounds := rfl
@[simp] theorem State.pass_parked (s : State) (n : Nat) : (s.pass n).parked = s.parked := rfl
@[simp] theorem State.pass_txs (s : State) (n : Nat) : (s.pass n).txs = s.txs := rfl
@[simp] theorem State.pass_light (s : State) (n : Nat) : (s.pass n).light = s.light := rfl
@[simp] theorem State.pass_svc (s : State) (n : Nat) : (s.pass n).svc = s.svc := rfl
@[simp] theorem State.pass_evring (s : State) (n : Nat) : (s.pass n).evring = s.evring := rfl
@[simp] theorem State.pass_evLost (s : State) (n : Nat) : (s.pass n).evLost = s.evLost := rfl
@[simp] theorem State.pass_replies (s : State) (n : Nat) : (s.pass n).replies = s.replies := rfl
@[simp] theorem State.pass_pendWrites (s : State) (n : Nat) : (s.pass n).pendWrites = s.pendWrites := rfl
@[simp] theorem State.pass_pendBinds (s : State) (n : Nat) : (s.pass n).pendBinds = s.pendBinds := rfl
@[simp] theorem State.pass_blocks (s : State) (n : Nat) : (s.pass n).blocks = s.blocks := rfl
@[simp] theorem State.pass_units (s : State) (n : Nat) : (s.pass n).units = s.units := rfl
@[simp] theorem State.pass_slices (s : State) (n : Nat) : (s.pass n).slices = s.slices := rfl
@[simp] theorem State.pass_mesh (s : State) (n : Nat) : (s.pass n).mesh = s.mesh := rfl
@[simp] theorem State.pass_meshGot (s : State) (n : Nat) : (s.pass n).meshGot = s.meshGot := rfl
@[simp] theorem State.pass_xbar (s : State) (n : Nat) : (s.pass n).xbar = s.xbar := rfl
@[simp] theorem State.pass_dbgatt (s : State) (n : Nat) : (s.pass n).dbgatt = s.dbgatt := rfl
@[simp] theorem State.pass_us (s : State) (n : Nat) : (s.pass n).us = s.us := rfl
@[simp] theorem State.pass_cur (s : State) (n : Nat) : (s.pass n).cur = s.cur := rfl
@[simp] theorem State.pass_chain (s : State) (n : Nat) : (s.pass n).chain = { s.chain with verdict := .ok } := rfl
@[simp] theorem State.pass_agenda (s : State) (n : Nat) : (s.pass n).agenda = s.agenda := rfl
@[simp] theorem State.pass_tick (s : State) (n : Nat) : (s.pass n).tick = s.tick := rfl
@[simp] theorem State.pass_serial (s : State) (n : Nat) : (s.pass n).serial = s.serial := rfl

/-! ## Waves -/

/-! ### Wave.setV -/

@[simp] theorem Wave.setV_kern (w : Wave) (f n : Nat) (x : Word) : (w.setV f n x).kern = w.kern := rfl
@[simp] theorem Wave.setV_team (w : Wave) (f n : Nat) (x : Word) : (w.setV f n x).team = w.team := rfl
@[simp] theorem Wave.setV_idx (w : Wave) (f n : Nat) (x : Word) : (w.setV f n x).idx = w.idx := rfl
@[simp] theorem Wave.setV_f1 (w : Wave) (f n : Nat) (x : Word) : (w.setV f n x).f1 = w.f1 := rfl
@[simp] theorem Wave.setV_st (w : Wave) (f n : Nat) (x : Word) : (w.setV f n x).st = w.st := rfl
@[simp] theorem Wave.setV_pc (w : Wave) (f n : Nat) (x : Word) : (w.setV f n x).pc = w.pc := rfl
@[simp] theorem Wave.setV_redo (w : Wave) (f n : Nat) (x : Word) : (w.setV f n x).redo = w.redo := rfl
@[simp] theorem Wave.setV_hold (w : Wave) (f n : Nat) (x : Word) : (w.setV f n x).hold = w.hold := rfl
@[simp] theorem Wave.setV_live (w : Wave) (f n : Nat) (x : Word) : (w.setV f n x).live = w.live := rfl
@[simp] theorem Wave.setV_active (w : Wave) (f n : Nat) (x : Word) : (w.setV f n x).active = w.active := rfl
@[simp] theorem Wave.setV_ms (w : Wave) (f n : Nat) (x : Word) : (w.setV f n x).ms = w.ms := rfl
@[simp] theorem Wave.setV_cs (w : Wave) (f n : Nat) (x : Word) : (w.setV f n x).cs = w.cs := rfl
@[simp] theorem Wave.setV_v (w : Wave) (f n : Nat) (x : Word) : (w.setV f n x).v = NMap.set 0 w.v (64 * f + n) x := rfl
@[simp] theorem Wave.setV_p (w : Wave) (f n : Nat) (x : Word) : (w.setV f n x).p = w.p := rfl
@[simp] theorem Wave.setV_s (w : Wave) (f n : Nat) (x : Word) : (w.setV f n x).s = w.s := rfl
@[simp] theorem Wave.setV_k (w : Wave) (f n : Nat) (x : Word) : (w.setV f n x).k = w.k := rfl
@[simp] theorem Wave.setV_a (w : Wave) (f n : Nat) (x : Word) : (w.setV f n x).a = w.a := rfl
@[simp] theorem Wave.setV_i (w : Wave) (f n : Nat) (x : Word) : (w.setV f n x).i = w.i := rfl
@[simp] theorem Wave.setV_d (w : Wave) (f n : Nat) (x : Word) : (w.setV f n x).d = w.d := rfl
@[simp] theorem Wave.setV_h (w : Wave) (f n : Nat) (x : Word) : (w.setV f n x).h = w.h := rfl
@[simp] theorem Wave.setV_bank (w : Wave) (f n : Nat) (x : Word) : (w.setV f n x).bank = w.bank := rfl
@[simp] theorem Wave.setV_step (w : Wave) (f n : Nat) (x : Word) : (w.setV f n x).step = w.step := rfl
@[simp] theorem Wave.setV_exits (w : Wave) (f n : Nat) (x : Word) : (w.setV f n x).exits = w.exits := rfl
@[simp] theorem Wave.setV_whole (w : Wave) (f n : Nat) (x : Word) : (w.setV f n x).whole = w.whole := rfl
@[simp] theorem Wave.setV_draw (w : Wave) (f n : Nat) (x : Word) : (w.setV f n x).draw = w.draw := rfl
@[simp] theorem Wave.setV_conv (w : Wave) (f n : Nat) (x : Word) : (w.setV f n x).conv = w.conv := rfl
@[simp] theorem Wave.setV_wcause (w : Wave) (f n : Nat) (x : Word) : (w.setV f n x).wcause = w.wcause := rfl
@[simp] theorem Wave.setV_trappc (w : Wave) (f n : Nat) (x : Word) : (w.setV f n x).trappc = w.trappc := rfl
@[simp] theorem Wave.setV_resume (w : Wave) (f n : Nat) (x : Word) : (w.setV f n x).resume = w.resume := rfl
@[simp] theorem Wave.setV_skid (w : Wave) (f n : Nat) (x : Word) : (w.setV f n x).skid = w.skid := rfl
@[simp] theorem Wave.setV_traparg (w : Wave) (f n : Nat) (x : Word) : (w.setV f n x).traparg = w.traparg := rfl
@[simp] theorem Wave.setV_hmode (w : Wave) (f n : Nat) (x : Word) : (w.setV f n x).hmode = w.hmode := rfl
@[simp] theorem Wave.setV_shadow (w : Wave) (f n : Nat) (x : Word) : (w.setV f n x).shadow = w.shadow := rfl
@[simp] theorem Wave.setV_shadowK (w : Wave) (f n : Nat) (x : Word) : (w.setV f n x).shadowK = w.shadowK := rfl
@[simp] theorem Wave.setV_savedActive (w : Wave) (f n : Nat) (x : Word) : (w.setV f n x).savedActive = w.savedActive := rfl
@[simp] theorem Wave.setV_entryMS (w : Wave) (f n : Nat) (x : Word) : (w.setV f n x).entryMS = w.entryMS := rfl
@[simp] theorem Wave.setV_entryCS (w : Wave) (f n : Nat) (x : Word) : (w.setV f n x).entryCS = w.entryCS := rfl
@[simp] theorem Wave.setV_pending (w : Wave) (f n : Nat) (x : Word) : (w.setV f n x).pending = w.pending := rfl
@[simp] theorem Wave.setV_ext (w : Wave) (f n : Nat) (x : Word) : (w.setV f n x).ext = w.ext := rfl
@[simp] theorem Wave.setV_seqs (w : Wave) (f n : Nat) (x : Word) : (w.setV f n x).seqs = w.seqs := rfl
@[simp] theorem Wave.setV_buf (w : Wave) (f n : Nat) (x : Word) : (w.setV f n x).buf = w.buf := rfl
@[simp] theorem Wave.setV_nextId (w : Wave) (f n : Nat) (x : Word) : (w.setV f n x).nextId = w.nextId := rfl
@[simp] theorem Wave.setV_pend (w : Wave) (f n : Nat) (x : Word) : (w.setV f n x).pend = w.pend := rfl
@[simp] theorem Wave.setV_mrdy (w : Wave) (f n : Nat) (x : Word) : (w.setV f n x).mrdy = w.mrdy := rfl
@[simp] theorem Wave.setV_wrote (w : Wave) (f n : Nat) (x : Word) : (w.setV f n x).wrote = w.wrote := rfl
@[simp] theorem Wave.setV_qcount (w : Wave) (f n : Nat) (x : Word) : (w.setV f n x).qcount = w.qcount := rfl
@[simp] theorem Wave.setV_time (w : Wave) (f n : Nat) (x : Word) : (w.setV f n x).time = w.time := rfl
@[simp] theorem Wave.setV_age (w : Wave) (f n : Nat) (x : Word) : (w.setV f n x).age = w.age := rfl
@[simp] theorem Wave.setV_skidLeft (w : Wave) (f n : Nat) (x : Word) : (w.setV f n x).skidLeft = w.skidLeft := rfl
@[simp] theorem Wave.setV_qended (w : Wave) (f n : Nat) (x : Word) : (w.setV f n x).qended = w.qended := rfl
@[simp] theorem Wave.setV_heldBack (w : Wave) (f n : Nat) (x : Word) : (w.setV f n x).heldBack = w.heldBack := rfl
@[simp] theorem Wave.setV_offer (w : Wave) (f n : Nat) (x : Word) : (w.setV f n x).offer = w.offer := rfl
@[simp] theorem Wave.setV_savedOffer (w : Wave) (f n : Nat) (x : Word) : (w.setV f n x).savedOffer = w.savedOffer := rfl
@[simp] theorem Wave.setV_granted (w : Wave) (f n : Nat) (x : Word) : (w.setV f n x).granted = w.granted := rfl
@[simp] theorem Wave.setV_passed (w : Wave) (f n : Nat) (x : Word) : (w.setV f n x).passed = w.passed := rfl
@[simp] theorem Wave.setV_view (w : Wave) (f n : Nat) (x : Word) : (w.setV f n x).view = w.view := rfl

/-! ### Wave.setS -/

@[simp] theorem Wave.setS_kern (w : Wave) (n : Nat) (x : Word) : (w.setS n x).kern = w.kern := rfl
@[simp] theorem Wave.setS_team (w : Wave) (n : Nat) (x : Word) : (w.setS n x).team = w.team := rfl
@[simp] theorem Wave.setS_idx (w : Wave) (n : Nat) (x : Word) : (w.setS n x).idx = w.idx := rfl
@[simp] theorem Wave.setS_f1 (w : Wave) (n : Nat) (x : Word) : (w.setS n x).f1 = w.f1 := rfl
@[simp] theorem Wave.setS_st (w : Wave) (n : Nat) (x : Word) : (w.setS n x).st = w.st := rfl
@[simp] theorem Wave.setS_pc (w : Wave) (n : Nat) (x : Word) : (w.setS n x).pc = w.pc := rfl
@[simp] theorem Wave.setS_redo (w : Wave) (n : Nat) (x : Word) : (w.setS n x).redo = w.redo := rfl
@[simp] theorem Wave.setS_hold (w : Wave) (n : Nat) (x : Word) : (w.setS n x).hold = w.hold := rfl
@[simp] theorem Wave.setS_live (w : Wave) (n : Nat) (x : Word) : (w.setS n x).live = w.live := rfl
@[simp] theorem Wave.setS_active (w : Wave) (n : Nat) (x : Word) : (w.setS n x).active = w.active := rfl
@[simp] theorem Wave.setS_ms (w : Wave) (n : Nat) (x : Word) : (w.setS n x).ms = w.ms := rfl
@[simp] theorem Wave.setS_cs (w : Wave) (n : Nat) (x : Word) : (w.setS n x).cs = w.cs := rfl
@[simp] theorem Wave.setS_v (w : Wave) (n : Nat) (x : Word) : (w.setS n x).v = w.v := rfl
@[simp] theorem Wave.setS_p (w : Wave) (n : Nat) (x : Word) : (w.setS n x).p = w.p := rfl
@[simp] theorem Wave.setS_s (w : Wave) (n : Nat) (x : Word) : (w.setS n x).s = NMap.set 0 w.s n x := rfl
@[simp] theorem Wave.setS_k (w : Wave) (n : Nat) (x : Word) : (w.setS n x).k = w.k := rfl
@[simp] theorem Wave.setS_a (w : Wave) (n : Nat) (x : Word) : (w.setS n x).a = w.a := rfl
@[simp] theorem Wave.setS_i (w : Wave) (n : Nat) (x : Word) : (w.setS n x).i = w.i := rfl
@[simp] theorem Wave.setS_d (w : Wave) (n : Nat) (x : Word) : (w.setS n x).d = w.d := rfl
@[simp] theorem Wave.setS_h (w : Wave) (n : Nat) (x : Word) : (w.setS n x).h = w.h := rfl
@[simp] theorem Wave.setS_bank (w : Wave) (n : Nat) (x : Word) : (w.setS n x).bank = w.bank := rfl
@[simp] theorem Wave.setS_step (w : Wave) (n : Nat) (x : Word) : (w.setS n x).step = w.step := rfl
@[simp] theorem Wave.setS_exits (w : Wave) (n : Nat) (x : Word) : (w.setS n x).exits = w.exits := rfl
@[simp] theorem Wave.setS_whole (w : Wave) (n : Nat) (x : Word) : (w.setS n x).whole = w.whole := rfl
@[simp] theorem Wave.setS_draw (w : Wave) (n : Nat) (x : Word) : (w.setS n x).draw = w.draw := rfl
@[simp] theorem Wave.setS_conv (w : Wave) (n : Nat) (x : Word) : (w.setS n x).conv = w.conv := rfl
@[simp] theorem Wave.setS_wcause (w : Wave) (n : Nat) (x : Word) : (w.setS n x).wcause = w.wcause := rfl
@[simp] theorem Wave.setS_trappc (w : Wave) (n : Nat) (x : Word) : (w.setS n x).trappc = w.trappc := rfl
@[simp] theorem Wave.setS_resume (w : Wave) (n : Nat) (x : Word) : (w.setS n x).resume = w.resume := rfl
@[simp] theorem Wave.setS_skid (w : Wave) (n : Nat) (x : Word) : (w.setS n x).skid = w.skid := rfl
@[simp] theorem Wave.setS_traparg (w : Wave) (n : Nat) (x : Word) : (w.setS n x).traparg = w.traparg := rfl
@[simp] theorem Wave.setS_hmode (w : Wave) (n : Nat) (x : Word) : (w.setS n x).hmode = w.hmode := rfl
@[simp] theorem Wave.setS_shadow (w : Wave) (n : Nat) (x : Word) : (w.setS n x).shadow = w.shadow := rfl
@[simp] theorem Wave.setS_shadowK (w : Wave) (n : Nat) (x : Word) : (w.setS n x).shadowK = w.shadowK := rfl
@[simp] theorem Wave.setS_savedActive (w : Wave) (n : Nat) (x : Word) : (w.setS n x).savedActive = w.savedActive := rfl
@[simp] theorem Wave.setS_entryMS (w : Wave) (n : Nat) (x : Word) : (w.setS n x).entryMS = w.entryMS := rfl
@[simp] theorem Wave.setS_entryCS (w : Wave) (n : Nat) (x : Word) : (w.setS n x).entryCS = w.entryCS := rfl
@[simp] theorem Wave.setS_pending (w : Wave) (n : Nat) (x : Word) : (w.setS n x).pending = w.pending := rfl
@[simp] theorem Wave.setS_ext (w : Wave) (n : Nat) (x : Word) : (w.setS n x).ext = w.ext := rfl
@[simp] theorem Wave.setS_seqs (w : Wave) (n : Nat) (x : Word) : (w.setS n x).seqs = w.seqs := rfl
@[simp] theorem Wave.setS_buf (w : Wave) (n : Nat) (x : Word) : (w.setS n x).buf = w.buf := rfl
@[simp] theorem Wave.setS_nextId (w : Wave) (n : Nat) (x : Word) : (w.setS n x).nextId = w.nextId := rfl
@[simp] theorem Wave.setS_pend (w : Wave) (n : Nat) (x : Word) : (w.setS n x).pend = w.pend := rfl
@[simp] theorem Wave.setS_mrdy (w : Wave) (n : Nat) (x : Word) : (w.setS n x).mrdy = w.mrdy := rfl
@[simp] theorem Wave.setS_wrote (w : Wave) (n : Nat) (x : Word) : (w.setS n x).wrote = w.wrote := rfl
@[simp] theorem Wave.setS_qcount (w : Wave) (n : Nat) (x : Word) : (w.setS n x).qcount = w.qcount := rfl
@[simp] theorem Wave.setS_time (w : Wave) (n : Nat) (x : Word) : (w.setS n x).time = w.time := rfl
@[simp] theorem Wave.setS_age (w : Wave) (n : Nat) (x : Word) : (w.setS n x).age = w.age := rfl
@[simp] theorem Wave.setS_skidLeft (w : Wave) (n : Nat) (x : Word) : (w.setS n x).skidLeft = w.skidLeft := rfl
@[simp] theorem Wave.setS_qended (w : Wave) (n : Nat) (x : Word) : (w.setS n x).qended = w.qended := rfl
@[simp] theorem Wave.setS_heldBack (w : Wave) (n : Nat) (x : Word) : (w.setS n x).heldBack = w.heldBack := rfl
@[simp] theorem Wave.setS_offer (w : Wave) (n : Nat) (x : Word) : (w.setS n x).offer = w.offer := rfl
@[simp] theorem Wave.setS_savedOffer (w : Wave) (n : Nat) (x : Word) : (w.setS n x).savedOffer = w.savedOffer := rfl
@[simp] theorem Wave.setS_granted (w : Wave) (n : Nat) (x : Word) : (w.setS n x).granted = w.granted := rfl
@[simp] theorem Wave.setS_passed (w : Wave) (n : Nat) (x : Word) : (w.setS n x).passed = w.passed := rfl
@[simp] theorem Wave.setS_view (w : Wave) (n : Nat) (x : Word) : (w.setS n x).view = w.view := rfl

/-! ### Wave.setP -/

@[simp] theorem Wave.setP_kern (w : Wave) (f n : Nat) (x : Bool) : (w.setP f n x).kern = w.kern := by
  unfold Wave.setP; split <;> rfl
@[simp] theorem Wave.setP_team (w : Wave) (f n : Nat) (x : Bool) : (w.setP f n x).team = w.team := by
  unfold Wave.setP; split <;> rfl
@[simp] theorem Wave.setP_idx (w : Wave) (f n : Nat) (x : Bool) : (w.setP f n x).idx = w.idx := by unfold Wave.setP; split <;> rfl
@[simp] theorem Wave.setP_f1 (w : Wave) (f n : Nat) (x : Bool) : (w.setP f n x).f1 = w.f1 := by unfold Wave.setP; split <;> rfl
@[simp] theorem Wave.setP_st (w : Wave) (f n : Nat) (x : Bool) : (w.setP f n x).st = w.st := by unfold Wave.setP; split <;> rfl
@[simp] theorem Wave.setP_pc (w : Wave) (f n : Nat) (x : Bool) : (w.setP f n x).pc = w.pc := by unfold Wave.setP; split <;> rfl
@[simp] theorem Wave.setP_redo (w : Wave) (f n : Nat) (x : Bool) : (w.setP f n x).redo = w.redo := by
  unfold Wave.setP; split <;> rfl
@[simp] theorem Wave.setP_hold (w : Wave) (f n : Nat) (x : Bool) : (w.setP f n x).hold = w.hold := by
  unfold Wave.setP; split <;> rfl
@[simp] theorem Wave.setP_live (w : Wave) (f n : Nat) (x : Bool) : (w.setP f n x).live = w.live := by
  unfold Wave.setP; split <;> rfl
@[simp] theorem Wave.setP_active (w : Wave) (f n : Nat) (x : Bool) : (w.setP f n x).active = w.active := by
  unfold Wave.setP; split <;> rfl
@[simp] theorem Wave.setP_ms (w : Wave) (f n : Nat) (x : Bool) : (w.setP f n x).ms = w.ms := by unfold Wave.setP; split <;> rfl
@[simp] theorem Wave.setP_cs (w : Wave) (f n : Nat) (x : Bool) : (w.setP f n x).cs = w.cs := by unfold Wave.setP; split <;> rfl
@[simp] theorem Wave.setP_v (w : Wave) (f n : Nat) (x : Bool) : (w.setP f n x).v = w.v := by unfold Wave.setP; split <;> rfl
@[simp] theorem Wave.setP_p (w : Wave) (f n : Nat) (x : Bool) : (w.setP f n x).p = if n = 7 then w.p else NMap.set false w.p (8 * f + n) x := by
  unfold Wave.setP; split <;> rfl
@[simp] theorem Wave.setP_s (w : Wave) (f n : Nat) (x : Bool) : (w.setP f n x).s = w.s := by unfold Wave.setP; split <;> rfl
@[simp] theorem Wave.setP_k (w : Wave) (f n : Nat) (x : Bool) : (w.setP f n x).k = w.k := by unfold Wave.setP; split <;> rfl
@[simp] theorem Wave.setP_a (w : Wave) (f n : Nat) (x : Bool) : (w.setP f n x).a = w.a := by unfold Wave.setP; split <;> rfl
@[simp] theorem Wave.setP_i (w : Wave) (f n : Nat) (x : Bool) : (w.setP f n x).i = w.i := by unfold Wave.setP; split <;> rfl
@[simp] theorem Wave.setP_d (w : Wave) (f n : Nat) (x : Bool) : (w.setP f n x).d = w.d := by unfold Wave.setP; split <;> rfl
@[simp] theorem Wave.setP_h (w : Wave) (f n : Nat) (x : Bool) : (w.setP f n x).h = w.h := by unfold Wave.setP; split <;> rfl
@[simp] theorem Wave.setP_bank (w : Wave) (f n : Nat) (x : Bool) : (w.setP f n x).bank = w.bank := by
  unfold Wave.setP; split <;> rfl
@[simp] theorem Wave.setP_step (w : Wave) (f n : Nat) (x : Bool) : (w.setP f n x).step = w.step := by
  unfold Wave.setP; split <;> rfl
@[simp] theorem Wave.setP_exits (w : Wave) (f n : Nat) (x : Bool) : (w.setP f n x).exits = w.exits := by
  unfold Wave.setP; split <;> rfl
@[simp] theorem Wave.setP_whole (w : Wave) (f n : Nat) (x : Bool) : (w.setP f n x).whole = w.whole := by
  unfold Wave.setP; split <;> rfl
@[simp] theorem Wave.setP_draw (w : Wave) (f n : Nat) (x : Bool) : (w.setP f n x).draw = w.draw := by
  unfold Wave.setP; split <;> rfl
@[simp] theorem Wave.setP_conv (w : Wave) (f n : Nat) (x : Bool) : (w.setP f n x).conv = w.conv := by
  unfold Wave.setP; split <;> rfl
@[simp] theorem Wave.setP_wcause (w : Wave) (f n : Nat) (x : Bool) : (w.setP f n x).wcause = w.wcause := by
  unfold Wave.setP; split <;> rfl
@[simp] theorem Wave.setP_trappc (w : Wave) (f n : Nat) (x : Bool) : (w.setP f n x).trappc = w.trappc := by
  unfold Wave.setP; split <;> rfl
@[simp] theorem Wave.setP_resume (w : Wave) (f n : Nat) (x : Bool) : (w.setP f n x).resume = w.resume := by
  unfold Wave.setP; split <;> rfl
@[simp] theorem Wave.setP_skid (w : Wave) (f n : Nat) (x : Bool) : (w.setP f n x).skid = w.skid := by
  unfold Wave.setP; split <;> rfl
@[simp] theorem Wave.setP_traparg (w : Wave) (f n : Nat) (x : Bool) : (w.setP f n x).traparg = w.traparg := by
  unfold Wave.setP; split <;> rfl
@[simp] theorem Wave.setP_hmode (w : Wave) (f n : Nat) (x : Bool) : (w.setP f n x).hmode = w.hmode := by
  unfold Wave.setP; split <;> rfl
@[simp] theorem Wave.setP_shadow (w : Wave) (f n : Nat) (x : Bool) : (w.setP f n x).shadow = w.shadow := by
  unfold Wave.setP; split <;> rfl
@[simp] theorem Wave.setP_shadowK (w : Wave) (f n : Nat) (x : Bool) : (w.setP f n x).shadowK = w.shadowK := by
  unfold Wave.setP; split <;> rfl
@[simp] theorem Wave.setP_savedActive (w : Wave) (f n : Nat) (x : Bool) : (w.setP f n x).savedActive = w.savedActive := by
  unfold Wave.setP; split <;> rfl
@[simp] theorem Wave.setP_entryMS (w : Wave) (f n : Nat) (x : Bool) : (w.setP f n x).entryMS = w.entryMS := by
  unfold Wave.setP; split <;> rfl
@[simp] theorem Wave.setP_entryCS (w : Wave) (f n : Nat) (x : Bool) : (w.setP f n x).entryCS = w.entryCS := by
  unfold Wave.setP; split <;> rfl
@[simp] theorem Wave.setP_pending (w : Wave) (f n : Nat) (x : Bool) : (w.setP f n x).pending = w.pending := by
  unfold Wave.setP; split <;> rfl
@[simp] theorem Wave.setP_ext (w : Wave) (f n : Nat) (x : Bool) : (w.setP f n x).ext = w.ext := by unfold Wave.setP; split <;> rfl
@[simp] theorem Wave.setP_seqs (w : Wave) (f n : Nat) (x : Bool) : (w.setP f n x).seqs = w.seqs := by
  unfold Wave.setP; split <;> rfl
@[simp] theorem Wave.setP_buf (w : Wave) (f n : Nat) (x : Bool) : (w.setP f n x).buf = w.buf := by unfold Wave.setP; split <;> rfl
@[simp] theorem Wave.setP_nextId (w : Wave) (f n : Nat) (x : Bool) : (w.setP f n x).nextId = w.nextId := by
  unfold Wave.setP; split <;> rfl
@[simp] theorem Wave.setP_pend (w : Wave) (f n : Nat) (x : Bool) : (w.setP f n x).pend = w.pend := by
  unfold Wave.setP; split <;> rfl
@[simp] theorem Wave.setP_mrdy (w : Wave) (f n : Nat) (x : Bool) : (w.setP f n x).mrdy = w.mrdy := by
  unfold Wave.setP; split <;> rfl
@[simp] theorem Wave.setP_wrote (w : Wave) (f n : Nat) (x : Bool) : (w.setP f n x).wrote = w.wrote := by
  unfold Wave.setP; split <;> rfl
@[simp] theorem Wave.setP_qcount (w : Wave) (f n : Nat) (x : Bool) : (w.setP f n x).qcount = w.qcount := by
  unfold Wave.setP; split <;> rfl
@[simp] theorem Wave.setP_time (w : Wave) (f n : Nat) (x : Bool) : (w.setP f n x).time = w.time := by
  unfold Wave.setP; split <;> rfl
@[simp] theorem Wave.setP_age (w : Wave) (f n : Nat) (x : Bool) : (w.setP f n x).age = w.age := by unfold Wave.setP; split <;> rfl
@[simp] theorem Wave.setP_skidLeft (w : Wave) (f n : Nat) (x : Bool) : (w.setP f n x).skidLeft = w.skidLeft := by
  unfold Wave.setP; split <;> rfl
@[simp] theorem Wave.setP_qended (w : Wave) (f n : Nat) (x : Bool) : (w.setP f n x).qended = w.qended := by
  unfold Wave.setP; split <;> rfl
@[simp] theorem Wave.setP_heldBack (w : Wave) (f n : Nat) (x : Bool) : (w.setP f n x).heldBack = w.heldBack := by
  unfold Wave.setP; split <;> rfl
@[simp] theorem Wave.setP_offer (w : Wave) (f n : Nat) (x : Bool) : (w.setP f n x).offer = w.offer := by
  unfold Wave.setP; split <;> rfl
@[simp] theorem Wave.setP_savedOffer (w : Wave) (f n : Nat) (x : Bool) : (w.setP f n x).savedOffer = w.savedOffer := by
  unfold Wave.setP; split <;> rfl
@[simp] theorem Wave.setP_granted (w : Wave) (f n : Nat) (x : Bool) : (w.setP f n x).granted = w.granted := by
  unfold Wave.setP; split <;> rfl
@[simp] theorem Wave.setP_passed (w : Wave) (f n : Nat) (x : Bool) : (w.setP f n x).passed = w.passed := by
  unfold Wave.setP; split <;> rfl
@[simp] theorem Wave.setP_view (w : Wave) (f n : Nat) (x : Bool) : (w.setP f n x).view = w.view := by
  unfold Wave.setP; split <;> rfl

/-! ### Wave.setK -/

@[simp] theorem Wave.setK_kern (w : Wave) (n : Nat) (x : Bool) : (w.setK n x).kern = w.kern := by unfold Wave.setK; split <;> rfl
@[simp] theorem Wave.setK_team (w : Wave) (n : Nat) (x : Bool) : (w.setK n x).team = w.team := by unfold Wave.setK; split <;> rfl
@[simp] theorem Wave.setK_idx (w : Wave) (n : Nat) (x : Bool) : (w.setK n x).idx = w.idx := by unfold Wave.setK; split <;> rfl
@[simp] theorem Wave.setK_f1 (w : Wave) (n : Nat) (x : Bool) : (w.setK n x).f1 = w.f1 := by unfold Wave.setK; split <;> rfl
@[simp] theorem Wave.setK_st (w : Wave) (n : Nat) (x : Bool) : (w.setK n x).st = w.st := by unfold Wave.setK; split <;> rfl
@[simp] theorem Wave.setK_pc (w : Wave) (n : Nat) (x : Bool) : (w.setK n x).pc = w.pc := by unfold Wave.setK; split <;> rfl
@[simp] theorem Wave.setK_redo (w : Wave) (n : Nat) (x : Bool) : (w.setK n x).redo = w.redo := by unfold Wave.setK; split <;> rfl
@[simp] theorem Wave.setK_hold (w : Wave) (n : Nat) (x : Bool) : (w.setK n x).hold = w.hold := by unfold Wave.setK; split <;> rfl
@[simp] theorem Wave.setK_live (w : Wave) (n : Nat) (x : Bool) : (w.setK n x).live = w.live := by unfold Wave.setK; split <;> rfl
@[simp] theorem Wave.setK_active (w : Wave) (n : Nat) (x : Bool) : (w.setK n x).active = w.active := by
  unfold Wave.setK; split <;> rfl
@[simp] theorem Wave.setK_ms (w : Wave) (n : Nat) (x : Bool) : (w.setK n x).ms = w.ms := by unfold Wave.setK; split <;> rfl
@[simp] theorem Wave.setK_cs (w : Wave) (n : Nat) (x : Bool) : (w.setK n x).cs = w.cs := by unfold Wave.setK; split <;> rfl
@[simp] theorem Wave.setK_v (w : Wave) (n : Nat) (x : Bool) : (w.setK n x).v = w.v := by unfold Wave.setK; split <;> rfl
@[simp] theorem Wave.setK_p (w : Wave) (n : Nat) (x : Bool) : (w.setK n x).p = w.p := by unfold Wave.setK; split <;> rfl
@[simp] theorem Wave.setK_s (w : Wave) (n : Nat) (x : Bool) : (w.setK n x).s = w.s := by unfold Wave.setK; split <;> rfl
@[simp] theorem Wave.setK_k (w : Wave) (n : Nat) (x : Bool) : (w.setK n x).k = if n = 7 then w.k else NMap.set false w.k n x := by
  unfold Wave.setK; split <;> rfl
@[simp] theorem Wave.setK_a (w : Wave) (n : Nat) (x : Bool) : (w.setK n x).a = w.a := by unfold Wave.setK; split <;> rfl
@[simp] theorem Wave.setK_i (w : Wave) (n : Nat) (x : Bool) : (w.setK n x).i = w.i := by unfold Wave.setK; split <;> rfl
@[simp] theorem Wave.setK_d (w : Wave) (n : Nat) (x : Bool) : (w.setK n x).d = w.d := by unfold Wave.setK; split <;> rfl
@[simp] theorem Wave.setK_h (w : Wave) (n : Nat) (x : Bool) : (w.setK n x).h = w.h := by unfold Wave.setK; split <;> rfl
@[simp] theorem Wave.setK_bank (w : Wave) (n : Nat) (x : Bool) : (w.setK n x).bank = w.bank := by unfold Wave.setK; split <;> rfl
@[simp] theorem Wave.setK_step (w : Wave) (n : Nat) (x : Bool) : (w.setK n x).step = w.step := by unfold Wave.setK; split <;> rfl
@[simp] theorem Wave.setK_exits (w : Wave) (n : Nat) (x : Bool) : (w.setK n x).exits = w.exits := by
  unfold Wave.setK; split <;> rfl
@[simp] theorem Wave.setK_whole (w : Wave) (n : Nat) (x : Bool) : (w.setK n x).whole = w.whole := by
  unfold Wave.setK; split <;> rfl
@[simp] theorem Wave.setK_draw (w : Wave) (n : Nat) (x : Bool) : (w.setK n x).draw = w.draw := by unfold Wave.setK; split <;> rfl
@[simp] theorem Wave.setK_conv (w : Wave) (n : Nat) (x : Bool) : (w.setK n x).conv = w.conv := by unfold Wave.setK; split <;> rfl
@[simp] theorem Wave.setK_wcause (w : Wave) (n : Nat) (x : Bool) : (w.setK n x).wcause = w.wcause := by
  unfold Wave.setK; split <;> rfl
@[simp] theorem Wave.setK_trappc (w : Wave) (n : Nat) (x : Bool) : (w.setK n x).trappc = w.trappc := by
  unfold Wave.setK; split <;> rfl
@[simp] theorem Wave.setK_resume (w : Wave) (n : Nat) (x : Bool) : (w.setK n x).resume = w.resume := by
  unfold Wave.setK; split <;> rfl
@[simp] theorem Wave.setK_skid (w : Wave) (n : Nat) (x : Bool) : (w.setK n x).skid = w.skid := by unfold Wave.setK; split <;> rfl
@[simp] theorem Wave.setK_traparg (w : Wave) (n : Nat) (x : Bool) : (w.setK n x).traparg = w.traparg := by
  unfold Wave.setK; split <;> rfl
@[simp] theorem Wave.setK_hmode (w : Wave) (n : Nat) (x : Bool) : (w.setK n x).hmode = w.hmode := by
  unfold Wave.setK; split <;> rfl
@[simp] theorem Wave.setK_shadow (w : Wave) (n : Nat) (x : Bool) : (w.setK n x).shadow = w.shadow := by
  unfold Wave.setK; split <;> rfl
@[simp] theorem Wave.setK_shadowK (w : Wave) (n : Nat) (x : Bool) : (w.setK n x).shadowK = w.shadowK := by
  unfold Wave.setK; split <;> rfl
@[simp] theorem Wave.setK_savedActive (w : Wave) (n : Nat) (x : Bool) : (w.setK n x).savedActive = w.savedActive := by
  unfold Wave.setK; split <;> rfl
@[simp] theorem Wave.setK_entryMS (w : Wave) (n : Nat) (x : Bool) : (w.setK n x).entryMS = w.entryMS := by
  unfold Wave.setK; split <;> rfl
@[simp] theorem Wave.setK_entryCS (w : Wave) (n : Nat) (x : Bool) : (w.setK n x).entryCS = w.entryCS := by
  unfold Wave.setK; split <;> rfl
@[simp] theorem Wave.setK_pending (w : Wave) (n : Nat) (x : Bool) : (w.setK n x).pending = w.pending := by
  unfold Wave.setK; split <;> rfl
@[simp] theorem Wave.setK_ext (w : Wave) (n : Nat) (x : Bool) : (w.setK n x).ext = w.ext := by unfold Wave.setK; split <;> rfl
@[simp] theorem Wave.setK_seqs (w : Wave) (n : Nat) (x : Bool) : (w.setK n x).seqs = w.seqs := by unfold Wave.setK; split <;> rfl
@[simp] theorem Wave.setK_buf (w : Wave) (n : Nat) (x : Bool) : (w.setK n x).buf = w.buf := by unfold Wave.setK; split <;> rfl
@[simp] theorem Wave.setK_nextId (w : Wave) (n : Nat) (x : Bool) : (w.setK n x).nextId = w.nextId := by
  unfold Wave.setK; split <;> rfl
@[simp] theorem Wave.setK_pend (w : Wave) (n : Nat) (x : Bool) : (w.setK n x).pend = w.pend := by unfold Wave.setK; split <;> rfl
@[simp] theorem Wave.setK_mrdy (w : Wave) (n : Nat) (x : Bool) : (w.setK n x).mrdy = w.mrdy := by unfold Wave.setK; split <;> rfl
@[simp] theorem Wave.setK_wrote (w : Wave) (n : Nat) (x : Bool) : (w.setK n x).wrote = w.wrote := by
  unfold Wave.setK; split <;> rfl
@[simp] theorem Wave.setK_qcount (w : Wave) (n : Nat) (x : Bool) : (w.setK n x).qcount = w.qcount := by
  unfold Wave.setK; split <;> rfl
@[simp] theorem Wave.setK_time (w : Wave) (n : Nat) (x : Bool) : (w.setK n x).time = w.time := by unfold Wave.setK; split <;> rfl
@[simp] theorem Wave.setK_age (w : Wave) (n : Nat) (x : Bool) : (w.setK n x).age = w.age := by unfold Wave.setK; split <;> rfl
@[simp] theorem Wave.setK_skidLeft (w : Wave) (n : Nat) (x : Bool) : (w.setK n x).skidLeft = w.skidLeft := by
  unfold Wave.setK; split <;> rfl
@[simp] theorem Wave.setK_qended (w : Wave) (n : Nat) (x : Bool) : (w.setK n x).qended = w.qended := by
  unfold Wave.setK; split <;> rfl
@[simp] theorem Wave.setK_heldBack (w : Wave) (n : Nat) (x : Bool) : (w.setK n x).heldBack = w.heldBack := by
  unfold Wave.setK; split <;> rfl
@[simp] theorem Wave.setK_offer (w : Wave) (n : Nat) (x : Bool) : (w.setK n x).offer = w.offer := by
  unfold Wave.setK; split <;> rfl
@[simp] theorem Wave.setK_savedOffer (w : Wave) (n : Nat) (x : Bool) : (w.setK n x).savedOffer = w.savedOffer := by
  unfold Wave.setK; split <;> rfl
@[simp] theorem Wave.setK_granted (w : Wave) (n : Nat) (x : Bool) : (w.setK n x).granted = w.granted := by
  unfold Wave.setK; split <;> rfl
@[simp] theorem Wave.setK_passed (w : Wave) (n : Nat) (x : Bool) : (w.setK n x).passed = w.passed := by
  unfold Wave.setK; split <;> rfl
@[simp] theorem Wave.setK_view (w : Wave) (n : Nat) (x : Bool) : (w.setK n x).view = w.view := by unfold Wave.setK; split <;> rfl

/-! ### Wave.setA -/

@[simp] theorem Wave.setA_kern (w : Wave) (n : Nat) (x : Word) : (w.setA n x).kern = w.kern := rfl
@[simp] theorem Wave.setA_team (w : Wave) (n : Nat) (x : Word) : (w.setA n x).team = w.team := rfl
@[simp] theorem Wave.setA_idx (w : Wave) (n : Nat) (x : Word) : (w.setA n x).idx = w.idx := rfl
@[simp] theorem Wave.setA_f1 (w : Wave) (n : Nat) (x : Word) : (w.setA n x).f1 = w.f1 := rfl
@[simp] theorem Wave.setA_st (w : Wave) (n : Nat) (x : Word) : (w.setA n x).st = w.st := rfl
@[simp] theorem Wave.setA_pc (w : Wave) (n : Nat) (x : Word) : (w.setA n x).pc = w.pc := rfl
@[simp] theorem Wave.setA_redo (w : Wave) (n : Nat) (x : Word) : (w.setA n x).redo = w.redo := rfl
@[simp] theorem Wave.setA_hold (w : Wave) (n : Nat) (x : Word) : (w.setA n x).hold = w.hold := rfl
@[simp] theorem Wave.setA_live (w : Wave) (n : Nat) (x : Word) : (w.setA n x).live = w.live := rfl
@[simp] theorem Wave.setA_active (w : Wave) (n : Nat) (x : Word) : (w.setA n x).active = w.active := rfl
@[simp] theorem Wave.setA_ms (w : Wave) (n : Nat) (x : Word) : (w.setA n x).ms = w.ms := rfl
@[simp] theorem Wave.setA_cs (w : Wave) (n : Nat) (x : Word) : (w.setA n x).cs = w.cs := rfl
@[simp] theorem Wave.setA_v (w : Wave) (n : Nat) (x : Word) : (w.setA n x).v = w.v := rfl
@[simp] theorem Wave.setA_p (w : Wave) (n : Nat) (x : Word) : (w.setA n x).p = w.p := rfl
@[simp] theorem Wave.setA_s (w : Wave) (n : Nat) (x : Word) : (w.setA n x).s = w.s := rfl
@[simp] theorem Wave.setA_k (w : Wave) (n : Nat) (x : Word) : (w.setA n x).k = w.k := rfl
@[simp] theorem Wave.setA_a (w : Wave) (n : Nat) (x : Word) : (w.setA n x).a = NMap.set 0 w.a n x := rfl
@[simp] theorem Wave.setA_i (w : Wave) (n : Nat) (x : Word) : (w.setA n x).i = w.i := rfl
@[simp] theorem Wave.setA_d (w : Wave) (n : Nat) (x : Word) : (w.setA n x).d = w.d := rfl
@[simp] theorem Wave.setA_h (w : Wave) (n : Nat) (x : Word) : (w.setA n x).h = w.h := rfl
@[simp] theorem Wave.setA_bank (w : Wave) (n : Nat) (x : Word) : (w.setA n x).bank = w.bank := rfl
@[simp] theorem Wave.setA_step (w : Wave) (n : Nat) (x : Word) : (w.setA n x).step = w.step := rfl
@[simp] theorem Wave.setA_exits (w : Wave) (n : Nat) (x : Word) : (w.setA n x).exits = w.exits := rfl
@[simp] theorem Wave.setA_whole (w : Wave) (n : Nat) (x : Word) : (w.setA n x).whole = w.whole := rfl
@[simp] theorem Wave.setA_draw (w : Wave) (n : Nat) (x : Word) : (w.setA n x).draw = w.draw := rfl
@[simp] theorem Wave.setA_conv (w : Wave) (n : Nat) (x : Word) : (w.setA n x).conv = w.conv := rfl
@[simp] theorem Wave.setA_wcause (w : Wave) (n : Nat) (x : Word) : (w.setA n x).wcause = w.wcause := rfl
@[simp] theorem Wave.setA_trappc (w : Wave) (n : Nat) (x : Word) : (w.setA n x).trappc = w.trappc := rfl
@[simp] theorem Wave.setA_resume (w : Wave) (n : Nat) (x : Word) : (w.setA n x).resume = w.resume := rfl
@[simp] theorem Wave.setA_skid (w : Wave) (n : Nat) (x : Word) : (w.setA n x).skid = w.skid := rfl
@[simp] theorem Wave.setA_traparg (w : Wave) (n : Nat) (x : Word) : (w.setA n x).traparg = w.traparg := rfl
@[simp] theorem Wave.setA_hmode (w : Wave) (n : Nat) (x : Word) : (w.setA n x).hmode = w.hmode := rfl
@[simp] theorem Wave.setA_shadow (w : Wave) (n : Nat) (x : Word) : (w.setA n x).shadow = w.shadow := rfl
@[simp] theorem Wave.setA_shadowK (w : Wave) (n : Nat) (x : Word) : (w.setA n x).shadowK = w.shadowK := rfl
@[simp] theorem Wave.setA_savedActive (w : Wave) (n : Nat) (x : Word) : (w.setA n x).savedActive = w.savedActive := rfl
@[simp] theorem Wave.setA_entryMS (w : Wave) (n : Nat) (x : Word) : (w.setA n x).entryMS = w.entryMS := rfl
@[simp] theorem Wave.setA_entryCS (w : Wave) (n : Nat) (x : Word) : (w.setA n x).entryCS = w.entryCS := rfl
@[simp] theorem Wave.setA_pending (w : Wave) (n : Nat) (x : Word) : (w.setA n x).pending = w.pending := rfl
@[simp] theorem Wave.setA_ext (w : Wave) (n : Nat) (x : Word) : (w.setA n x).ext = w.ext := rfl
@[simp] theorem Wave.setA_seqs (w : Wave) (n : Nat) (x : Word) : (w.setA n x).seqs = w.seqs := rfl
@[simp] theorem Wave.setA_buf (w : Wave) (n : Nat) (x : Word) : (w.setA n x).buf = w.buf := rfl
@[simp] theorem Wave.setA_nextId (w : Wave) (n : Nat) (x : Word) : (w.setA n x).nextId = w.nextId := rfl
@[simp] theorem Wave.setA_pend (w : Wave) (n : Nat) (x : Word) : (w.setA n x).pend = w.pend := rfl
@[simp] theorem Wave.setA_mrdy (w : Wave) (n : Nat) (x : Word) : (w.setA n x).mrdy = w.mrdy := rfl
@[simp] theorem Wave.setA_wrote (w : Wave) (n : Nat) (x : Word) : (w.setA n x).wrote = w.wrote := rfl
@[simp] theorem Wave.setA_qcount (w : Wave) (n : Nat) (x : Word) : (w.setA n x).qcount = w.qcount := rfl
@[simp] theorem Wave.setA_time (w : Wave) (n : Nat) (x : Word) : (w.setA n x).time = w.time := rfl
@[simp] theorem Wave.setA_age (w : Wave) (n : Nat) (x : Word) : (w.setA n x).age = w.age := rfl
@[simp] theorem Wave.setA_skidLeft (w : Wave) (n : Nat) (x : Word) : (w.setA n x).skidLeft = w.skidLeft := rfl
@[simp] theorem Wave.setA_qended (w : Wave) (n : Nat) (x : Word) : (w.setA n x).qended = w.qended := rfl
@[simp] theorem Wave.setA_heldBack (w : Wave) (n : Nat) (x : Word) : (w.setA n x).heldBack = w.heldBack := rfl
@[simp] theorem Wave.setA_offer (w : Wave) (n : Nat) (x : Word) : (w.setA n x).offer = w.offer := rfl
@[simp] theorem Wave.setA_savedOffer (w : Wave) (n : Nat) (x : Word) : (w.setA n x).savedOffer = w.savedOffer := rfl
@[simp] theorem Wave.setA_granted (w : Wave) (n : Nat) (x : Word) : (w.setA n x).granted = w.granted := rfl
@[simp] theorem Wave.setA_passed (w : Wave) (n : Nat) (x : Word) : (w.setA n x).passed = w.passed := rfl
@[simp] theorem Wave.setA_view (w : Wave) (n : Nat) (x : Word) : (w.setA n x).view = w.view := rfl

/-! ### Wave.setI -/

@[simp] theorem Wave.setI_kern (w : Wave) (n : Nat) (x : IncReg) : (w.setI n x).kern = w.kern := rfl
@[simp] theorem Wave.setI_team (w : Wave) (n : Nat) (x : IncReg) : (w.setI n x).team = w.team := rfl
@[simp] theorem Wave.setI_idx (w : Wave) (n : Nat) (x : IncReg) : (w.setI n x).idx = w.idx := rfl
@[simp] theorem Wave.setI_f1 (w : Wave) (n : Nat) (x : IncReg) : (w.setI n x).f1 = w.f1 := rfl
@[simp] theorem Wave.setI_st (w : Wave) (n : Nat) (x : IncReg) : (w.setI n x).st = w.st := rfl
@[simp] theorem Wave.setI_pc (w : Wave) (n : Nat) (x : IncReg) : (w.setI n x).pc = w.pc := rfl
@[simp] theorem Wave.setI_redo (w : Wave) (n : Nat) (x : IncReg) : (w.setI n x).redo = w.redo := rfl
@[simp] theorem Wave.setI_hold (w : Wave) (n : Nat) (x : IncReg) : (w.setI n x).hold = w.hold := rfl
@[simp] theorem Wave.setI_live (w : Wave) (n : Nat) (x : IncReg) : (w.setI n x).live = w.live := rfl
@[simp] theorem Wave.setI_active (w : Wave) (n : Nat) (x : IncReg) : (w.setI n x).active = w.active := rfl
@[simp] theorem Wave.setI_ms (w : Wave) (n : Nat) (x : IncReg) : (w.setI n x).ms = w.ms := rfl
@[simp] theorem Wave.setI_cs (w : Wave) (n : Nat) (x : IncReg) : (w.setI n x).cs = w.cs := rfl
@[simp] theorem Wave.setI_v (w : Wave) (n : Nat) (x : IncReg) : (w.setI n x).v = w.v := rfl
@[simp] theorem Wave.setI_p (w : Wave) (n : Nat) (x : IncReg) : (w.setI n x).p = w.p := rfl
@[simp] theorem Wave.setI_s (w : Wave) (n : Nat) (x : IncReg) : (w.setI n x).s = w.s := rfl
@[simp] theorem Wave.setI_k (w : Wave) (n : Nat) (x : IncReg) : (w.setI n x).k = w.k := rfl
@[simp] theorem Wave.setI_a (w : Wave) (n : Nat) (x : IncReg) : (w.setI n x).a = w.a := rfl
@[simp] theorem Wave.setI_i (w : Wave) (n : Nat) (x : IncReg) : (w.setI n x).i = NMap.set {} w.i n x := rfl
@[simp] theorem Wave.setI_d (w : Wave) (n : Nat) (x : IncReg) : (w.setI n x).d = w.d := rfl
@[simp] theorem Wave.setI_h (w : Wave) (n : Nat) (x : IncReg) : (w.setI n x).h = w.h := rfl
@[simp] theorem Wave.setI_bank (w : Wave) (n : Nat) (x : IncReg) : (w.setI n x).bank = w.bank := rfl
@[simp] theorem Wave.setI_step (w : Wave) (n : Nat) (x : IncReg) : (w.setI n x).step = w.step := rfl
@[simp] theorem Wave.setI_exits (w : Wave) (n : Nat) (x : IncReg) : (w.setI n x).exits = w.exits := rfl
@[simp] theorem Wave.setI_whole (w : Wave) (n : Nat) (x : IncReg) : (w.setI n x).whole = w.whole := rfl
@[simp] theorem Wave.setI_draw (w : Wave) (n : Nat) (x : IncReg) : (w.setI n x).draw = w.draw := rfl
@[simp] theorem Wave.setI_conv (w : Wave) (n : Nat) (x : IncReg) : (w.setI n x).conv = w.conv := rfl
@[simp] theorem Wave.setI_wcause (w : Wave) (n : Nat) (x : IncReg) : (w.setI n x).wcause = w.wcause := rfl
@[simp] theorem Wave.setI_trappc (w : Wave) (n : Nat) (x : IncReg) : (w.setI n x).trappc = w.trappc := rfl
@[simp] theorem Wave.setI_resume (w : Wave) (n : Nat) (x : IncReg) : (w.setI n x).resume = w.resume := rfl
@[simp] theorem Wave.setI_skid (w : Wave) (n : Nat) (x : IncReg) : (w.setI n x).skid = w.skid := rfl
@[simp] theorem Wave.setI_traparg (w : Wave) (n : Nat) (x : IncReg) : (w.setI n x).traparg = w.traparg := rfl
@[simp] theorem Wave.setI_hmode (w : Wave) (n : Nat) (x : IncReg) : (w.setI n x).hmode = w.hmode := rfl
@[simp] theorem Wave.setI_shadow (w : Wave) (n : Nat) (x : IncReg) : (w.setI n x).shadow = w.shadow := rfl
@[simp] theorem Wave.setI_shadowK (w : Wave) (n : Nat) (x : IncReg) : (w.setI n x).shadowK = w.shadowK := rfl
@[simp] theorem Wave.setI_savedActive (w : Wave) (n : Nat) (x : IncReg) : (w.setI n x).savedActive = w.savedActive := rfl
@[simp] theorem Wave.setI_entryMS (w : Wave) (n : Nat) (x : IncReg) : (w.setI n x).entryMS = w.entryMS := rfl
@[simp] theorem Wave.setI_entryCS (w : Wave) (n : Nat) (x : IncReg) : (w.setI n x).entryCS = w.entryCS := rfl
@[simp] theorem Wave.setI_pending (w : Wave) (n : Nat) (x : IncReg) : (w.setI n x).pending = w.pending := rfl
@[simp] theorem Wave.setI_ext (w : Wave) (n : Nat) (x : IncReg) : (w.setI n x).ext = w.ext := rfl
@[simp] theorem Wave.setI_seqs (w : Wave) (n : Nat) (x : IncReg) : (w.setI n x).seqs = w.seqs := rfl
@[simp] theorem Wave.setI_buf (w : Wave) (n : Nat) (x : IncReg) : (w.setI n x).buf = w.buf := rfl
@[simp] theorem Wave.setI_nextId (w : Wave) (n : Nat) (x : IncReg) : (w.setI n x).nextId = w.nextId := rfl
@[simp] theorem Wave.setI_pend (w : Wave) (n : Nat) (x : IncReg) : (w.setI n x).pend = w.pend := rfl
@[simp] theorem Wave.setI_mrdy (w : Wave) (n : Nat) (x : IncReg) : (w.setI n x).mrdy = w.mrdy := rfl
@[simp] theorem Wave.setI_wrote (w : Wave) (n : Nat) (x : IncReg) : (w.setI n x).wrote = w.wrote := rfl
@[simp] theorem Wave.setI_qcount (w : Wave) (n : Nat) (x : IncReg) : (w.setI n x).qcount = w.qcount := rfl
@[simp] theorem Wave.setI_time (w : Wave) (n : Nat) (x : IncReg) : (w.setI n x).time = w.time := rfl
@[simp] theorem Wave.setI_age (w : Wave) (n : Nat) (x : IncReg) : (w.setI n x).age = w.age := rfl
@[simp] theorem Wave.setI_skidLeft (w : Wave) (n : Nat) (x : IncReg) : (w.setI n x).skidLeft = w.skidLeft := rfl
@[simp] theorem Wave.setI_qended (w : Wave) (n : Nat) (x : IncReg) : (w.setI n x).qended = w.qended := rfl
@[simp] theorem Wave.setI_heldBack (w : Wave) (n : Nat) (x : IncReg) : (w.setI n x).heldBack = w.heldBack := rfl
@[simp] theorem Wave.setI_offer (w : Wave) (n : Nat) (x : IncReg) : (w.setI n x).offer = w.offer := rfl
@[simp] theorem Wave.setI_savedOffer (w : Wave) (n : Nat) (x : IncReg) : (w.setI n x).savedOffer = w.savedOffer := rfl
@[simp] theorem Wave.setI_granted (w : Wave) (n : Nat) (x : IncReg) : (w.setI n x).granted = w.granted := rfl
@[simp] theorem Wave.setI_passed (w : Wave) (n : Nat) (x : IncReg) : (w.setI n x).passed = w.passed := rfl
@[simp] theorem Wave.setI_view (w : Wave) (n : Nat) (x : IncReg) : (w.setI n x).view = w.view := rfl

/-! ### Wave.setD -/

@[simp] theorem Wave.setD_kern (w : Wave) (n : Nat) (x : TileReg) : (w.setD n x).kern = w.kern := rfl
@[simp] theorem Wave.setD_team (w : Wave) (n : Nat) (x : TileReg) : (w.setD n x).team = w.team := rfl
@[simp] theorem Wave.setD_idx (w : Wave) (n : Nat) (x : TileReg) : (w.setD n x).idx = w.idx := rfl
@[simp] theorem Wave.setD_f1 (w : Wave) (n : Nat) (x : TileReg) : (w.setD n x).f1 = w.f1 := rfl
@[simp] theorem Wave.setD_st (w : Wave) (n : Nat) (x : TileReg) : (w.setD n x).st = w.st := rfl
@[simp] theorem Wave.setD_pc (w : Wave) (n : Nat) (x : TileReg) : (w.setD n x).pc = w.pc := rfl
@[simp] theorem Wave.setD_redo (w : Wave) (n : Nat) (x : TileReg) : (w.setD n x).redo = w.redo := rfl
@[simp] theorem Wave.setD_hold (w : Wave) (n : Nat) (x : TileReg) : (w.setD n x).hold = w.hold := rfl
@[simp] theorem Wave.setD_live (w : Wave) (n : Nat) (x : TileReg) : (w.setD n x).live = w.live := rfl
@[simp] theorem Wave.setD_active (w : Wave) (n : Nat) (x : TileReg) : (w.setD n x).active = w.active := rfl
@[simp] theorem Wave.setD_ms (w : Wave) (n : Nat) (x : TileReg) : (w.setD n x).ms = w.ms := rfl
@[simp] theorem Wave.setD_cs (w : Wave) (n : Nat) (x : TileReg) : (w.setD n x).cs = w.cs := rfl
@[simp] theorem Wave.setD_v (w : Wave) (n : Nat) (x : TileReg) : (w.setD n x).v = w.v := rfl
@[simp] theorem Wave.setD_p (w : Wave) (n : Nat) (x : TileReg) : (w.setD n x).p = w.p := rfl
@[simp] theorem Wave.setD_s (w : Wave) (n : Nat) (x : TileReg) : (w.setD n x).s = w.s := rfl
@[simp] theorem Wave.setD_k (w : Wave) (n : Nat) (x : TileReg) : (w.setD n x).k = w.k := rfl
@[simp] theorem Wave.setD_a (w : Wave) (n : Nat) (x : TileReg) : (w.setD n x).a = w.a := rfl
@[simp] theorem Wave.setD_i (w : Wave) (n : Nat) (x : TileReg) : (w.setD n x).i = w.i := rfl
@[simp] theorem Wave.setD_d (w : Wave) (n : Nat) (x : TileReg) : (w.setD n x).d = NMap.set {} w.d n x := rfl
@[simp] theorem Wave.setD_h (w : Wave) (n : Nat) (x : TileReg) : (w.setD n x).h = w.h := rfl
@[simp] theorem Wave.setD_bank (w : Wave) (n : Nat) (x : TileReg) : (w.setD n x).bank = w.bank := rfl
@[simp] theorem Wave.setD_step (w : Wave) (n : Nat) (x : TileReg) : (w.setD n x).step = w.step := rfl
@[simp] theorem Wave.setD_exits (w : Wave) (n : Nat) (x : TileReg) : (w.setD n x).exits = w.exits := rfl
@[simp] theorem Wave.setD_whole (w : Wave) (n : Nat) (x : TileReg) : (w.setD n x).whole = w.whole := rfl
@[simp] theorem Wave.setD_draw (w : Wave) (n : Nat) (x : TileReg) : (w.setD n x).draw = w.draw := rfl
@[simp] theorem Wave.setD_conv (w : Wave) (n : Nat) (x : TileReg) : (w.setD n x).conv = w.conv := rfl
@[simp] theorem Wave.setD_wcause (w : Wave) (n : Nat) (x : TileReg) : (w.setD n x).wcause = w.wcause := rfl
@[simp] theorem Wave.setD_trappc (w : Wave) (n : Nat) (x : TileReg) : (w.setD n x).trappc = w.trappc := rfl
@[simp] theorem Wave.setD_resume (w : Wave) (n : Nat) (x : TileReg) : (w.setD n x).resume = w.resume := rfl
@[simp] theorem Wave.setD_skid (w : Wave) (n : Nat) (x : TileReg) : (w.setD n x).skid = w.skid := rfl
@[simp] theorem Wave.setD_traparg (w : Wave) (n : Nat) (x : TileReg) : (w.setD n x).traparg = w.traparg := rfl
@[simp] theorem Wave.setD_hmode (w : Wave) (n : Nat) (x : TileReg) : (w.setD n x).hmode = w.hmode := rfl
@[simp] theorem Wave.setD_shadow (w : Wave) (n : Nat) (x : TileReg) : (w.setD n x).shadow = w.shadow := rfl
@[simp] theorem Wave.setD_shadowK (w : Wave) (n : Nat) (x : TileReg) : (w.setD n x).shadowK = w.shadowK := rfl
@[simp] theorem Wave.setD_savedActive (w : Wave) (n : Nat) (x : TileReg) : (w.setD n x).savedActive = w.savedActive := rfl
@[simp] theorem Wave.setD_entryMS (w : Wave) (n : Nat) (x : TileReg) : (w.setD n x).entryMS = w.entryMS := rfl
@[simp] theorem Wave.setD_entryCS (w : Wave) (n : Nat) (x : TileReg) : (w.setD n x).entryCS = w.entryCS := rfl
@[simp] theorem Wave.setD_pending (w : Wave) (n : Nat) (x : TileReg) : (w.setD n x).pending = w.pending := rfl
@[simp] theorem Wave.setD_ext (w : Wave) (n : Nat) (x : TileReg) : (w.setD n x).ext = w.ext := rfl
@[simp] theorem Wave.setD_seqs (w : Wave) (n : Nat) (x : TileReg) : (w.setD n x).seqs = w.seqs := rfl
@[simp] theorem Wave.setD_buf (w : Wave) (n : Nat) (x : TileReg) : (w.setD n x).buf = w.buf := rfl
@[simp] theorem Wave.setD_nextId (w : Wave) (n : Nat) (x : TileReg) : (w.setD n x).nextId = w.nextId := rfl
@[simp] theorem Wave.setD_pend (w : Wave) (n : Nat) (x : TileReg) : (w.setD n x).pend = w.pend := rfl
@[simp] theorem Wave.setD_mrdy (w : Wave) (n : Nat) (x : TileReg) : (w.setD n x).mrdy = w.mrdy := rfl
@[simp] theorem Wave.setD_wrote (w : Wave) (n : Nat) (x : TileReg) : (w.setD n x).wrote = w.wrote := rfl
@[simp] theorem Wave.setD_qcount (w : Wave) (n : Nat) (x : TileReg) : (w.setD n x).qcount = w.qcount := rfl
@[simp] theorem Wave.setD_time (w : Wave) (n : Nat) (x : TileReg) : (w.setD n x).time = w.time := rfl
@[simp] theorem Wave.setD_age (w : Wave) (n : Nat) (x : TileReg) : (w.setD n x).age = w.age := rfl
@[simp] theorem Wave.setD_skidLeft (w : Wave) (n : Nat) (x : TileReg) : (w.setD n x).skidLeft = w.skidLeft := rfl
@[simp] theorem Wave.setD_qended (w : Wave) (n : Nat) (x : TileReg) : (w.setD n x).qended = w.qended := rfl
@[simp] theorem Wave.setD_heldBack (w : Wave) (n : Nat) (x : TileReg) : (w.setD n x).heldBack = w.heldBack := rfl
@[simp] theorem Wave.setD_offer (w : Wave) (n : Nat) (x : TileReg) : (w.setD n x).offer = w.offer := rfl
@[simp] theorem Wave.setD_savedOffer (w : Wave) (n : Nat) (x : TileReg) : (w.setD n x).savedOffer = w.savedOffer := rfl
@[simp] theorem Wave.setD_granted (w : Wave) (n : Nat) (x : TileReg) : (w.setD n x).granted = w.granted := rfl
@[simp] theorem Wave.setD_passed (w : Wave) (n : Nat) (x : TileReg) : (w.setD n x).passed = w.passed := rfl
@[simp] theorem Wave.setD_view (w : Wave) (n : Nat) (x : TileReg) : (w.setD n x).view = w.view := rfl

/-! ### Wave.setH -/

@[simp] theorem Wave.setH_kern (w : Wave) (n : Nat) (x : HandleReg) : (w.setH n x).kern = w.kern := rfl
@[simp] theorem Wave.setH_team (w : Wave) (n : Nat) (x : HandleReg) : (w.setH n x).team = w.team := rfl
@[simp] theorem Wave.setH_idx (w : Wave) (n : Nat) (x : HandleReg) : (w.setH n x).idx = w.idx := rfl
@[simp] theorem Wave.setH_f1 (w : Wave) (n : Nat) (x : HandleReg) : (w.setH n x).f1 = w.f1 := rfl
@[simp] theorem Wave.setH_st (w : Wave) (n : Nat) (x : HandleReg) : (w.setH n x).st = w.st := rfl
@[simp] theorem Wave.setH_pc (w : Wave) (n : Nat) (x : HandleReg) : (w.setH n x).pc = w.pc := rfl
@[simp] theorem Wave.setH_redo (w : Wave) (n : Nat) (x : HandleReg) : (w.setH n x).redo = w.redo := rfl
@[simp] theorem Wave.setH_hold (w : Wave) (n : Nat) (x : HandleReg) : (w.setH n x).hold = w.hold := rfl
@[simp] theorem Wave.setH_live (w : Wave) (n : Nat) (x : HandleReg) : (w.setH n x).live = w.live := rfl
@[simp] theorem Wave.setH_active (w : Wave) (n : Nat) (x : HandleReg) : (w.setH n x).active = w.active := rfl
@[simp] theorem Wave.setH_ms (w : Wave) (n : Nat) (x : HandleReg) : (w.setH n x).ms = w.ms := rfl
@[simp] theorem Wave.setH_cs (w : Wave) (n : Nat) (x : HandleReg) : (w.setH n x).cs = w.cs := rfl
@[simp] theorem Wave.setH_v (w : Wave) (n : Nat) (x : HandleReg) : (w.setH n x).v = w.v := rfl
@[simp] theorem Wave.setH_p (w : Wave) (n : Nat) (x : HandleReg) : (w.setH n x).p = w.p := rfl
@[simp] theorem Wave.setH_s (w : Wave) (n : Nat) (x : HandleReg) : (w.setH n x).s = w.s := rfl
@[simp] theorem Wave.setH_k (w : Wave) (n : Nat) (x : HandleReg) : (w.setH n x).k = w.k := rfl
@[simp] theorem Wave.setH_a (w : Wave) (n : Nat) (x : HandleReg) : (w.setH n x).a = w.a := rfl
@[simp] theorem Wave.setH_i (w : Wave) (n : Nat) (x : HandleReg) : (w.setH n x).i = w.i := rfl
@[simp] theorem Wave.setH_d (w : Wave) (n : Nat) (x : HandleReg) : (w.setH n x).d = w.d := rfl
@[simp] theorem Wave.setH_h (w : Wave) (n : Nat) (x : HandleReg) : (w.setH n x).h = NMap.set {} w.h n x := rfl
@[simp] theorem Wave.setH_bank (w : Wave) (n : Nat) (x : HandleReg) : (w.setH n x).bank = w.bank := rfl
@[simp] theorem Wave.setH_step (w : Wave) (n : Nat) (x : HandleReg) : (w.setH n x).step = w.step := rfl
@[simp] theorem Wave.setH_exits (w : Wave) (n : Nat) (x : HandleReg) : (w.setH n x).exits = w.exits := rfl
@[simp] theorem Wave.setH_whole (w : Wave) (n : Nat) (x : HandleReg) : (w.setH n x).whole = w.whole := rfl
@[simp] theorem Wave.setH_draw (w : Wave) (n : Nat) (x : HandleReg) : (w.setH n x).draw = w.draw := rfl
@[simp] theorem Wave.setH_conv (w : Wave) (n : Nat) (x : HandleReg) : (w.setH n x).conv = w.conv := rfl
@[simp] theorem Wave.setH_wcause (w : Wave) (n : Nat) (x : HandleReg) : (w.setH n x).wcause = w.wcause := rfl
@[simp] theorem Wave.setH_trappc (w : Wave) (n : Nat) (x : HandleReg) : (w.setH n x).trappc = w.trappc := rfl
@[simp] theorem Wave.setH_resume (w : Wave) (n : Nat) (x : HandleReg) : (w.setH n x).resume = w.resume := rfl
@[simp] theorem Wave.setH_skid (w : Wave) (n : Nat) (x : HandleReg) : (w.setH n x).skid = w.skid := rfl
@[simp] theorem Wave.setH_traparg (w : Wave) (n : Nat) (x : HandleReg) : (w.setH n x).traparg = w.traparg := rfl
@[simp] theorem Wave.setH_hmode (w : Wave) (n : Nat) (x : HandleReg) : (w.setH n x).hmode = w.hmode := rfl
@[simp] theorem Wave.setH_shadow (w : Wave) (n : Nat) (x : HandleReg) : (w.setH n x).shadow = w.shadow := rfl
@[simp] theorem Wave.setH_shadowK (w : Wave) (n : Nat) (x : HandleReg) : (w.setH n x).shadowK = w.shadowK := rfl
@[simp] theorem Wave.setH_savedActive (w : Wave) (n : Nat) (x : HandleReg) : (w.setH n x).savedActive = w.savedActive := rfl
@[simp] theorem Wave.setH_entryMS (w : Wave) (n : Nat) (x : HandleReg) : (w.setH n x).entryMS = w.entryMS := rfl
@[simp] theorem Wave.setH_entryCS (w : Wave) (n : Nat) (x : HandleReg) : (w.setH n x).entryCS = w.entryCS := rfl
@[simp] theorem Wave.setH_pending (w : Wave) (n : Nat) (x : HandleReg) : (w.setH n x).pending = w.pending := rfl
@[simp] theorem Wave.setH_ext (w : Wave) (n : Nat) (x : HandleReg) : (w.setH n x).ext = w.ext := rfl
@[simp] theorem Wave.setH_seqs (w : Wave) (n : Nat) (x : HandleReg) : (w.setH n x).seqs = w.seqs := rfl
@[simp] theorem Wave.setH_buf (w : Wave) (n : Nat) (x : HandleReg) : (w.setH n x).buf = w.buf := rfl
@[simp] theorem Wave.setH_nextId (w : Wave) (n : Nat) (x : HandleReg) : (w.setH n x).nextId = w.nextId := rfl
@[simp] theorem Wave.setH_pend (w : Wave) (n : Nat) (x : HandleReg) : (w.setH n x).pend = w.pend := rfl
@[simp] theorem Wave.setH_mrdy (w : Wave) (n : Nat) (x : HandleReg) : (w.setH n x).mrdy = w.mrdy := rfl
@[simp] theorem Wave.setH_wrote (w : Wave) (n : Nat) (x : HandleReg) : (w.setH n x).wrote = w.wrote := rfl
@[simp] theorem Wave.setH_qcount (w : Wave) (n : Nat) (x : HandleReg) : (w.setH n x).qcount = w.qcount := rfl
@[simp] theorem Wave.setH_time (w : Wave) (n : Nat) (x : HandleReg) : (w.setH n x).time = w.time := rfl
@[simp] theorem Wave.setH_age (w : Wave) (n : Nat) (x : HandleReg) : (w.setH n x).age = w.age := rfl
@[simp] theorem Wave.setH_skidLeft (w : Wave) (n : Nat) (x : HandleReg) : (w.setH n x).skidLeft = w.skidLeft := rfl
@[simp] theorem Wave.setH_qended (w : Wave) (n : Nat) (x : HandleReg) : (w.setH n x).qended = w.qended := rfl
@[simp] theorem Wave.setH_heldBack (w : Wave) (n : Nat) (x : HandleReg) : (w.setH n x).heldBack = w.heldBack := rfl
@[simp] theorem Wave.setH_offer (w : Wave) (n : Nat) (x : HandleReg) : (w.setH n x).offer = w.offer := rfl
@[simp] theorem Wave.setH_savedOffer (w : Wave) (n : Nat) (x : HandleReg) : (w.setH n x).savedOffer = w.savedOffer := rfl
@[simp] theorem Wave.setH_granted (w : Wave) (n : Nat) (x : HandleReg) : (w.setH n x).granted = w.granted := rfl
@[simp] theorem Wave.setH_passed (w : Wave) (n : Nat) (x : HandleReg) : (w.setH n x).passed = w.passed := rfl
@[simp] theorem Wave.setH_view (w : Wave) (n : Nat) (x : HandleReg) : (w.setH n x).view = w.view := rfl

/-! ### Wave.setBank -/

@[simp] theorem Wave.setBank_kern (w : Wave) (f n b : Nat) (x : Word) : (w.setBank f n b x).kern = w.kern := rfl
@[simp] theorem Wave.setBank_team (w : Wave) (f n b : Nat) (x : Word) : (w.setBank f n b x).team = w.team := rfl
@[simp] theorem Wave.setBank_idx (w : Wave) (f n b : Nat) (x : Word) : (w.setBank f n b x).idx = w.idx := rfl
@[simp] theorem Wave.setBank_f1 (w : Wave) (f n b : Nat) (x : Word) : (w.setBank f n b x).f1 = w.f1 := rfl
@[simp] theorem Wave.setBank_st (w : Wave) (f n b : Nat) (x : Word) : (w.setBank f n b x).st = w.st := rfl
@[simp] theorem Wave.setBank_pc (w : Wave) (f n b : Nat) (x : Word) : (w.setBank f n b x).pc = w.pc := rfl
@[simp] theorem Wave.setBank_redo (w : Wave) (f n b : Nat) (x : Word) : (w.setBank f n b x).redo = w.redo := rfl
@[simp] theorem Wave.setBank_hold (w : Wave) (f n b : Nat) (x : Word) : (w.setBank f n b x).hold = w.hold := rfl
@[simp] theorem Wave.setBank_live (w : Wave) (f n b : Nat) (x : Word) : (w.setBank f n b x).live = w.live := rfl
@[simp] theorem Wave.setBank_active (w : Wave) (f n b : Nat) (x : Word) : (w.setBank f n b x).active = w.active := rfl
@[simp] theorem Wave.setBank_ms (w : Wave) (f n b : Nat) (x : Word) : (w.setBank f n b x).ms = w.ms := rfl
@[simp] theorem Wave.setBank_cs (w : Wave) (f n b : Nat) (x : Word) : (w.setBank f n b x).cs = w.cs := rfl
@[simp] theorem Wave.setBank_v (w : Wave) (f n b : Nat) (x : Word) : (w.setBank f n b x).v = w.v := rfl
@[simp] theorem Wave.setBank_p (w : Wave) (f n b : Nat) (x : Word) : (w.setBank f n b x).p = w.p := rfl
@[simp] theorem Wave.setBank_s (w : Wave) (f n b : Nat) (x : Word) : (w.setBank f n b x).s = w.s := rfl
@[simp] theorem Wave.setBank_k (w : Wave) (f n b : Nat) (x : Word) : (w.setBank f n b x).k = w.k := rfl
@[simp] theorem Wave.setBank_a (w : Wave) (f n b : Nat) (x : Word) : (w.setBank f n b x).a = w.a := rfl
@[simp] theorem Wave.setBank_i (w : Wave) (f n b : Nat) (x : Word) : (w.setBank f n b x).i = w.i := rfl
@[simp] theorem Wave.setBank_d (w : Wave) (f n b : Nat) (x : Word) : (w.setBank f n b x).d = w.d := rfl
@[simp] theorem Wave.setBank_h (w : Wave) (f n b : Nat) (x : Word) : (w.setBank f n b x).h = w.h := rfl
@[simp] theorem Wave.setBank_bank (w : Wave) (f n b : Nat) (x : Word) : (w.setBank f n b x).bank = NMap.set 0 w.bank (64 * f + 2 * n + b) x :=
  rfl
@[simp] theorem Wave.setBank_step (w : Wave) (f n b : Nat) (x : Word) : (w.setBank f n b x).step = w.step := rfl
@[simp] theorem Wave.setBank_exits (w : Wave) (f n b : Nat) (x : Word) : (w.setBank f n b x).exits = w.exits := rfl
@[simp] theorem Wave.setBank_whole (w : Wave) (f n b : Nat) (x : Word) : (w.setBank f n b x).whole = w.whole := rfl
@[simp] theorem Wave.setBank_draw (w : Wave) (f n b : Nat) (x : Word) : (w.setBank f n b x).draw = w.draw := rfl
@[simp] theorem Wave.setBank_conv (w : Wave) (f n b : Nat) (x : Word) : (w.setBank f n b x).conv = w.conv := rfl
@[simp] theorem Wave.setBank_wcause (w : Wave) (f n b : Nat) (x : Word) : (w.setBank f n b x).wcause = w.wcause := rfl
@[simp] theorem Wave.setBank_trappc (w : Wave) (f n b : Nat) (x : Word) : (w.setBank f n b x).trappc = w.trappc := rfl
@[simp] theorem Wave.setBank_resume (w : Wave) (f n b : Nat) (x : Word) : (w.setBank f n b x).resume = w.resume := rfl
@[simp] theorem Wave.setBank_skid (w : Wave) (f n b : Nat) (x : Word) : (w.setBank f n b x).skid = w.skid := rfl
@[simp] theorem Wave.setBank_traparg (w : Wave) (f n b : Nat) (x : Word) : (w.setBank f n b x).traparg = w.traparg := rfl
@[simp] theorem Wave.setBank_hmode (w : Wave) (f n b : Nat) (x : Word) : (w.setBank f n b x).hmode = w.hmode := rfl
@[simp] theorem Wave.setBank_shadow (w : Wave) (f n b : Nat) (x : Word) : (w.setBank f n b x).shadow = w.shadow := rfl
@[simp] theorem Wave.setBank_shadowK (w : Wave) (f n b : Nat) (x : Word) : (w.setBank f n b x).shadowK = w.shadowK := rfl
@[simp] theorem Wave.setBank_savedActive (w : Wave) (f n b : Nat) (x : Word) : (w.setBank f n b x).savedActive = w.savedActive :=
  rfl
@[simp] theorem Wave.setBank_entryMS (w : Wave) (f n b : Nat) (x : Word) : (w.setBank f n b x).entryMS = w.entryMS := rfl
@[simp] theorem Wave.setBank_entryCS (w : Wave) (f n b : Nat) (x : Word) : (w.setBank f n b x).entryCS = w.entryCS := rfl
@[simp] theorem Wave.setBank_pending (w : Wave) (f n b : Nat) (x : Word) : (w.setBank f n b x).pending = w.pending := rfl
@[simp] theorem Wave.setBank_ext (w : Wave) (f n b : Nat) (x : Word) : (w.setBank f n b x).ext = w.ext := rfl
@[simp] theorem Wave.setBank_seqs (w : Wave) (f n b : Nat) (x : Word) : (w.setBank f n b x).seqs = w.seqs := rfl
@[simp] theorem Wave.setBank_buf (w : Wave) (f n b : Nat) (x : Word) : (w.setBank f n b x).buf = w.buf := rfl
@[simp] theorem Wave.setBank_nextId (w : Wave) (f n b : Nat) (x : Word) : (w.setBank f n b x).nextId = w.nextId := rfl
@[simp] theorem Wave.setBank_pend (w : Wave) (f n b : Nat) (x : Word) : (w.setBank f n b x).pend = w.pend := rfl
@[simp] theorem Wave.setBank_mrdy (w : Wave) (f n b : Nat) (x : Word) : (w.setBank f n b x).mrdy = w.mrdy := rfl
@[simp] theorem Wave.setBank_wrote (w : Wave) (f n b : Nat) (x : Word) : (w.setBank f n b x).wrote = w.wrote := rfl
@[simp] theorem Wave.setBank_qcount (w : Wave) (f n b : Nat) (x : Word) : (w.setBank f n b x).qcount = w.qcount := rfl
@[simp] theorem Wave.setBank_time (w : Wave) (f n b : Nat) (x : Word) : (w.setBank f n b x).time = w.time := rfl
@[simp] theorem Wave.setBank_age (w : Wave) (f n b : Nat) (x : Word) : (w.setBank f n b x).age = w.age := rfl
@[simp] theorem Wave.setBank_skidLeft (w : Wave) (f n b : Nat) (x : Word) : (w.setBank f n b x).skidLeft = w.skidLeft := rfl
@[simp] theorem Wave.setBank_qended (w : Wave) (f n b : Nat) (x : Word) : (w.setBank f n b x).qended = w.qended := rfl
@[simp] theorem Wave.setBank_heldBack (w : Wave) (f n b : Nat) (x : Word) : (w.setBank f n b x).heldBack = w.heldBack := rfl
@[simp] theorem Wave.setBank_offer (w : Wave) (f n b : Nat) (x : Word) : (w.setBank f n b x).offer = w.offer := rfl
@[simp] theorem Wave.setBank_savedOffer (w : Wave) (f n b : Nat) (x : Word) : (w.setBank f n b x).savedOffer = w.savedOffer := rfl
@[simp] theorem Wave.setBank_granted (w : Wave) (f n b : Nat) (x : Word) : (w.setBank f n b x).granted = w.granted := rfl
@[simp] theorem Wave.setBank_passed (w : Wave) (f n b : Nat) (x : Word) : (w.setBank f n b x).passed = w.passed := rfl
@[simp] theorem Wave.setBank_view (w : Wave) (f n b : Nat) (x : Word) : (w.setBank f n b x).view = w.view := rfl

/-! ### Wave.mark -/

@[simp] theorem Wave.mark_kern (w : Wave) (c : Nat) : (w.mark c).kern = w.kern := rfl
@[simp] theorem Wave.mark_team (w : Wave) (c : Nat) : (w.mark c).team = w.team := rfl
@[simp] theorem Wave.mark_idx (w : Wave) (c : Nat) : (w.mark c).idx = w.idx := rfl
@[simp] theorem Wave.mark_f1 (w : Wave) (c : Nat) : (w.mark c).f1 = w.f1 := rfl
@[simp] theorem Wave.mark_st (w : Wave) (c : Nat) : (w.mark c).st = w.st := rfl
@[simp] theorem Wave.mark_pc (w : Wave) (c : Nat) : (w.mark c).pc = w.pc := rfl
@[simp] theorem Wave.mark_redo (w : Wave) (c : Nat) : (w.mark c).redo = w.redo := rfl
@[simp] theorem Wave.mark_hold (w : Wave) (c : Nat) : (w.mark c).hold = w.hold := rfl
@[simp] theorem Wave.mark_live (w : Wave) (c : Nat) : (w.mark c).live = w.live := rfl
@[simp] theorem Wave.mark_active (w : Wave) (c : Nat) : (w.mark c).active = w.active := rfl
@[simp] theorem Wave.mark_ms (w : Wave) (c : Nat) : (w.mark c).ms = w.ms := rfl
@[simp] theorem Wave.mark_cs (w : Wave) (c : Nat) : (w.mark c).cs = w.cs := rfl
@[simp] theorem Wave.mark_v (w : Wave) (c : Nat) : (w.mark c).v = w.v := rfl
@[simp] theorem Wave.mark_p (w : Wave) (c : Nat) : (w.mark c).p = w.p := rfl
@[simp] theorem Wave.mark_s (w : Wave) (c : Nat) : (w.mark c).s = w.s := rfl
@[simp] theorem Wave.mark_k (w : Wave) (c : Nat) : (w.mark c).k = w.k := rfl
@[simp] theorem Wave.mark_a (w : Wave) (c : Nat) : (w.mark c).a = w.a := rfl
@[simp] theorem Wave.mark_i (w : Wave) (c : Nat) : (w.mark c).i = w.i := rfl
@[simp] theorem Wave.mark_d (w : Wave) (c : Nat) : (w.mark c).d = w.d := rfl
@[simp] theorem Wave.mark_h (w : Wave) (c : Nat) : (w.mark c).h = w.h := rfl
@[simp] theorem Wave.mark_bank (w : Wave) (c : Nat) : (w.mark c).bank = w.bank := rfl
@[simp] theorem Wave.mark_step (w : Wave) (c : Nat) : (w.mark c).step = w.step := rfl
@[simp] theorem Wave.mark_exits (w : Wave) (c : Nat) : (w.mark c).exits = w.exits := rfl
@[simp] theorem Wave.mark_whole (w : Wave) (c : Nat) : (w.mark c).whole = w.whole := rfl
@[simp] theorem Wave.mark_draw (w : Wave) (c : Nat) : (w.mark c).draw = w.draw := rfl
@[simp] theorem Wave.mark_conv (w : Wave) (c : Nat) : (w.mark c).conv = w.conv := rfl
@[simp] theorem Wave.mark_wcause (w : Wave) (c : Nat) : (w.mark c).wcause = w.wcause ||| BitVec.ofNat 64 (2 ^ c) := rfl
@[simp] theorem Wave.mark_trappc (w : Wave) (c : Nat) : (w.mark c).trappc = w.trappc := rfl
@[simp] theorem Wave.mark_resume (w : Wave) (c : Nat) : (w.mark c).resume = w.resume := rfl
@[simp] theorem Wave.mark_skid (w : Wave) (c : Nat) : (w.mark c).skid = w.skid := rfl
@[simp] theorem Wave.mark_traparg (w : Wave) (c : Nat) : (w.mark c).traparg = w.traparg := rfl
@[simp] theorem Wave.mark_hmode (w : Wave) (c : Nat) : (w.mark c).hmode = w.hmode := rfl
@[simp] theorem Wave.mark_shadow (w : Wave) (c : Nat) : (w.mark c).shadow = w.shadow := rfl
@[simp] theorem Wave.mark_shadowK (w : Wave) (c : Nat) : (w.mark c).shadowK = w.shadowK := rfl
@[simp] theorem Wave.mark_savedActive (w : Wave) (c : Nat) : (w.mark c).savedActive = w.savedActive := rfl
@[simp] theorem Wave.mark_entryMS (w : Wave) (c : Nat) : (w.mark c).entryMS = w.entryMS := rfl
@[simp] theorem Wave.mark_entryCS (w : Wave) (c : Nat) : (w.mark c).entryCS = w.entryCS := rfl
@[simp] theorem Wave.mark_pending (w : Wave) (c : Nat) : (w.mark c).pending = w.pending := rfl
@[simp] theorem Wave.mark_ext (w : Wave) (c : Nat) : (w.mark c).ext = w.ext := rfl
@[simp] theorem Wave.mark_seqs (w : Wave) (c : Nat) : (w.mark c).seqs = w.seqs := rfl
@[simp] theorem Wave.mark_buf (w : Wave) (c : Nat) : (w.mark c).buf = w.buf := rfl
@[simp] theorem Wave.mark_nextId (w : Wave) (c : Nat) : (w.mark c).nextId = w.nextId := rfl
@[simp] theorem Wave.mark_pend (w : Wave) (c : Nat) : (w.mark c).pend = w.pend := rfl
@[simp] theorem Wave.mark_mrdy (w : Wave) (c : Nat) : (w.mark c).mrdy = w.mrdy := rfl
@[simp] theorem Wave.mark_wrote (w : Wave) (c : Nat) : (w.mark c).wrote = w.wrote := rfl
@[simp] theorem Wave.mark_qcount (w : Wave) (c : Nat) : (w.mark c).qcount = w.qcount := rfl
@[simp] theorem Wave.mark_time (w : Wave) (c : Nat) : (w.mark c).time = w.time := rfl
@[simp] theorem Wave.mark_age (w : Wave) (c : Nat) : (w.mark c).age = w.age := rfl
@[simp] theorem Wave.mark_skidLeft (w : Wave) (c : Nat) : (w.mark c).skidLeft = w.skidLeft := rfl
@[simp] theorem Wave.mark_qended (w : Wave) (c : Nat) : (w.mark c).qended = w.qended := rfl
@[simp] theorem Wave.mark_heldBack (w : Wave) (c : Nat) : (w.mark c).heldBack = w.heldBack := rfl
@[simp] theorem Wave.mark_offer (w : Wave) (c : Nat) : (w.mark c).offer = w.offer := rfl
@[simp] theorem Wave.mark_savedOffer (w : Wave) (c : Nat) : (w.mark c).savedOffer = w.savedOffer := rfl
@[simp] theorem Wave.mark_granted (w : Wave) (c : Nat) : (w.mark c).granted = w.granted := rfl
@[simp] theorem Wave.mark_passed (w : Wave) (c : Nat) : (w.mark c).passed = w.passed := rfl
@[simp] theorem Wave.mark_view (w : Wave) (c : Nat) : (w.mark c).view = w.view := rfl

/-! ### Wave.addPend -/

@[simp] theorem Wave.addPend_kern (w : Wave) (rs : List RegRef) (i : Nat) : (w.addPend rs i).kern = w.kern := rfl
@[simp] theorem Wave.addPend_team (w : Wave) (rs : List RegRef) (i : Nat) : (w.addPend rs i).team = w.team := rfl
@[simp] theorem Wave.addPend_idx (w : Wave) (rs : List RegRef) (i : Nat) : (w.addPend rs i).idx = w.idx := rfl
@[simp] theorem Wave.addPend_f1 (w : Wave) (rs : List RegRef) (i : Nat) : (w.addPend rs i).f1 = w.f1 := rfl
@[simp] theorem Wave.addPend_st (w : Wave) (rs : List RegRef) (i : Nat) : (w.addPend rs i).st = w.st := rfl
@[simp] theorem Wave.addPend_pc (w : Wave) (rs : List RegRef) (i : Nat) : (w.addPend rs i).pc = w.pc := rfl
@[simp] theorem Wave.addPend_redo (w : Wave) (rs : List RegRef) (i : Nat) : (w.addPend rs i).redo = w.redo := rfl
@[simp] theorem Wave.addPend_hold (w : Wave) (rs : List RegRef) (i : Nat) : (w.addPend rs i).hold = w.hold := rfl
@[simp] theorem Wave.addPend_live (w : Wave) (rs : List RegRef) (i : Nat) : (w.addPend rs i).live = w.live := rfl
@[simp] theorem Wave.addPend_active (w : Wave) (rs : List RegRef) (i : Nat) : (w.addPend rs i).active = w.active := rfl
@[simp] theorem Wave.addPend_ms (w : Wave) (rs : List RegRef) (i : Nat) : (w.addPend rs i).ms = w.ms := rfl
@[simp] theorem Wave.addPend_cs (w : Wave) (rs : List RegRef) (i : Nat) : (w.addPend rs i).cs = w.cs := rfl
@[simp] theorem Wave.addPend_v (w : Wave) (rs : List RegRef) (i : Nat) : (w.addPend rs i).v = w.v := rfl
@[simp] theorem Wave.addPend_p (w : Wave) (rs : List RegRef) (i : Nat) : (w.addPend rs i).p = w.p := rfl
@[simp] theorem Wave.addPend_s (w : Wave) (rs : List RegRef) (i : Nat) : (w.addPend rs i).s = w.s := rfl
@[simp] theorem Wave.addPend_k (w : Wave) (rs : List RegRef) (i : Nat) : (w.addPend rs i).k = w.k := rfl
@[simp] theorem Wave.addPend_a (w : Wave) (rs : List RegRef) (i : Nat) : (w.addPend rs i).a = w.a := rfl
@[simp] theorem Wave.addPend_i (w : Wave) (rs : List RegRef) (i : Nat) : (w.addPend rs i).i = w.i := rfl
@[simp] theorem Wave.addPend_d (w : Wave) (rs : List RegRef) (i : Nat) : (w.addPend rs i).d = w.d := rfl
@[simp] theorem Wave.addPend_h (w : Wave) (rs : List RegRef) (i : Nat) : (w.addPend rs i).h = w.h := rfl
@[simp] theorem Wave.addPend_bank (w : Wave) (rs : List RegRef) (i : Nat) : (w.addPend rs i).bank = w.bank := rfl
@[simp] theorem Wave.addPend_step (w : Wave) (rs : List RegRef) (i : Nat) : (w.addPend rs i).step = w.step := rfl
@[simp] theorem Wave.addPend_exits (w : Wave) (rs : List RegRef) (i : Nat) : (w.addPend rs i).exits = w.exits := rfl
@[simp] theorem Wave.addPend_whole (w : Wave) (rs : List RegRef) (i : Nat) : (w.addPend rs i).whole = w.whole := rfl
@[simp] theorem Wave.addPend_draw (w : Wave) (rs : List RegRef) (i : Nat) : (w.addPend rs i).draw = w.draw := rfl
@[simp] theorem Wave.addPend_conv (w : Wave) (rs : List RegRef) (i : Nat) : (w.addPend rs i).conv = w.conv := rfl
@[simp] theorem Wave.addPend_wcause (w : Wave) (rs : List RegRef) (i : Nat) : (w.addPend rs i).wcause = w.wcause := rfl
@[simp] theorem Wave.addPend_trappc (w : Wave) (rs : List RegRef) (i : Nat) : (w.addPend rs i).trappc = w.trappc := rfl
@[simp] theorem Wave.addPend_resume (w : Wave) (rs : List RegRef) (i : Nat) : (w.addPend rs i).resume = w.resume := rfl
@[simp] theorem Wave.addPend_skid (w : Wave) (rs : List RegRef) (i : Nat) : (w.addPend rs i).skid = w.skid := rfl
@[simp] theorem Wave.addPend_traparg (w : Wave) (rs : List RegRef) (i : Nat) : (w.addPend rs i).traparg = w.traparg := rfl
@[simp] theorem Wave.addPend_hmode (w : Wave) (rs : List RegRef) (i : Nat) : (w.addPend rs i).hmode = w.hmode := rfl
@[simp] theorem Wave.addPend_shadow (w : Wave) (rs : List RegRef) (i : Nat) : (w.addPend rs i).shadow = w.shadow := rfl
@[simp] theorem Wave.addPend_shadowK (w : Wave) (rs : List RegRef) (i : Nat) : (w.addPend rs i).shadowK = w.shadowK := rfl
@[simp] theorem Wave.addPend_savedActive (w : Wave) (rs : List RegRef) (i : Nat) : (w.addPend rs i).savedActive = w.savedActive :=
  rfl
@[simp] theorem Wave.addPend_entryMS (w : Wave) (rs : List RegRef) (i : Nat) : (w.addPend rs i).entryMS = w.entryMS := rfl
@[simp] theorem Wave.addPend_entryCS (w : Wave) (rs : List RegRef) (i : Nat) : (w.addPend rs i).entryCS = w.entryCS := rfl
@[simp] theorem Wave.addPend_pending (w : Wave) (rs : List RegRef) (i : Nat) : (w.addPend rs i).pending = w.pending := rfl
@[simp] theorem Wave.addPend_ext (w : Wave) (rs : List RegRef) (i : Nat) : (w.addPend rs i).ext = w.ext := rfl
@[simp] theorem Wave.addPend_seqs (w : Wave) (rs : List RegRef) (i : Nat) : (w.addPend rs i).seqs = w.seqs := rfl
@[simp] theorem Wave.addPend_buf (w : Wave) (rs : List RegRef) (i : Nat) : (w.addPend rs i).buf = w.buf := rfl
@[simp] theorem Wave.addPend_nextId (w : Wave) (rs : List RegRef) (i : Nat) : (w.addPend rs i).nextId = w.nextId := rfl
@[simp] theorem Wave.addPend_pend (w : Wave) (rs : List RegRef) (i : Nat) : (w.addPend rs i).pend = w.pend ++ rs.map (fun r => (r, i)) :=
  rfl
@[simp] theorem Wave.addPend_mrdy (w : Wave) (rs : List RegRef) (i : Nat) : (w.addPend rs i).mrdy = w.mrdy := rfl
@[simp] theorem Wave.addPend_wrote (w : Wave) (rs : List RegRef) (i : Nat) : (w.addPend rs i).wrote = w.wrote := rfl
@[simp] theorem Wave.addPend_qcount (w : Wave) (rs : List RegRef) (i : Nat) : (w.addPend rs i).qcount = w.qcount := rfl
@[simp] theorem Wave.addPend_time (w : Wave) (rs : List RegRef) (i : Nat) : (w.addPend rs i).time = w.time := rfl
@[simp] theorem Wave.addPend_age (w : Wave) (rs : List RegRef) (i : Nat) : (w.addPend rs i).age = w.age := rfl
@[simp] theorem Wave.addPend_skidLeft (w : Wave) (rs : List RegRef) (i : Nat) : (w.addPend rs i).skidLeft = w.skidLeft := rfl
@[simp] theorem Wave.addPend_qended (w : Wave) (rs : List RegRef) (i : Nat) : (w.addPend rs i).qended = w.qended := rfl
@[simp] theorem Wave.addPend_heldBack (w : Wave) (rs : List RegRef) (i : Nat) : (w.addPend rs i).heldBack = w.heldBack := rfl
@[simp] theorem Wave.addPend_offer (w : Wave) (rs : List RegRef) (i : Nat) : (w.addPend rs i).offer = w.offer := rfl
@[simp] theorem Wave.addPend_savedOffer (w : Wave) (rs : List RegRef) (i : Nat) : (w.addPend rs i).savedOffer = w.savedOffer :=
  rfl
@[simp] theorem Wave.addPend_granted (w : Wave) (rs : List RegRef) (i : Nat) : (w.addPend rs i).granted = w.granted := rfl
@[simp] theorem Wave.addPend_passed (w : Wave) (rs : List RegRef) (i : Nat) : (w.addPend rs i).passed = w.passed := rfl
@[simp] theorem Wave.addPend_view (w : Wave) (rs : List RegRef) (i : Nat) : (w.addPend rs i).view = w.view := rfl

/-! ### Wave.clearPend -/

@[simp] theorem Wave.clearPend_kern (w : Wave) (i : Nat) : (w.clearPend i).kern = w.kern := rfl
@[simp] theorem Wave.clearPend_team (w : Wave) (i : Nat) : (w.clearPend i).team = w.team := rfl
@[simp] theorem Wave.clearPend_idx (w : Wave) (i : Nat) : (w.clearPend i).idx = w.idx := rfl
@[simp] theorem Wave.clearPend_f1 (w : Wave) (i : Nat) : (w.clearPend i).f1 = w.f1 := rfl
@[simp] theorem Wave.clearPend_st (w : Wave) (i : Nat) : (w.clearPend i).st = w.st := rfl
@[simp] theorem Wave.clearPend_pc (w : Wave) (i : Nat) : (w.clearPend i).pc = w.pc := rfl
@[simp] theorem Wave.clearPend_redo (w : Wave) (i : Nat) : (w.clearPend i).redo = w.redo := rfl
@[simp] theorem Wave.clearPend_hold (w : Wave) (i : Nat) : (w.clearPend i).hold = w.hold := rfl
@[simp] theorem Wave.clearPend_live (w : Wave) (i : Nat) : (w.clearPend i).live = w.live := rfl
@[simp] theorem Wave.clearPend_active (w : Wave) (i : Nat) : (w.clearPend i).active = w.active := rfl
@[simp] theorem Wave.clearPend_ms (w : Wave) (i : Nat) : (w.clearPend i).ms = w.ms := rfl
@[simp] theorem Wave.clearPend_cs (w : Wave) (i : Nat) : (w.clearPend i).cs = w.cs := rfl
@[simp] theorem Wave.clearPend_v (w : Wave) (i : Nat) : (w.clearPend i).v = w.v := rfl
@[simp] theorem Wave.clearPend_p (w : Wave) (i : Nat) : (w.clearPend i).p = w.p := rfl
@[simp] theorem Wave.clearPend_s (w : Wave) (i : Nat) : (w.clearPend i).s = w.s := rfl
@[simp] theorem Wave.clearPend_k (w : Wave) (i : Nat) : (w.clearPend i).k = w.k := rfl
@[simp] theorem Wave.clearPend_a (w : Wave) (i : Nat) : (w.clearPend i).a = w.a := rfl
@[simp] theorem Wave.clearPend_i (w : Wave) (i : Nat) : (w.clearPend i).i = w.i := rfl
@[simp] theorem Wave.clearPend_d (w : Wave) (i : Nat) : (w.clearPend i).d = w.d := rfl
@[simp] theorem Wave.clearPend_h (w : Wave) (i : Nat) : (w.clearPend i).h = w.h := rfl
@[simp] theorem Wave.clearPend_bank (w : Wave) (i : Nat) : (w.clearPend i).bank = w.bank := rfl
@[simp] theorem Wave.clearPend_step (w : Wave) (i : Nat) : (w.clearPend i).step = w.step := rfl
@[simp] theorem Wave.clearPend_exits (w : Wave) (i : Nat) : (w.clearPend i).exits = w.exits := rfl
@[simp] theorem Wave.clearPend_whole (w : Wave) (i : Nat) : (w.clearPend i).whole = w.whole := rfl
@[simp] theorem Wave.clearPend_draw (w : Wave) (i : Nat) : (w.clearPend i).draw = w.draw := rfl
@[simp] theorem Wave.clearPend_conv (w : Wave) (i : Nat) : (w.clearPend i).conv = w.conv := rfl
@[simp] theorem Wave.clearPend_wcause (w : Wave) (i : Nat) : (w.clearPend i).wcause = w.wcause := rfl
@[simp] theorem Wave.clearPend_trappc (w : Wave) (i : Nat) : (w.clearPend i).trappc = w.trappc := rfl
@[simp] theorem Wave.clearPend_resume (w : Wave) (i : Nat) : (w.clearPend i).resume = w.resume := rfl
@[simp] theorem Wave.clearPend_skid (w : Wave) (i : Nat) : (w.clearPend i).skid = w.skid := rfl
@[simp] theorem Wave.clearPend_traparg (w : Wave) (i : Nat) : (w.clearPend i).traparg = w.traparg := rfl
@[simp] theorem Wave.clearPend_hmode (w : Wave) (i : Nat) : (w.clearPend i).hmode = w.hmode := rfl
@[simp] theorem Wave.clearPend_shadow (w : Wave) (i : Nat) : (w.clearPend i).shadow = w.shadow := rfl
@[simp] theorem Wave.clearPend_shadowK (w : Wave) (i : Nat) : (w.clearPend i).shadowK = w.shadowK := rfl
@[simp] theorem Wave.clearPend_savedActive (w : Wave) (i : Nat) : (w.clearPend i).savedActive = w.savedActive := rfl
@[simp] theorem Wave.clearPend_entryMS (w : Wave) (i : Nat) : (w.clearPend i).entryMS = w.entryMS := rfl
@[simp] theorem Wave.clearPend_entryCS (w : Wave) (i : Nat) : (w.clearPend i).entryCS = w.entryCS := rfl
@[simp] theorem Wave.clearPend_pending (w : Wave) (i : Nat) : (w.clearPend i).pending = w.pending := rfl
@[simp] theorem Wave.clearPend_ext (w : Wave) (i : Nat) : (w.clearPend i).ext = w.ext := rfl
@[simp] theorem Wave.clearPend_seqs (w : Wave) (i : Nat) : (w.clearPend i).seqs = w.seqs := rfl
@[simp] theorem Wave.clearPend_buf (w : Wave) (i : Nat) : (w.clearPend i).buf = w.buf := rfl
@[simp] theorem Wave.clearPend_nextId (w : Wave) (i : Nat) : (w.clearPend i).nextId = w.nextId := rfl
@[simp] theorem Wave.clearPend_pend (w : Wave) (i : Nat) : (w.clearPend i).pend = w.pend.filter (fun p => p.2 != i) := rfl
@[simp] theorem Wave.clearPend_mrdy (w : Wave) (i : Nat) : (w.clearPend i).mrdy = w.mrdy := rfl
@[simp] theorem Wave.clearPend_wrote (w : Wave) (i : Nat) : (w.clearPend i).wrote = w.wrote := rfl
@[simp] theorem Wave.clearPend_qcount (w : Wave) (i : Nat) : (w.clearPend i).qcount = w.qcount := rfl
@[simp] theorem Wave.clearPend_time (w : Wave) (i : Nat) : (w.clearPend i).time = w.time := rfl
@[simp] theorem Wave.clearPend_age (w : Wave) (i : Nat) : (w.clearPend i).age = w.age := rfl
@[simp] theorem Wave.clearPend_skidLeft (w : Wave) (i : Nat) : (w.clearPend i).skidLeft = w.skidLeft := rfl
@[simp] theorem Wave.clearPend_qended (w : Wave) (i : Nat) : (w.clearPend i).qended = w.qended := rfl
@[simp] theorem Wave.clearPend_heldBack (w : Wave) (i : Nat) : (w.clearPend i).heldBack = w.heldBack := rfl
@[simp] theorem Wave.clearPend_offer (w : Wave) (i : Nat) : (w.clearPend i).offer = w.offer := rfl
@[simp] theorem Wave.clearPend_savedOffer (w : Wave) (i : Nat) : (w.clearPend i).savedOffer = w.savedOffer := rfl
@[simp] theorem Wave.clearPend_granted (w : Wave) (i : Nat) : (w.clearPend i).granted = w.granted := rfl
@[simp] theorem Wave.clearPend_passed (w : Wave) (i : Nat) : (w.clearPend i).passed = w.passed := rfl
@[simp] theorem Wave.clearPend_view (w : Wave) (i : Nat) : (w.clearPend i).view = w.view := rfl

/-! ## Teams -/

/-! ### Team.write -/

@[simp] theorem Team.write_kern (t : Team) (a : Nat) (bs : List Byte) : (t.write a bs).kern = t.kern := rfl
@[simp] theorem Team.write_idx (t : Team) (a : Nat) (bs : List Byte) : (t.write a bs).idx = t.idx := rfl
@[simp] theorem Team.write_vf (t : Team) (a : Nat) (bs : List Byte) : (t.write a bs).vf = t.vf := rfl
@[simp] theorem Team.write_core (t : Team) (a : Nat) (bs : List Byte) : (t.write a bs).core = t.core := rfl
@[simp] theorem Team.write_st (t : Team) (a : Nat) (bs : List Byte) : (t.write a bs).st = t.st := rfl
@[simp] theorem Team.write_haltF (t : Team) (a : Nat) (bs : List Byte) : (t.write a bs).haltF = t.haltF := rfl
@[simp] theorem Team.write_haltD (t : Team) (a : Nat) (bs : List Byte) : (t.write a bs).haltD = t.haltD := rfl
@[simp] theorem Team.write_haltP (t : Team) (a : Nat) (bs : List Byte) : (t.write a bs).haltP = t.haltP := rfl
@[simp] theorem Team.write_win (t : Team) (a : Nat) (bs : List Byte) : (t.write a bs).win = writeBytes 0 t.win a bs := rfl
@[simp] theorem Team.write_bars (t : Team) (a : Nat) (bs : List Byte) : (t.write a bs).bars = t.bars := rfl
@[simp] theorem Team.write_cbufs (t : Team) (a : Nat) (bs : List Byte) : (t.write a bs).cbufs = t.cbufs := rfl
@[simp] theorem Team.write_free (t : Team) (a : Nat) (bs : List Byte) : (t.write a bs).free = t.free := rfl
@[simp] theorem Team.write_reqs (t : Team) (a : Nat) (bs : List Byte) : (t.write a bs).reqs = t.reqs := rfl
@[simp] theorem Team.write_passes (t : Team) (a : Nat) (bs : List Byte) : (t.write a bs).passes = t.passes := rfl
@[simp] theorem Team.write_stage (t : Team) (a : Nat) (bs : List Byte) : (t.write a bs).stage = t.stage := rfl
@[simp] theorem Team.write_round (t : Team) (a : Nat) (bs : List Byte) : (t.write a bs).round = t.round := rfl
@[simp] theorem Team.write_turn (t : Team) (a : Nat) (bs : List Byte) : (t.write a bs).turn = t.turn := rfl
@[simp] theorem Team.write_arrived (t : Team) (a : Nat) (bs : List Byte) : (t.write a bs).arrived = t.arrived := rfl
@[simp] theorem Team.write_freshB (t : Team) (a : Nat) (bs : List Byte) : (t.write a bs).freshB = t.freshB := rfl
@[simp] theorem Team.write_freshC (t : Team) (a : Nat) (bs : List Byte) : (t.write a bs).freshC = t.freshC := rfl
@[simp] theorem Team.write_veils (t : Team) (a : Nat) (bs : List Byte) : (t.write a bs).veils = t.veils := rfl
@[simp] theorem Team.write_copies (t : Team) (a : Nat) (bs : List Byte) : (t.write a bs).copies = t.copies := rfl
@[simp] theorem Team.write_filled (t : Team) (a : Nat) (bs : List Byte) : (t.write a bs).filled = t.filled := rfl
@[simp] theorem Team.write_stale (t : Team) (a : Nat) (bs : List Byte) : (t.write a bs).stale = t.stale := rfl
@[simp] theorem Team.write_frozen (t : Team) (a : Nat) (bs : List Byte) : (t.write a bs).frozen = t.frozen := rfl

/-! ### Team.setBar -/

@[simp] theorem Team.setBar_kern (t : Team) (b : Nat) (x : Barrier) : (t.setBar b x).kern = t.kern := rfl
@[simp] theorem Team.setBar_idx (t : Team) (b : Nat) (x : Barrier) : (t.setBar b x).idx = t.idx := rfl
@[simp] theorem Team.setBar_vf (t : Team) (b : Nat) (x : Barrier) : (t.setBar b x).vf = t.vf := rfl
@[simp] theorem Team.setBar_core (t : Team) (b : Nat) (x : Barrier) : (t.setBar b x).core = t.core := rfl
@[simp] theorem Team.setBar_st (t : Team) (b : Nat) (x : Barrier) : (t.setBar b x).st = t.st := rfl
@[simp] theorem Team.setBar_haltF (t : Team) (b : Nat) (x : Barrier) : (t.setBar b x).haltF = t.haltF := rfl
@[simp] theorem Team.setBar_haltD (t : Team) (b : Nat) (x : Barrier) : (t.setBar b x).haltD = t.haltD := rfl
@[simp] theorem Team.setBar_haltP (t : Team) (b : Nat) (x : Barrier) : (t.setBar b x).haltP = t.haltP := rfl
@[simp] theorem Team.setBar_win (t : Team) (b : Nat) (x : Barrier) : (t.setBar b x).win = t.win := rfl
@[simp] theorem Team.setBar_bars (t : Team) (b : Nat) (x : Barrier) : (t.setBar b x).bars = Tbl.put t.bars b x := rfl
@[simp] theorem Team.setBar_cbufs (t : Team) (b : Nat) (x : Barrier) : (t.setBar b x).cbufs = t.cbufs := rfl
@[simp] theorem Team.setBar_free (t : Team) (b : Nat) (x : Barrier) : (t.setBar b x).free = t.free := rfl
@[simp] theorem Team.setBar_reqs (t : Team) (b : Nat) (x : Barrier) : (t.setBar b x).reqs = t.reqs := rfl
@[simp] theorem Team.setBar_passes (t : Team) (b : Nat) (x : Barrier) : (t.setBar b x).passes = t.passes := rfl
@[simp] theorem Team.setBar_stage (t : Team) (b : Nat) (x : Barrier) : (t.setBar b x).stage = t.stage := rfl
@[simp] theorem Team.setBar_round (t : Team) (b : Nat) (x : Barrier) : (t.setBar b x).round = t.round := rfl
@[simp] theorem Team.setBar_turn (t : Team) (b : Nat) (x : Barrier) : (t.setBar b x).turn = t.turn := rfl
@[simp] theorem Team.setBar_arrived (t : Team) (b : Nat) (x : Barrier) : (t.setBar b x).arrived = t.arrived := rfl
@[simp] theorem Team.setBar_freshB (t : Team) (b : Nat) (x : Barrier) : (t.setBar b x).freshB = t.freshB := rfl
@[simp] theorem Team.setBar_freshC (t : Team) (b : Nat) (x : Barrier) : (t.setBar b x).freshC = t.freshC := rfl
@[simp] theorem Team.setBar_veils (t : Team) (b : Nat) (x : Barrier) : (t.setBar b x).veils = t.veils := rfl
@[simp] theorem Team.setBar_copies (t : Team) (b : Nat) (x : Barrier) : (t.setBar b x).copies = t.copies := rfl
@[simp] theorem Team.setBar_filled (t : Team) (b : Nat) (x : Barrier) : (t.setBar b x).filled = t.filled := rfl
@[simp] theorem Team.setBar_stale (t : Team) (b : Nat) (x : Barrier) : (t.setBar b x).stale = t.stale := rfl
@[simp] theorem Team.setBar_frozen (t : Team) (b : Nat) (x : Barrier) : (t.setBar b x).frozen = t.frozen := rfl

/-! ### Team.give -/

@[simp] theorem Team.give_kern (t : Team) (n : Nat) : (Team.give n t).kern = t.kern := rfl
@[simp] theorem Team.give_idx (t : Team) (n : Nat) : (Team.give n t).idx = t.idx := rfl
@[simp] theorem Team.give_vf (t : Team) (n : Nat) : (Team.give n t).vf = t.vf := rfl
@[simp] theorem Team.give_core (t : Team) (n : Nat) : (Team.give n t).core = t.core := rfl
@[simp] theorem Team.give_st (t : Team) (n : Nat) : (Team.give n t).st = t.st := rfl
@[simp] theorem Team.give_haltF (t : Team) (n : Nat) : (Team.give n t).haltF = t.haltF := rfl
@[simp] theorem Team.give_haltD (t : Team) (n : Nat) : (Team.give n t).haltD = t.haltD := rfl
@[simp] theorem Team.give_haltP (t : Team) (n : Nat) : (Team.give n t).haltP = t.haltP := rfl
@[simp] theorem Team.give_win (t : Team) (n : Nat) : (Team.give n t).win = t.win := rfl
@[simp] theorem Team.give_bars (t : Team) (n : Nat) : (Team.give n t).bars = t.bars := rfl
@[simp] theorem Team.give_cbufs (t : Team) (n : Nat) : (Team.give n t).cbufs = t.cbufs := rfl
@[simp] theorem Team.give_free (t : Team) (n : Nat) : (Team.give n t).free = t.free - 1 := rfl
@[simp] theorem Team.give_reqs (t : Team) (n : Nat) : (Team.give n t).reqs = t.reqs.filter (fun x => x != n) := rfl
@[simp] theorem Team.give_passes (t : Team) (n : Nat) : (Team.give n t).passes = t.passes := rfl
@[simp] theorem Team.give_stage (t : Team) (n : Nat) : (Team.give n t).stage = t.stage := rfl
@[simp] theorem Team.give_round (t : Team) (n : Nat) : (Team.give n t).round = t.round := rfl
@[simp] theorem Team.give_turn (t : Team) (n : Nat) : (Team.give n t).turn = t.turn := rfl
@[simp] theorem Team.give_arrived (t : Team) (n : Nat) : (Team.give n t).arrived = t.arrived := rfl
@[simp] theorem Team.give_freshB (t : Team) (n : Nat) : (Team.give n t).freshB = t.freshB := rfl
@[simp] theorem Team.give_freshC (t : Team) (n : Nat) : (Team.give n t).freshC = t.freshC := rfl
@[simp] theorem Team.give_veils (t : Team) (n : Nat) : (Team.give n t).veils = t.veils := rfl
@[simp] theorem Team.give_copies (t : Team) (n : Nat) : (Team.give n t).copies = t.copies := rfl
@[simp] theorem Team.give_filled (t : Team) (n : Nat) : (Team.give n t).filled = t.filled := rfl
@[simp] theorem Team.give_stale (t : Team) (n : Nat) : (Team.give n t).stale = t.stale := rfl
@[simp] theorem Team.give_frozen (t : Team) (n : Nat) : (Team.give n t).frozen = t.frozen := rfl

end Sys2Proof.Machine
end

