-- ==== Sys2Proof/Laws/Registers.lean ====
section
/-! SUPPORT. What the writes of register files do, each said once: the value at the registers written, every other register
as before, and no other field of the wave changed. -/
namespace Sys2Proof.Machine

@[simp] theorem getLsbD_of_mem_cellsOf (m : Mask) (f : Nat) : f ∈ cellsOf m ↔ m.getLsbD f = true := by
  simp only [cellsOf, List.mem_filter, List.mem_range]
  constructor
  · exact fun h => h.2
  · intro h
    exact ⟨by have := BitVec.lt_of_getLsbD h; omega, h⟩

@[simp] theorem Wave.getV_setV (w : Wave) (f n : Nat) (x : Word) (j r : Nat) :
    (w.setV f n x).getV j r = if 64 * j + r = 64 * f + n then x else w.getV j r := by
  simp [Wave.getV, Wave.setV]

/-- What setVs writes. -/
theorem Wave.setVs_eq (w : Wave) (d : Nat) (hd : d < 64) (g : Nat → Word) (fs : List Nat) :
    ∃ vs, w.setVs d g fs = { w with v := vs } ∧
      ∀ f r, r < 64 → NMap.get 0 vs (64 * f + r) = if f ∈ fs ∧ r = d then g f else w.getV f r := by
  induction fs generalizing w with
  | nil => exact ⟨w.v, rfl, fun f r _ => by simp [Wave.getV]⟩
  | cons a fs ih =>
    obtain ⟨vs, h1, h2⟩ := ih (w.setV a d (g a))
    refine ⟨vs, h1, fun f r hr => ?_⟩
    rw [h2 f r hr, Wave.getV_setV]
    by_cases hf : f = a
    · subst hf
      by_cases hrd : r = d
      · simp [hrd]
      · have : ¬ (64 * f + r = 64 * f + d) := by omega
        simp [hrd]
    · have : ¬ (64 * f + r = 64 * a + d) := by omega
      simp [hf, this]

theorem Wave.setVs_active (w x : Wave) (d : VReg) (g : Nat → Word) (hx : x.v = w.v) :
    ∃ vs, x.setVs d.toNat g (cellsOf w.active) = { x with v := vs } ∧ WritesV w vs d.toNat g := by
  obtain ⟨vs, h1, h2⟩ := x.setVs_eq d.toNat d.isLt g (cellsOf w.active)
  refine ⟨vs, h1, fun f r hr => ?_⟩
  rw [h2 f r hr]
  simp [Wave.getV, hx]

theorem Wave.setV64s_eq (w : Wave) (d : Nat) (hd : d + 1 < 64) (g : Nat → BitVec 64) (fs : List Nat) :
    ∃ vs, w.setV64s d g fs = { w with v := vs } ∧
      ∀ f r, r < 64 → NMap.get 0 vs (64 * f + r) =
        if f ∈ fs ∧ r = d then (g f).extractLsb' 0 32
        else if f ∈ fs ∧ r = d + 1 then (g f).extractLsb' 32 32 else w.getV f r := by
  induction fs generalizing w with
  | nil => exact ⟨w.v, rfl, fun f r _ => by simp [Wave.getV]⟩
  | cons a fs ih =>
    obtain ⟨vs, h1, h2⟩ := ih (w.setV64 a d (g a))
    refine ⟨vs, h1, fun f r hr => ?_⟩
    rw [h2 f r hr]
    simp only [Wave.setV64, Wave.getV_setV]
    by_cases hf : f = a
    · subst hf
      by_cases h3 : r = d
      · subst h3
        simp
      · by_cases h4 : r = d + 1
        · subst h4
          simp
        · simp [h3, h4]
    · have h5 : ¬ (64 * f + r = 64 * a + d) := by omega
      have h6 : ¬ (64 * f + r = 64 * a + (d + 1)) := by omega
      simp [hf, h5, h6]

theorem Wave.setV64s_active (w x : Wave) (d : VReg) (hd : d.toNat % 2 = 0) (g : Nat → BitVec 64) (hx : x.v = w.v) :
    ∃ vs, x.setV64s d.toNat g (cellsOf w.active) = { x with v := vs } ∧ WritesV64 w vs d.toNat g := by
  obtain ⟨vs, h1, h2⟩ := x.setV64s_eq d.toNat (by have := d.isLt; omega) g (cellsOf w.active)
  refine ⟨vs, h1, fun f r hr => ?_⟩
  rw [h2 f r hr]
  simp [Wave.getV, hx]

/-- What setPs writes. -/
theorem Wave.setPs_eq (w : Wave) (d : Nat) (hd : d < 8) (g : Nat → Bool) (fs : List Nat) :
    ∃ ps, w.setPs d g fs = { w with p := ps } ∧
      ∀ f r, r < 8 → NMap.get false ps (8 * f + r) = if f ∈ fs ∧ r = d ∧ d ≠ 7 then g f else NMap.get false w.p (8 * f + r) := by
  induction fs generalizing w with
  | nil => exact ⟨w.p, rfl, fun f r _ => by simp⟩
  | cons a fs ih =>
    obtain ⟨ps, h1, h2⟩ := ih (w.setP a d (g a))
    refine ⟨ps, ?_, fun f r hr => ?_⟩
    · refine h1.trans ?_
      simp only [Wave.setP]
      split <;> rfl
    · rw [h2 f r hr]
      simp only [Wave.setP]
      by_cases h7 : d = 7
      · simp [h7]
      · simp only [h7, ↓reduceIte, NMap.get_set]
        by_cases hf : f = a
        · subst hf
          by_cases hrd : r = d
          · simp [hrd, h7]
          · have : ¬ (8 * f + r = 8 * f + d) := by omega
            simp [hrd]
        · have : ¬ (8 * f + r = 8 * a + d) := by omega
          simp [hf, this]

theorem Wave.setPs_active (w x : Wave) (d : PReg) (g : Nat → Bool) (hx : x.p = w.p) :
    ∃ ps, x.setPs d.toNat g (cellsOf w.active) = { x with p := ps } ∧ WritesP w ps d.toNat g := by
  obtain ⟨ps, h1, h2⟩ := x.setPs_eq d.toNat d.isLt g (cellsOf w.active)
  refine ⟨ps, h1, fun f r hr => ?_⟩
  rw [h2 f r hr]
  simp [hx]

end Sys2Proof.Machine
end

