-- ==== Sys2Proof/Laws/Issue.lean ====
section
/-! SUPPORT. What the issue of one word can do, said once: a word that passes every check takes its effect on the wave past
the chain; a word turned away changes nothing of its own. -/
namespace Sys2Proof.Machine

theorem curWave_of_alone {s : State} {n : Nat} {w : Wave} (h : Alone s n w) : s.curWave = some (n, w) := by
  simp [State.curWave, h.cur, h.wave]

theorem Wave.prior_of_own {w : Wave} (h : w.hold.bind (·.src) = none) : w.prior = w := by
  simp [Wave.prior, h]

theorem holdsUp_false {w : Wave} {i : Instr} (h : Complete w i) :
    (w.hold.isNone && w.holdsUp (i.srcs ++ i.dsts)) = false := by
  rcases h with h | h
  · cases hh : w.hold <;> simp_all
  · have : w.holdsUp (i.srcs ++ i.dsts) = false := by
      simp only [Wave.holdsUp, List.any_eq_false]
      intro r hr
      simp only [List.any_eq_true, not_exists, beq_iff_eq]
      intro p hp
      exact h r hr p hp.1 hp.2
    simp [this]

theorem needsExt_false {w : Wave} {i : Instr} (h : HasSet w i) : (!w.ext && needsExt (i.srcs ++ i.dsts)) = false := by
  rcases h with h | h
  · simp [h]
  · have : needsExt (i.srcs ++ i.dsts) = false := by
      simp only [needsExt, List.any_eq_false]
      intro r hr
      cases r <;> simp
      rename_i n
      exact h _ hr n rfl
    simp [this]

theorem nbrStand_reached {s : State} {w : Wave} {ax : Nat} {plus : Bool} (fs : List Nat)
    (h : ∀ f ∈ fs, ∀ x, (s.hdr w.kern).neighbour (w.wid (s.hdr w.kern) f) ax plus = .cell x →
      x / (s.hdr w.kern).cells ≠ w.idx → s.stand w (x / (s.hdr w.kern).cells) = .reached) :
    s.nbrStand w ax plus fs = .reached := by
  induction fs with
  | nil => rfl
  | cons f fs ih =>
    have h1 := ih (fun g hg => h g (List.mem_cons_of_mem f hg))
    have h2 := h f (List.mem_cons_self)
    simp only [State.nbrStand, h1]
    cases hn : (s.hdr w.kern).neighbour (w.wid (s.hdr w.kern) f) ax plus with
    | cell x =>
      simp only
      by_cases hx : x / (s.hdr w.kern).cells = w.idx
      · simp [hx, Stand.both]
      · simp [hx, h2 x hn hx, Stand.both]
    | zero => rfl
    | clamp => rfl

theorem nbrGate_ok {s : State} {w : Wave} {b : BOp} {wide : Bool} (h : NbrReady s w b wide) : nbrGate s w b wide = .ok := by
  cases b with
  | nbr ax plus r =>
    obtain ⟨h1, h2, h3, h4⟩ := h
    have h5 : (!wide || (s.hdr w.kern).isPub (r.toNat + 1)) = true := by
      cases wide <;> simp_all
    have h6 := nbrStand_reached (cellsOf w.active) (fun f hf x => h4 f ((getLsbD_of_mem_cellsOf _ _).1 hf) x)
    simp [nbrGate, h1, h2, h5, h6, Stand.gate]
  | _ => rfl

/-- The checks that all words share pass, so the word's own checks decide. -/
theorem gate_of_issues {s : State} {n : Nat} {w : Wave} {i : Instr} (h : Issues s n w i) (own : Gate) :
    gate i w s own = own := by
  unfold gate
  rw [holdsUp_false h.complete, needsExt_false h.hasSet]
  simp only [Bool.false_eq_true, ↓reduceIte]
  split
  · rfl
  · rename_i b wide hb
    rw [nbrGate_ok (h.nbr b wide hb)]

/-- A word that passes every check takes its effect. -/
theorem issue_completes {i : Instr} {s : State} {n : Nat} {w : Wave} {own : Nat → Wave → State → Gate}
    {eff : Nat → Wave → State → State} (h : Issues s n w i) (ho : own n w s = .ok) :
    issue i s own eff = .next (eff n w (s.pass n)) := by
  unfold issue
  simp [curWave_of_alone h.alone, h.alone.direct, Wave.prior_of_own h.alone.own, gate_of_issues h, ho]

/-- A word whose own check turns it away. -/
theorem issue_turned_away {i : Instr} {s : State} {n : Nat} {w : Wave} {own : Nat → Wave → State → Gate}
    {eff : Nat → Wave → State → State} {g : Gate} (h : Issues s n w i) (ho : own n w s = g) (hg : g ≠ .ok) :
    issue i s own eff = .next (turnAway n g s) := by
  unfold issue
  simp only [curWave_of_alone h.alone, h.alone.direct, Wave.prior_of_own h.alone.own, gate_of_issues h, ho]

/-- The issuing wave after a change that follows the chain. -/
theorem pass_modWave {s : State} {n : Nat} {w : Wave} (h : s.wave n = some w) (g : Wave → Wave) :
    (s.pass n).modWave n g = s.issued n (g (w.onward s)) := by
  simp only [State.pass, State.modWave, State.issued, Wave.onward]
  rw [Tbl.modify_modify, Tbl.modify_const _ _ _ _ h]

theorem pass_eq {s : State} {n : Nat} {w : Wave} (h : s.wave n = some w) : s.pass n = s.issued n (w.onward s) := by
  have := pass_modWave h id
  simpa [State.modWave, State.pass, State.issued, Wave.onward, Tbl.modify_modify] using this

/-- A per-cell word: Vd of the active cells, and nothing else. -/
theorem perCell_completes {i : Instr} {s : State} {n : Nat} {w : Wave} (d : VReg) (g : State → Wave → Nat → Word)
    (h : Issues s n w i) :
    ∃ vs, perCell i s d g = .next (s.issued n { w.onward s with v := vs }) ∧ WritesV w vs d.toNat (g s w) := by
  obtain ⟨vs, h1, h2⟩ := Wave.setVs_active w (w.onward s) d (g s w) rfl
  exact ⟨vs, by simp [perCell, issue_completes h (own := free) rfl, pass_modWave h.alone.wave, h1], h2⟩

theorem perCell64_completes {i : Instr} {s : State} {n : Nat} {w : Wave} (d : VReg) (hd : d.toNat % 2 = 0)
    (g : State → Wave → Nat → BitVec 64) (h : Issues s n w i) :
    ∃ vs, perCell64 i s d g = .next (s.issued n { w.onward s with v := vs }) ∧ WritesV64 w vs d.toNat (g s w) := by
  obtain ⟨vs, h1, h2⟩ := Wave.setV64s_active w (w.onward s) d hd (g s w) rfl
  exact ⟨vs, by simp [perCell64, issue_completes h (own := free) rfl, pass_modWave h.alone.wave, h1], h2⟩

theorem perCellP_completes {i : Instr} {s : State} {n : Nat} {w : Wave} (d : PReg) (g : State → Wave → Nat → Bool)
    (h : Issues s n w i) :
    ∃ ps, perCellP i s d g = .next (s.issued n { w.onward s with p := ps }) ∧ WritesP w ps d.toNat (g s w) := by
  obtain ⟨ps, h1, h2⟩ := Wave.setPs_active w (w.onward s) d (g s w) rfl
  exact ⟨ps, by simp [perCellP, issue_completes h (own := free) rfl, pass_modWave h.alone.wave, h1], h2⟩

theorem uniform_completes {i : Instr} {s : State} {n : Nat} {w : Wave} (g : Wave → Wave → Wave) (h : Issues s n w i) :
    uniform i s g = .next (s.issued n (g w (w.onward s))) := by
  simp [uniform, issue_completes h (own := free) rfl, pass_modWave h.alone.wave]

/-- The issue of a word changes no byte of memory by itself. -/
theorem issued_sameMemory (s : State) (n : Nat) (w : Wave) : SameMemory s (s.issued n w) := by
  refine ⟨fun _ => rfl, fun _ _ => rfl⟩

end Sys2Proof.Machine
end

