-- ==== Sys2Proof/Laws/Memory.lean ====
section
/-! SUPPORT. What the memory operations do: a read after a write gives the bytes written, a write leaves every other byte
alone, and every operation that writes HBM keeps its canonical form. -/
namespace Sys2Proof.Machine

/-! ## Strings of bytes -/

theorem get_writeBytes (d : Byte) (m : NMap Byte) (a : Nat) (bs : List Byte) (j : Nat) :
    NMap.get d (writeBytes d m a bs) j =
      if a ≤ j ∧ j < a + bs.length then bs.getD (j - a) d else NMap.get d m j := by
  induction bs generalizing m a with
  | nil =>
    have : ¬(a ≤ j ∧ j < a) := by omega
    simp [writeBytes, this]
  | cons b bs ih =>
    simp only [writeBytes, ih, NMap.get_set, List.length_cons]
    by_cases h : j = a
    · subst h
      have h1 : ¬(j + 1 ≤ j ∧ j < j + 1 + bs.length) := by omega
      have h2 : j ≤ j ∧ j < j + (bs.length + 1) := by omega
      rw [if_neg h1, if_pos rfl, if_pos h2]
      simp
    · by_cases h' : a + 1 ≤ j ∧ j < a + 1 + bs.length
      · have h2 : a ≤ j ∧ j < a + (bs.length + 1) := by omega
        rw [if_pos h', if_pos h2]
        obtain ⟨k, hk⟩ : ∃ k, j - a = k + 1 := ⟨j - a - 1, by omega⟩
        have hk' : j - (a + 1) = k := by omega
        simp [hk, hk']
      · have h2 : ¬(a ≤ j ∧ j < a + (bs.length + 1)) := by omega
        rw [if_neg h', if_neg h2, if_neg h]

/-- A read of the bytes just written. -/
theorem readBytes_writeBytes (d : Byte) (m : NMap Byte) (a : Nat) (bs : List Byte) :
    readBytes d (writeBytes d m a bs) a bs.length = bs := by
  apply List.ext_getElem
  · simp [readBytes]
  · intro i h1 h2
    have h : a ≤ a + i ∧ a + i < a + bs.length := by omega
    simp [readBytes, get_writeBytes, h2]

/-- A write leaves every byte outside it. -/
theorem get_writeBytes_of_outside {d : Byte} {m : NMap Byte} {a : Nat} {bs : List Byte} {j : Nat}
    (h : j < a ∨ a + bs.length ≤ j) : NMap.get d (writeBytes d m a bs) j = NMap.get d m j := by
  rw [get_writeBytes, if_neg (by omega)]

theorem wf_writeBytes (d : Byte) (m : NMap Byte) (a : Nat) (bs : List Byte) (h : NMap.wf d m = true) :
    NMap.wf d (writeBytes d m a bs) = true := by
  induction bs generalizing m a with
  | nil => exact h
  | cons b bs ih => exact ih _ _ (NMap.wf_set d m a b h)

theorem above_filter {α : Type} (f : Nat × α → Bool) (m : NMap α) (b : Nat) (h : NMap.above b m = true) :
    NMap.above b (m.filter f) = true := by
  induction m with
  | nil => rfl
  | cons p m ih =>
    obtain ⟨a, y⟩ := p
    simp only [NMap.above, Bool.and_eq_true] at h
    simp only [List.filter_cons]
    split
    · simp [NMap.above, h.1, ih h.2]
    · exact ih h.2

theorem wf_filter {α : Type} [DecidableEq α] (d : α) (f : Nat × α → Bool) (m : NMap α) (h : NMap.wf d m = true) :
    NMap.wf d (m.filter f) = true := by
  induction m with
  | nil => rfl
  | cons p m ih =>
    obtain ⟨a, y⟩ := p
    simp only [NMap.wf, Bool.and_eq_true] at h
    simp only [List.filter_cons]
    split
    · simp [NMap.wf, h.1.1, above_filter f m a h.1.2, ih h.2]
    · exact ih h.2

theorem wf_foldl_set {α : Type} (g : α → Nat) (v : α → Byte) (xs : List α) (m : NMap Byte) (h : Memory.wf m = true) :
    Memory.wf (xs.foldl (fun m x => NMap.set memDefault m (g x) (v x)) m) = true := by
  induction xs generalizing m with
  | nil => exact h
  | cons x xs ih => exact ih _ (NMap.wf_set memDefault m (g x) (v x) h)

/-! ## HBM -/

theorem wf_reset : Memory.wf State.reset.mem = true := rfl

theorem hbm_setHbm (s : State) (a : Nat) (bs : List Byte) : (s.setHbm a bs).hbm a bs.length = bs :=
  readBytes_writeBytes memDefault s.mem a bs

theorem setHbm_outside {s : State} {a : Nat} {bs : List Byte} {j : Nat} (h : j < a ∨ a + bs.length ≤ j) :
    NMap.get memDefault (s.setHbm a bs).mem j = NMap.get memDefault s.mem j := get_writeBytes_of_outside h

theorem wf_setHbm {s : State} (h : Memory.wf s.mem = true) (a : Nat) (bs : List Byte) :
    Memory.wf (s.setHbm a bs).mem = true := wf_writeBytes memDefault s.mem a bs h

@[simp] theorem setHbm_ctx (s : State) (a : Nat) (bs : List Byte) (vf : Nat) : (s.setHbm a bs).ctx vf = s.ctx vf := rfl

/-- A write through the page tables changes HBM alone. -/
theorem vwrite_eq (s : State) (vf va : Nat) (bs : List Byte) :
    s.vwrite vf va bs = { s with mem := (s.vwrite vf va bs).mem } := by
  induction bs generalizing s va with
  | nil => rfl
  | cons b bs ih =>
    simp only [State.vwrite]
    split
    · exact ih s (va + 1)
    · exact ih (s.setHbm _ [b]) (va + 1)

theorem wf_vwrite {s : State} (h : Memory.wf s.mem = true) (vf va : Nat) (bs : List Byte) :
    Memory.wf (s.vwrite vf va bs).mem = true := by
  induction bs generalizing s va with
  | nil => exact h
  | cons b bs ih =>
    simp only [State.vwrite]
    split
    · exact ih h (va + 1)
    · exact ih (wf_setHbm h _ [b]) (va + 1)

/-- A write through the page tables leaves every byte at which none of its addresses stands. -/
theorem vwrite_outside {s : State} {vf va : Nat} {bs : List Byte} {j : Nat}
    (h : ∀ i, i < bs.length → (s.ctx vf).bind (fun c => c.phys (va + i)) ≠ some j) :
    NMap.get memDefault (s.vwrite vf va bs).mem j = NMap.get memDefault s.mem j := by
  induction bs generalizing s va with
  | nil => rfl
  | cons b bs ih =>
    have h0 := h 0 (by simp)
    have hs : ∀ i, i < bs.length → (s.ctx vf).bind (fun c => c.phys (va + 1 + i)) ≠ some j := by
      intro i hi
      have := h (i + 1) (by simp; omega)
      rwa [show va + (i + 1) = va + 1 + i by omega] at this
    simp only [State.vwrite]
    split
    · exact ih hs
    · rename_i pa hpa
      rw [ih (by simpa using hs)]
      apply setHbm_outside
      have : pa ≠ j := by
        intro e
        simp [← e, hpa] at h0
      simp only [List.length_cons, List.length_nil]
      omega

theorem wf_foldl {α : Type} (f : State → α → State) (xs : List α) {s : State} (h : Memory.wf s.mem = true)
    (hf : ∀ s x, Memory.wf s.mem = true → Memory.wf (f s x).mem = true) : Memory.wf (xs.foldl f s).mem = true := by
  induction xs generalizing s with
  | nil => exact h
  | cons x xs ih => exact ih (hf s x h)

theorem wf_freeVas {s : State} (h : Memory.wf s.mem = true) (vf : Nat) (vas : List Nat) :
    Memory.wf (s.freeVas vf vas).mem = true :=
  wf_foldl _ _ h (fun s x hs => by
    dsimp only
    split
    · exact hs
    · exact wf_vwrite hs vf x _)

theorem wf_tamper {s : State} (h : Memory.wf s.mem = true) (own : Option Nat) (pas : List Nat) :
    Memory.wf (s.tamper own pas).mem = true :=
  wf_foldl _ _ h (fun s x hs => by
    dsimp only
    split
    · exact hs
    · exact wf_freeVas hs _ _)

theorem wf_userWrite {s : State} (h : Memory.wf s.mem = true) (vf va : Nat) (bs : List Byte) :
    Memory.wf (s.userWrite vf va bs).mem = true := wf_tamper (wf_vwrite h vf va bs) _ _

theorem wf_unitWrite {s : State} (h : Memory.wf s.mem = true) (key va : Nat) (bs : List Byte) :
    Memory.wf (s.unitWrite key va bs).mem = true := by
  unfold State.unitWrite
  split
  · exact h
  · dsimp only
    apply wf_tamper
    exact wf_vwrite h _ _ _

theorem wf_hwWrite {s : State} (h : Memory.wf s.mem = true) (vf va : Nat) (bs : List Byte) :
    Memory.wf (s.hwWrite vf va bs).mem = true := by
  unfold State.hwWrite
  split
  · exact h
  · exact wf_userWrite h vf va bs

theorem wf_targetWrite {s : State} (h : Memory.wf s.mem = true) (p : Packet) (vf va : Nat) (bs : List Byte) :
    Memory.wf (targetWrite p vf va bs s).mem = true := by
  unfold targetWrite
  split
  · exact wf_unitWrite h _ _ _
  · exact wf_userWrite h vf va bs

theorem wf_saveHeader {s : State} (h : Memory.wf s.mem = true) (key : Nat) (p : Plan) :
    Memory.wf (s.saveHeader key p).mem = true := by
  unfold State.saveHeader
  split
  · exact h
  · exact wf_unitWrite h _ _ _

theorem wf_report {s : State} (h : Memory.wf s.mem = true) (k reason outcome : Nat) :
    Memory.wf (s.report k reason outcome).mem = true := by
  unfold State.report
  split
  · exact h
  · split
    · exact h
    · exact wf_hwWrite h _ _ _

theorem wf_dropPlan {s : State} (h : Memory.wf s.mem = true) (key : Nat) (p : Plan) :
    Memory.wf (s.dropPlan key p).mem = true := wf_hwWrite h _ _ _

theorem wf_dropPlans {s : State} (h : Memory.wf s.mem = true) (f : Nat → Bool) :
    Memory.wf (s.dropPlans f).mem = true := wf_foldl _ _ h (fun _ x hs => wf_dropPlan hs x.1 x.2)

theorem wf_stopPlans {s : State} (h : Memory.wf s.mem = true) (k : Nat) : Memory.wf (s.stopPlans k).mem = true := by
  unfold State.stopPlans
  refine wf_foldl _ _ (wf_foldl _ _ h (fun _ x hs => wf_dropPlan hs x.1 x.2)) (fun s x hs => ?_)
  exact wf_saveHeader (s := { s with plans := Tbl.put s.plans x.1 { x.2 with st := 4 } }) hs _ _

/-- The use of the lines of a range touches no byte. -/
theorem useRange_mem (s : State) (v : Nat) (d : Bool) (va n : Nat) : (s.useRange v d va n).mem = s.mem := by
  unfold State.useRange
  generalize s.linesAt v va n = ls
  induction ls generalizing s with
  | nil => rfl
  | cons l ls ih => exact (ih (s.useLine v d l)).trans (State.useLine_mem s v d l)

theorem wf_saveLines {s : State} (h : Memory.wf s.mem = true) (v : Nat) (x : OnChip) :
    Memory.wf (s.saveLines v x).mem = true := by
  simp only [State.saveLines]
  split
  · exact h
  · refine wf_foldl _ _ ?_ (fun _ y hs => wf_foldl _ _ (wf_setHbm hs y.1 y.2) (fun s i ht => ?_))
    · exact h
    · rw [State.useLine_mem]; exact ht

theorem wf_evictSave {s : State} (h : Memory.wf s.mem = true) (vf : Nat) (needs : List (OnChip × Nat)) :
    Memory.wf (s.evictSave vf needs).mem = true :=
  wf_foldl _ _ h (fun _ x hs => wf_foldl _ _ hs (fun _ v ht => wf_saveLines ht v x.1))

theorem wf_landBytes {s : State} (h : Memory.wf s.mem = true) (i k n : Nat) (p : Plan) (r : SwRun) (g : Move) :
    Memory.wf (landBytes i k n p r g s).mem = true := by
  simp only [landBytes, State.modOp]
  apply wf_unitWrite
  simp only
  rw [useRange_mem, useRange_mem]
  exact h

theorem wf_zeroFrame {s : State} (h : Memory.wf s.mem = true) (pfn : Nat) :
    Memory.wf (s.zeroFrame pfn).mem = true := wf_filter memDefault _ _ h

theorem wf_copyFrame {s : State} (h : Memory.wf s.mem = true) (a b : Nat) :
    Memory.wf (s.copyFrame a b).mem = true := by
  unfold State.copyFrame
  split
  · exact h
  · exact wf_foldl_set (fun x : Nat × Byte => 65536 * b + x.1 % 65536) (fun x => x.2) _ _ (wf_zeroFrame (wf_zeroFrame h a) b)

theorem wf_placeWord {s : State} (h : Memory.wf s.mem = true) (w : Nat) : Memory.wf (placeWord s w).mem = true := by
  unfold placeWord
  split
  · exact wf_setHbm h _ _
  · exact wf_writeBytes memDefault s.mem 0 _ h

theorem wf_withFetchWord {s : State} (h : Memory.wf s.mem = true) (nbits w : Nat) :
    Memory.wf (s.withFetchWord nbits w).mem = true := wf_placeWord h _

/-! ## The windows of the scratchpads -/

theorem Team.read_write (t : Team) (a : Nat) (bs : List Byte) : (t.write a bs).read a bs.length = bs :=
  readBytes_writeBytes 0 t.win a bs

theorem Team.write_outside {t : Team} {a : Nat} {bs : List Byte} {j : Nat} (h : j < a ∨ a + bs.length ≤ j) :
    NMap.get 0 (t.write a bs).win j = NMap.get 0 t.win j := get_writeBytes_of_outside h

theorem Team.wf_write {t : Team} (h : NMap.wf 0 t.win = true) (a : Nat) (bs : List Byte) :
    NMap.wf 0 (t.write a bs).win = true := wf_writeBytes 0 t.win a bs h

/-! ## Bytes and numbers -/

@[simp] theorem length_bytesOf (n x : Nat) : (bytesOf n x).length = n := by simp [bytesOf]
@[simp] theorem length_readBytes (d : Byte) (m : NMap Byte) (a n : Nat) : (readBytes d m a n).length = n := by
  simp [readBytes]

end Sys2Proof.Machine
end

