-- ==== Sys2Proof/Tests/Slice0.lean ====
section
/-! SUPPORT. Tests: ill-formed terms that WellFormed refuses, words of the specification and what they decode to, single steps
with results from the specification's own examples, and for every statement a state that meets its hypotheses. -/
namespace Sys2Proof.Tests
set_option Elab.async false
open Machine

/-! ## Well-formed words (spec/03_formats.md R67, R69) -/

/-- Every term of a list is ill-formed. -/
def refused (is : List Instr) : Bool := is.all (fun i => !i.wf)

/-- An odd register where a pair is named. -/
theorem test_wf_odd_pair : refused [.movl 1 (.v 2), .movl 2 (.v 1), .movl 2 (.s 3), .movl 2 (.nbr .x true 1), .movlUni 3 (.s 2),
  .movlUni 2 (.s 1), .dadd 1 0 (.v 2), .dmul 0 1 (.v 2), .dfma 0 2 (.v 3), .cvt .f32f64 .rn 0 (.v 1), .cvtExt .s32f64rz 0 (.v 1),
  .cvtExt .f64f32 1 (.v 0), .ld .b64 1 ⟨0, false, 0, 0, .wave⟩, .st .b64 3 ⟨0, false, 0, 0, .wave⟩,
  .atomBitwise .cas 1 ⟨0, false, 0, 0, .team⟩, .atomUni .cas 1 ⟨0, false, 0, 0, .team⟩] = true := by decide

/-- A run of registers that leaves its file. -/
theorem test_wf_run : refused [.iset 0 30, .npack .tx8 56 0, .npack .tx4 0 33, .nunpack .ob8 0 56, .nunpack .ob4 33 0, .bqry 30 0,
  .hpass 0 30, .cpy ⟨29, 0, 0, none⟩, .tcpy ⟨30, 0, 0, none⟩, .gath ⟨31, 0, 0, none⟩, .scat ⟨31, 0, 0, none⟩, .cbinit 0 30,
  .cpyq 29 0, .launch false 31, .qroom 31, .rst ⟨27, 0, 0, none⟩, .rld ⟨29, 0, 0, none⟩, .rred ⟨26, 0, 0, none⟩,
  .ratom ⟨29, 0, 0, none⟩, .rcpy ⟨26, 0, 0, none⟩, .rwait true 31 0, .rwait false 1 0, .swplan 29 0, .swgo ⟨29, 0, 0, none⟩,
  .swstat 29, .swresume ⟨29, 0, 0, none⟩, .mdrain .f32 0 28 false false] = true := by decide

/-- A scope, a selector, a size, an operand or a field that the entry does not accept. -/
theorem test_wf_field : refused [.widfUni 0 .f0, .ld .b32 0 ⟨0, false, 0, 0, .device⟩, .st .b32 0 ⟨0, false, 0, 0, .cluster⟩,
  .ldUni .b64 0 ⟨0, false, 0, 0, .wave⟩, .stUni 0 ⟨0, false, 0, 0, .system⟩, .atom .add 0 ⟨0, false, 0, 0, .cluster⟩,
  .atomFloat .fadd 0 ⟨0, false, 0, 0, .device⟩, .jmp (.imm 4), .mma .tx8 ⟨0, 0, 0, 7, true, 0, false⟩,
  .mma .tx8 ⟨0, 0, 0, 0, false, 1, true⟩, .mma .bf16 ⟨1, 0, 0, 0, false, 1, true⟩, .mma .f16 ⟨0, 0, 0, 0, false, 0, true⟩,
  .sysr 0 17 none, .sysr 0 1 none, .sysr 0 0 (some (.imm 0))] = true := by decide

/-! ## Words -/

/-- Every word of a list, with the word behind it, decodes to the chain bit and the instruction beside it. -/
def reads (l : List (Word × Option Word × Bool × Instr)) : Bool :=
  l.all (fun p => match decodeWord p.1 p.2.1 with
    | .ok r => decide (r = p.2.2)
    | .error _ => false)

/-- Words without a meaning: major 0x3F, an empty column, a register outside its class, an odd pair, a field that is not zero,
a reserved scope, and a literal with no slot behind it (R69, R77). -/
theorem test_words_refused : [(0x7E000000 : Word), 0x3BC00000, 0x02100000, 0x2C408002, 0x66200001, 0x40800005, 0x204106FF].all
  (fun x => match decodeWord x none with
    | .ok _ => false
    | .error _ => true) = true := by decide +kernel

/-- Words of the integer family as spec/ writes them out. -/
theorem test_words_integer : reads [
  (0xA0008100, none, true, .fadd 1 0 (.nbr .x false 0)), (0x10430C06, none, false, .pxor 6 6 6),
  (0x01420002, none, false, .iaddc 4 0 (.v 2)), (0x01428203, none, false, .iaddc 5 1 (.v 3)),
  (0x00010445, none, false, .iadd 2 2 (.s 5)), (0x02200081, none, false, .isubUni 0 0 (.imm 1)),
  (0x026182FF, some 0x2400, false, .imulUni 3 1 (.lit 0x2400)), (0x06A08282, none, false, .shlUni 1 1 (.imm 2)),
  (0x08408080, none, false, .icmp .lt 1 0 (.imm 0)), (0x08008680, none, false, .icmp .eq 1 3 (.imm 0)),
  (0x0A800080, none, false, .icmpUni .gt 0 0 (.imm 0)), (0x1C8182FF, some 0x804, false, .bfeUnsigned 3 1 (.lit 0x804)),
  (0x14408088, none, false, .widf 1 .x), (0x16408088, none, false, .widfUni 1 .x),
  (0x16808045, none, false, .aset 1 (.s 5)), (0x16A08044, none, false, .iset 1 4),
  (0x1803FFFF, none, false, .movi 1 0x1FFFF), (0x1A280005, none, false, .moviUni 20 5),
  (0x1403805D, none, false, .mov 7 (.s 29)), (0x16080048, none, false, .movUni 16 (.s 8)),
  (0x01200000, none, false, .ineg 0 (.v 0))] = true := by decide +kernel

/-- Words of the float family as spec/ writes them out. -/
theorem test_words_float : reads [
  (0x204106FF, some 0x3E800000, false, .fmul 2 3 (.lit 0x3E800000)), (0x20008202, none, false, .fadd 1 1 (.v 2)),
  (0xA0620202, none, true, .ffma 4 1 (.v 2)), (0x24408120, none, false, .fcmp .lt 1 0 (.nbr .x true 0)),
  (0x28218002, none, false, .frsq 3 (.v 2)), (0x2C420002, none, false, .dfma 4 0 (.v 2)),
  (0x30A30843, none, false, .hfma2 .bf16 6 4 (.s 3)), (0x34238000, none, false, .rand .f32 7),
  (0x38A40001, none, false, .cvt .bf16f32 .rz 8 (.v 1)), (0x39048002, none, false, .cvt .f32f64 .rn 9 (.v 2)),
  (0x3C100000, none, false, .npack .tx8 32 0), (0x3E010041, none, false, .cvtUni .s32f32rz 2 (.s 1))] = true := by decide +kernel

/-- Words of the memory family as spec/ writes them out. -/
theorem test_words_memory : reads [
  (0x40840800, none, false, .ld .b32 8 ⟨0, true, 0, 0, .wave⟩),
  (0x42419900, none, false, .st .b32 3 ⟨1, true, 1, 0, .wave⟩),
  (0x46064003, none, false, .ldt 12 ⟨4, false, 0, 0, false, 3⟩),
  (0x4606400B, none, false, .ldt 12 ⟨4, false, 0, 0, true, 3⟩),
  (0x5C022211, none, false, .atomFloat .fadd 4 ⟨2, false, 2, 1, .team⟩), (0x48030405, none, false, .accrd 6 2 (.v 5)),
  (0x50610281, none, false, .lshuf .xor 2 1 (.imm 1)), (0x50A51647, none, false, .xchg 10 11 (.s 7)),
  (0x52018E80, none, false, .bcastUni 3 7 (.imm 0))] = true := by decide +kernel

/-- Words of the control family as spec/ writes them out. -/
theorem test_words_control : reads [
  (0x60200003, none, false, .bra 1 3), (0x611FFFFA, none, false, .bra 8 0x1FFFFA),
  (0x63E000C0, none, false, .call 7 192), (0x65E00006, none, false, .split 6), (0x66000042, none, false, .jmp (.s 2)),
  (0x66200000, none, false, .ret), (0x66400000, none, false, .merge), (0x66600000, none, false, .yield),
  (0x66800000, none, false, .exit), (0x66A00000, none, false, .nop),
  (0x7C020481, none, false, .sysr 4 2 (some (.imm 1))), (0x7C400085, none, false, .trap (.imm 5)),
  (0x7C600000, none, false, .tret), (0x7C800049, none, false, .causec 0 (.s 9))] = true := by decide +kernel

/-- Words of the barrier handle group family as spec/ writes them out. -/
theorem test_words_barrier_handle_group : reads [
  (0x68020012, none, false, .binit 4 2), (0x68200032, none, false, .barr 1 2), (0x68400016, none, false, .bwait 6),
  (0x68600012, none, false, .bsync 0 2), (0x68840012, none, false, .bqry 8 2), (0x6A000001, none, false, .hfork 1 0),
  (0x6A210023, none, false, .hjoin 3 1 2), (0x6A440020, none, false, .hpass 1 8),
  (0x6A620002, none, false, .hrecv 2 4), (0x6A800060, none, false, .hwait 3), (0x6A800061, none, false, .hwaitRet 3),
  (0x6AA00001, none, false, .fence .team 0), (0x6AA0000C, none, false, .fenceAll .system),
  (0x6C000000, none, false, .step), (0x6C200000, none, false, .acq), (0x6C400000, none, false, .rel),
  (0x6C610000, none, false, .elect 2)] = true := by decide +kernel

/-- Words of the engine family as spec/ writes them out. -/
theorem test_words_engine : reads [
  (0x70041812, none, false, .cpy ⟨8, 12, 0, some 2⟩), (0x70041820, none, false, .cpy ⟨8, 12, 1, none⟩),
  (0x70241812, none, false, .tcpy ⟨8, 12, 0, some 2⟩), (0x70441817, none, false, .gath ⟨8, 12, 0, some 7⟩),
  (0x70641820, none, false, .scat ⟨8, 12, 1, none⟩), (0x70820001, none, false, .cbinit 1 4),
  (0x70AA0020, none, false, .cpyq 20 1), (0x70A00021, none, false, .cpyqRes 1),
  (0x70C20000, none, false, .launch false 4), (0x70C20001, none, false, .launch true 4),
  (0x70E20000, none, false, .qroom 4), (0x74020200, none, false, .cbtake 4 1), (0x74200200, none, false, .cbfree 1),
  (0x76048000, none, false, .resq 9 0), (0x76248000, none, false, .pagereq 9 0)] = true := by decide +kernel

/-- Words of the remote swage family as spec/ writes them out. -/
theorem test_words_remote_swage : reads [
  (0x72041820, none, false, .rst ⟨8, 12, 1, none⟩), (0x72241833, none, false, .rld ⟨8, 12, 1, some 3⟩),
  (0x72441800, none, false, .rred ⟨8, 12, 0, none⟩), (0x72641800, none, false, .ratom ⟨8, 12, 0, none⟩),
  (0x72883032, none, false, .rcpy ⟨16, 24, 1, some 2⟩), (0x72A00020, none, false, .rwait false 0 1),
  (0x72A20021, none, false, .rwait true 4 1), (0x72C41800, none, false, .swplan 8 12),
  (0x72E41832, none, false, .swgo ⟨8, 12, 1, some 2⟩), (0x73080000, none, false, .swstat 16),
  (0x73241832, none, false, .swresume ⟨8, 12, 1, some 2⟩), (0x73400020, none, false, .swabort 1)] = true := by decide +kernel

/-- Words of the matrix family as spec/ writes them out. -/
theorem test_words_matrix : reads [
  (0x78008000, none, false, .mzero 1), (0x78200000, none, false, .mrdy), (0x78418000, none, false, .mwait 3),
  (0x7A042000, none, false, .mma .tx8 ⟨1, 0, 2, 0, false, 0, false⟩),
  (0x7A04A940, none, false, .mma .tx8 ⟨1, 1, 2, 4, true, 2, false⟩),
  (0x7A813030, none, false, .mma .bf16 ⟨0, 2, 3, 0, false, 1, true⟩),
  (0x78601100, none, false, .mdrain .e4m3 0 8 false false), (0x78601101, none, false, .mdrain .e4m3 0 8 false true)] = true := by decide +kernel

/-! ## One step on a small state -/

/-- A wave of one cell with an extended set. -/
def w0 : Wave := { bareWave with ext := true }
/-- Its kernel, with a window of 16 KB. -/
def k0 : Kernel := { bareKernel with hdr := { window := 16384 } }
/-- A state in which the wave, alone in its team and kernel, is about to issue a word. -/
def st (w : Wave) : State :=
  { State.reset with
    hearth := { stage := .full }, ctxs := [(0, bareCtx)], kernels := [(0, k0)], teams := [(0, bareTeam)], waves := [(0, w)]
    serial := 1, cur := some 0, chain := { next := 4 } }
/-- The state after a step, or the state itself where it stops. -/
def ran (i : Instr) (s : State) : State := match exec i s with
  | .next t => t
  | _ => s
/-- The wave after a word. -/
def got (i : Instr) (w : Wave) : Wave := ((ran i (st w)).wave 0).getD { w0 with pc := 0xBAD }

/-- R144: the add wraps. -/
theorem test_iadd_wraps : (got (.iadd 1 2 (.s 5)) { w0 with v := [(2, 0xFFFFFFFF)], s := [(5, 3)] }).v =
  [(1, 2), (2, 0xFFFFFFFF)] := by decide +kernel
/-- spec/07_isa_integer.md, the worked sum of 0x0000_0001_FFFF_FFFF and 1, low words. -/
theorem test_iaddc_low : let w := got (.iaddc 4 0 (.v 2)) { w0 with v := [(0, 0xFFFFFFFF), (1, 1), (2, 1)] }
  (w.getV 0 4, w.getP 0 6) = (0, true) := by decide +kernel
/-- The same, high words. -/
theorem test_iaddc_high : let w := got (.iaddc 5 1 (.v 3)) { w0 with v := [(1, 1)], p := [(6, true)] }
  (w.getV 0 5, w.getP 0 6) = (2, false) := by decide +kernel
/-- spec/07_isa_integer.md: IMULHI of 0x8000_0000 by itself. -/
theorem test_imulhi : (got (.imulhi 0 1 (.v 1)) { w0 with v := [(1, 0x80000000)] }).getV 0 0 = 0x40000000 := by decide +kernel
/-- spec/07_isa_integer.md, the bit-field examples. -/
theorem test_bfe : let w : Wave := { w0 with v := [(1, 0xAB0), (2, 0xCD), (4, 0x12345678)] }
  ((got (.bfeUnsigned 3 1 (.lit 0x804)) w).getV 0 3, (got (.bfe 3 1 (.lit 0x804)) w).getV 0 3,
   (got (.bfi 4 2 (.lit 0x804)) w).getV 0 4) = (0xAB, 0xFFFFFFAB, 0x12345CD8) := by decide +kernel
/-- R146: a shift by 32 gives 0; ROT is by the count mod 32. -/
theorem test_shifts : let w : Wave := { w0 with v := [(1, 0x80000001)], s := [(0, 32), (1, 33)] }
  ((got (.shl 0 1 (.s 0)) w).getV 0 0, (got (.sar 0 1 (.s 0)) w).getV 0 0, (got (.rot 0 1 (.s 1)) w).getV 0 0) =
    (0, 0xFFFFFFFF, 3) := by decide +kernel
/-- R144: the signed sum saturates; INEG and IABS wrap. -/
theorem test_isat : let w : Wave := { w0 with v := [(1, 0x7FFFFFFF), (2, 0x80000000)] }
  ((got (.isat 0 1 (.imm 1)) w).getV 0 0, (got (.ineg 0 (.v 2)) w).getV 0 0, (got (.iabs 0 (.v 2)) w).getV 0 0) =
    (0x7FFFFFFF, 0x80000000, 0x80000000) := by decide +kernel
/-- R152, spec/07_isa_integer.md: MOVL of =0xFFFF_FFFF sign-extends. -/
theorem test_movl : let w := got (.movl 4 (.lit 0xFFFFFFFF)) w0
  (w.getV 0 4, w.getV 0 5) = (0xFFFFFFFF, 0xFFFFFFFF) := by decide +kernel
/-- R153: MOVI sign-extends its 17 bits. -/
theorem test_movi : ((got (.movi 1 0x1FFFF) w0).getV 0 1, (got (.moviUni 2 0xFFFF) w0).getS 2) = (0xFFFFFFFF, 0xFFFF) := by
  decide +kernel
/-- R148: signed and unsigned compares. -/
theorem test_icmp : let w : Wave := { w0 with v := [(0, 0xFFFFFFFF)] }
  ((got (.icmp .lt 1 0 (.imm 0)) w).getP 0 1, (got (.icmpUnsigned .ltu 1 0 (.imm 0)) w).getP 0 1) = (true, false) := by
  decide +kernel
/-- R149: P7 is never written. -/
theorem test_p7 : (got (.pnot 7 0) w0).p = [] := by decide +kernel
/-- R150, R151: VOTE and BALLOT over the active cells. -/
theorem test_vote_ballot : let w : Wave := { w0 with p := [(1, true)] }
  ((got (.vote .all 2 1) w).getK 2, (got (.ballot 3 0 1) w).getS 3, (got (.ballot 3 1 1) w).getS 3) = (true, 1, 0) := by
  decide +kernel
/-- R155: AADD adds to an address register. -/
theorem test_aadd : (got (.aadd 1 0 (.imm 8)) { w0 with a := [(0, 0x100)] }).getA 1 = 0x108 := by decide +kernel

/-- R164: FADD and FMUL of exact values, FMUL by the literal 0.25. -/
theorem test_fadd_fmul : let w : Wave := { w0 with v := [(1, 0x3F800000), (2, 0x41800000)] }
  ((got (.fadd 3 1 (.v 1)) w).getV 0 3, (got (.fmul 3 2 (.lit 0x3E800000)) w).getV 0 3) = (0x40000000, 0x40800000) := by
  decide +kernel
/-- spec/08_isa_float.md: FFMA rounds once, FMUL then FADD twice. -/
theorem test_ffma_once : (got (.ffma 4 1 (.v 2))
  { w0 with v := [(1, 0x3F800800), (2, 0x3F800800), (4, 0xBF801000)] }).getV 0 4 = 0x33800000 := by decide +kernel
/-- R165: the minimum of a number and NaN is the number; R88: a NaN result is the canonical one. -/
theorem test_fmin_nan : let w : Wave := { w0 with v := [(1, 0x7FC12345), (2, 0x3F800000)] }
  ((got (.fmin 0 1 (.v 2)) w).getV 0 0, (got (.fadd 0 1 (.v 2)) w).getV 0 0) = (0x3F800000, 0x7FC00000) := by decide +kernel
/-- R166: an unordered compare. -/
theorem test_fcmp : let w : Wave := { w0 with v := [(1, 0x7FC00000), (2, 0x3F800000)] }
  ((got (.fcmp .un 1 1 (.v 2)) w).getP 0 1, (got (.fcmp .lt 1 1 (.v 2)) w).getP 0 1, (got (.fcmp .le 1 2 (.v 2)) w).getP 0 1) =
    (true, false, true) := by decide +kernel
/-- R167: the square root is correctly rounded: of 4. -/
theorem test_fsqrt : (got (.fsqrt 0 (.v 1)) { w0 with v := [(1, 0x40800000)] }).getV 0 0 = 0x40000000 := by decide +kernel
/-- R169: 1 + 1 in FP64 pairs. -/
theorem test_dadd : (got (.dadd 2 0 (.v 0)) { w0 with v := [(1, 0x3FF00000)] }).getV 0 3 = 0x40000000 := by decide +kernel
/-- R170: packed FP16 adds. -/
theorem test_hadd2 : (got (.hadd2 .f16 0 1 (.v 1)) { w0 with v := [(1, 0x3C003C00)] }).getV 0 0 = 0x40004000 := by decide +kernel
/-- spec/08_isa_float.md: 0x3F80_8000 to BF16 in the four modes. -/
theorem test_cvt_bf16 : let w : Wave := { w0 with v := [(1, 0x3F808000)] }
  ([Rnd.rn, .rz, .rp, .rm].map (fun m => (got (.cvt .bf16f32 m 0 (.v 1)) w).getV 0 0)) = [0x3F80, 0x3F80, 0x3F81, 0x3F80] := by
  decide +kernel
/-- R171: a conversion to INT32 saturates. -/
theorem test_cvt_s32 : let w : Wave := { w0 with v := [(1, 0x7F800000), (2, 0xC0200000)] }
  ((got (.cvt .s32f32 .rz 0 (.v 1)) w).getV 0 0, (got (.cvt .s32f32 .rz 0 (.v 2)) w).getV 0 0) = (0x7FFFFFFF, 0xFFFFFFFE) := by
  decide +kernel

/-- R186: a store waits in its sequencer, and no byte changes yet. -/
theorem test_st_queues : let t := ran (.st .b32 1 ⟨0, false, 0, 0, .wave⟩) (st { w0 with v := [(1, 0x11223344)] })
  (((t.wave 0).map (fun w => (w.seqAt 0).entries.length)), windowByte t 0 0) = (some 1, 0) := by decide +kernel
/-- R183: an address that is not aligned raises ADDRERR (5), which fails the kernel of a context without a handler. -/
theorem test_ld_misaligned : let t := ran (.ldUni .b32 1 ⟨0, false, 0, 0, .wave⟩) (st { w0 with a := [(0, 2)] })
  (t.kern 0).map (fun k => (k.st, k.reason)) = some (.failed, 6) := by decide +kernel
/-- R252: PERFORM of a store of team scope writes its bytes, lowest address first. -/
theorem test_perform_store :
  let e : Entry := { id := 0, k := .access ⟨.store, 4, true, false, 0, [⟨0, 8, 0x11223344, 0⟩]⟩ }
  let t := ran (.perform 0 0) (st { w0 with seqs := [(0, { entries := [e] })], nextId := 1 })
  [8, 9, 10, 11].map (windowByte t 0) = [0x44, 0x33, 0x22, 0x11] := by decide +kernel
/-- R197: LSHUF.idx of a lane's own cell. -/
theorem test_lshuf : (got (.lshuf .idx 2 1 (.imm 0)) { w0 with v := [(1, 7)] }).getV 0 2 = 7 := by decide +kernel

/-- R207: a branch on a true K register goes to PC + 4 x OFF; R205: a call pushes the PC after it. -/
theorem test_bra_call : let w : Wave := { w0 with k := [(0, true)] }
  ((got (.call 0 0) { w with pc := 0 }).cs.map (·.ret)) = [4] := by decide +kernel
/-- R207: SPLIT pushes its reconvergence point with the active mask. -/
theorem test_split : ((got (.split 6) w0).ms) = [.split 24 1] := by decide +kernel
/-- R207: MERGE at the reconvergence point restores the mask. -/
theorem test_merge : let w := got .merge { w0 with ms := [.split 0 1], active := 0 }
  (w.ms, w.active) = ([], 1) := by decide +kernel
/-- R205: RET with no entry raises CALLERR (9). -/
theorem test_ret_empty : ((ran .ret (st w0)).ctx 0).map (·.esc.cause) = some 0x200 := by decide +kernel
/-- R408, R411: a fault in a context with a handler: the saved PC and argument, handler mode, and the handler's PC. -/
theorem test_trap_enters :
  let s := st { w0 with v := [(1, 1)] }
  let t := ran (.trap (.imm 5)) { s with ctxs := [(0, { bareCtx with handler := 0 })] }
  (t.wave 0).map (fun w => (w.hmode, w.traparg, w.trappc, w.wcause)) = some (true, 5, 0, 0x200000) := by decide +kernel
/-- R413: with no handler the kernel ends FAILED with reason FAULTED. -/
theorem test_trap_escalates : ((ran (.trap (.imm 5)) (st w0)).kern 0).map (fun k => (k.st, k.reason)) = some (.failed, 6) := by
  decide +kernel
/-- R215: CAUSEC reads a bit and clears it. -/
theorem test_causec : let w := got (.causec 1 (.imm 17)) { w0 with wcause := 0x20000, hmode := true }
  (w.getS 1, w.wcause) = (1, 0) := by decide +kernel
/-- R412: TRET leaves handler mode and goes to TRAPPC. -/
theorem test_tret : let w := got .tret { w0 with hmode := true, trappc := 0, resume := 1, savedActive := 1 }
  (w.hmode, w.pc, w.redo) = (false, 0, 1) := by decide +kernel
/-- R80, R210: NOP and YIELD change only the PC. -/
theorem test_nop : (got .nop w0, got .yield w0) = ({ w0 with pc := 4 }, { w0 with pc := 4 }) := by decide +kernel
/-- R211: EXIT of the last cells ends the wave. -/
theorem test_exit : (got .exit w0).live = 0 := by decide +kernel

/-- R137: STEP adds 1 to the step count. -/
theorem test_step_count : (got .step w0).step = 1 := by decide +kernel
/-- R227: ELECT sets K in the wave of the elected cell. -/
theorem test_elect : (got (.elect 2) w0).getK 2 = true := by decide +kernel
/-- R225: REL gives the set back. -/
theorem test_rel : (got .rel w0).ext = false := by decide +kernel

/-- R245: BINIT sets MM from bits 15:0 and E from bits 23:16. -/
theorem test_binit : let t := ran (.binit 4 2) (st { w0 with s := [(4, 0x10001)] })
  (t.team 0).map (fun x => ((x.bar 2).st, (x.bar 2).mm, (x.bar 2).e)) = some (true, 1, 1) := by decide +kernel
/-- R245: BWAIT passes once a completion waits, and consumes it. -/
theorem test_bwait : let s := st w0
  let t := ran (.bwait 2) { s with teams := [(0, { bareTeam with bars := [(2, { st := true, mm := 1, ph := 1 })] })] }
  (t.wave 0).map (·.pc) = some 4 := by decide +kernel

/-- R274: HFORK gives H1 a new sequencer behind H0's. -/
theorem test_hfork : ((got (.hfork 1 0) w0).getH 1).st = .gated := by decide +kernel
/-- R280: HWAIT with nothing outstanding passes. -/
theorem test_hwait : (got (.hwait 0) w0).pc = 4 := by decide +kernel
/-- R246: a word under a RETIRED handle raises HNDERR (6). -/
theorem test_retired : ((ran (.hwait 3) (st w0)).ctx 0).map (·.esc.cause) = some 0x40 := by decide +kernel
/-- R346: CBINIT of a legal buffer. -/
theorem test_cbinit : let t := ran (.cbinit 1 4) (st { w0 with s := [(4, 0), (5, 256), (6, 2)] })
  (t.team 0).map (fun x => (NMap.get {} x.cbufs 1).slots) = some 2 := by decide +kernel
/-- R293: QROOM of a queue that is not bound gives 0. -/
theorem test_qroom : (got (.qroom 4) { w0 with s := [(4, 3)] }).getS 4 = 0 := by decide +kernel

/-- R287: ROOTLAUNCH to an unbound queue. -/
theorem test_rootlaunch_unbound : (ran (.rootlaunch 0 0 3 []) (st w0)).replies = [⟨0, .qunbound, []⟩] := by decide +kernel
/-- R491: a mailbox may not name another virtual function. -/
theorem test_notown : (ran (.ctxread 1 0) (st w0)).replies = [⟨1, .notown, []⟩] := by decide +kernel
/-- R393: CREATE on a FREE virtual function. -/
theorem test_create : ((ran (.create 1 1 15) (st w0)).ctx 1).map (fun c => (c.st, c.part)) = some (.parked, 15) := by decide +kernel
/-- R399: QUENCH fails the context's kernels. -/
theorem test_quench : let t := ran (.quench 0 0) (st w0)
  ((t.ctx 0).map (fun c => (c.st, c.reason)), (t.kern 0).map (fun k => (k.st, k.reason))) =
    (some (.quenching, 6), some (.failed, 7)) := by decide +kernel
/-- spec/23_context.md, the turn worked through: 1000 + 100 - 13 = 1087 µs. -/
theorem test_turn_length : ({ credit := 100000, debt := 13000 } : Ctx).turnNs = 1087000 := by decide +kernel
/-- spec/23_context.md: with 300 µs of credit the turn is 1237 µs (after a debt of 13 µs) and 50 µs carry over. -/
theorem test_turn_credit : let c : Ctx := { credit := 300000, debt := 13000 }
  (c.turnNs, c.begin.credit, c.begin.debt) = (1237000, 50000, 0) := by decide +kernel
/-- R350: a tick adds the allowance, up to twice it. -/
theorem test_token_tick : let s := st w0
  let t := ran .tokenTick { s with ctxs := [(0, { bareCtx with balance := 100 })] }
  (t.us, (t.ctx 0).map (·.balance)) = (1, some 2443) := by decide +kernel
/-- R484: POWER_ON enters RESET, and STATUS returns the stage. -/
theorem test_power_on : ((ran .powerOn (st w0)).hearth.stage, (ran .status (st w0)).replies) =
  (.reset, [⟨16, .ok, [4, 0, 0, 0]⟩]) := by decide +kernel
/-- R486: the third failed start in a row enters MINIMAL, once its record has stood. -/
theorem test_minimal : let s := st w0
  let t := ran (.hbmtrain 5) { s with hearth := { stage := .reduced, fails := 2 } }
  ((t.ctx 0).map (·.reason), (bootStep t).map (·.hearth.stage)) = (some 9, some .minimal) := by decide +kernel
/-- R492: CLOCK_HALVE in full service. -/
theorem test_clock : ((ran (.clockHalve 1) (st w0)).dies.map (·.mhz)) = [4000, 2000, 4000, 4000] := by decide +kernel
/-- R21: a hold sends at most four packets, and the token passes. -/
theorem test_crossbar : let s := st w0
  let p (k : Nat) : Nat × XbarPkt := (79, ⟨0, 79, k, true⟩)
  (ran (.crossbarToken 0) { s with xbar := [(0, { token := 79, queued := [p 0, p 1, p 2, p 3, p 4] })] }).xbar =
    [(0, { token := 0, queued := [p 4], got := [p 0, p 1, p 2, p 3] })] := by decide +kernel
/-- R24: a link with four flits queued is to return to full width; R25: the router at column 0, row 0 sends along the row first. -/
theorem test_mesh : let s := st w0
  let l : MeshLink := { width := 1, want := 1, queue := [⟨0, 0x80000, 4⟩] }
  (((ran (.linkWidthReturn 4) { s with mesh := [(4, l)] }).meshLink 4).want, meshCopies 0 ⟨0, 0x80020, 1⟩) =
    (4, [(0, ⟨0, 0x80000, 1⟩), (2, ⟨0, 0x20, 1⟩)]) := by decide +kernel
/-- R16, R17: 256-byte granules rotate over the eight slices of a stack. -/
theorem test_slice : [0, 255, 256, 2047, 2048, 24 * 2 ^ 31 + 256].map sliceOf = [0, 0, 1, 7, 0, 9] := by decide
/-- R422: TRAINED with 64 wavelengths, from power-on. -/
theorem test_trained : ((ran (.trained 1 0xFFFFFFFFFFFFFFFF) (st w0)).peer 1).map (·.link) = some .up := by decide +kernel
/-- spec/25_link.md, the loss of light: the mask with fibre 2 excluded has 48 wavelengths. -/
theorem test_active : active64 0xFFFF0000FFFFFFFF = 48 := by decide +kernel
/-- CRC-32C of the ASCII digits 1 to 9 (the check value of the polynomial). -/
theorem test_crc32c : crc32c [0x31, 0x32, 0x33, 0x34, 0x35, 0x36, 0x37, 0x38, 0x39] = 0xE3069283 := by decide +kernel
/-- A word placed where the next step fetches is the one that runs. -/
theorem test_fetch_word : (match step (State.reset.withFetchWord 32 0x66A00000) with
  | .next t => (t.wave 0).map (·.pc)
  | _ => none) = some 4 := by decide +kernel

/-! ## States that meet the statements' hypotheses -/

/-- No neighbour operand. -/
def plain (i : Instr) : Bool := match i.bop? with
  | some (.nbr _ _ _, _) => false
  | _ => true
/-- Wave 0 stands in w and may issue the word. -/
def canIssue (s : State) (w : Wave) (i : Instr) : Bool :=
  decide (s.cur = some 0 ∧ s.wave 0 = some w ∧ s.chain.phase = .direct ∧ w.pend = [] ∧ w.ext = true ∧ w.hold.bind (·.src) = none) && plain i

theorem issues_of {s : State} {w : Wave} {i : Instr} (h : canIssue s w i = true) : Issues s 0 w i := by
  simp only [canIssue, Bool.and_eq_true, decide_eq_true_eq] at h
  obtain ⟨⟨h1, h2, h3, h4, h5, h7⟩, h6⟩ := h
  refine ⟨⟨h1, h2, h3, h7⟩, .inr (by simp [h4]), .inl h5, ?_⟩
  intro b wide hb
  cases b with
  | nbr ax p r => simp [plain, hb] at h6
  | _ => trivial

/-- Every word of a list may issue. -/
theorem issues_all {α : Type} {s : State} {w : Wave} {l : List α} {g : α → Instr}
    (h : ∀ e ∈ l, canIssue s w (g e) = true) : ∀ e ∈ l, Issues s 0 w (g e) := fun e he => issues_of (h e he)

/-- A neighbour operand: two cells of one wave on a clamped axis, and the published register V0. -/
theorem test_witness_neighbour :
    let k : Kernel := { bareKernel with hdr := { widths := [1, 0, 0, 0, 0, 0], publish := 1, axes := [0x1000001, 0, 0] } }
    let w : Wave := { w0 with live := 3, active := 3 }
    let s : State := { st w with kernels := [(0, k)] }
    Issues s 0 w (.iadd 1 2 (.nbr .x true 0)) := by
  intro k w s
  refine ⟨⟨rfl, rfl, rfl, rfl⟩, .inr (by decide), .inl rfl, ?_⟩
  intro b wide hb
  obtain ⟨rfl, rfl⟩ : BOp.nbr .x true 0 = b ∧ false = wide := by simpa [Instr.bop?] using hb
  refine ⟨by decide +kernel, by decide +kernel, by decide, ?_⟩
  intro f hf x hx hne
  have h : ∀ g ∈ cellsOf (3 : Mask), (match k.hdr.neighbour (w.wid k.hdr g) 0 true with
    | .cell y => decide (y / k.hdr.cells = w.idx)
    | _ => true) = true := by decide +kernel
  have h' := h f ((getLsbD_of_mem_cellsOf _ _).2 hf)
  have hx' : k.hdr.neighbour (w.wid k.hdr f) 0 true = .cell x := hx
  rw [hx'] at h'
  exact absurd (of_decide_eq_true h') hne

theorem test_witness_PerCellIntegerWordsGiveTheirValue :
    (∀ e ∈ intCellWords, Issues (st w0) 0 w0 (e.1 63 0 (.imm 0x1F))) ∧
    (∀ e ∈ intCellWords1, Issues (st w0) 0 w0 (e.1 63 (.lit 0xFFFFFFFF))) :=
  ⟨issues_all (by decide +kernel), issues_all (by decide +kernel)⟩

theorem test_witness_UniformIntegerWordsGiveTheirValue :
    (∀ e ∈ intUniWords, Issues (st w0) 0 w0 (e.1 31 0 (.imm 0x1F))) ∧ (∀ e ∈ intUniWords1, Issues (st w0) 0 w0 (e.1 31 (.lit 0))) :=
  ⟨issues_all (by decide +kernel), issues_all (by decide +kernel)⟩

theorem test_witness_AddWithCarryReadsAndWritesTheCarry :
    Issues (st w0) 0 w0 (.iaddc 63 0 (.imm 0)) ∧ Issues (st w0) 0 w0 (.iaddcUni 31 0 (.imm 0)) :=
  ⟨issues_of (by decide +kernel), issues_of (by decide +kernel)⟩

theorem test_witness_PerCellComparesSetTheirPredicate :
    Issues (st w0) 0 w0 (.icmp .ge 7 63 (.imm 0)) ∧ Issues (st w0) 0 w0 (.icmpUnsigned .geu 0 63 (.imm 0)) ∧
    (∀ e ∈ predWords, Issues (st w0) 0 w0 (e.1 7 0 6)) :=
  ⟨issues_of (by decide +kernel), issues_of (by decide +kernel), issues_all (by decide +kernel)⟩

theorem test_witness_UniformComparesVotesAndBallots :
    Issues (st w0) 0 w0 (.icmpUni .eq 7 31 (.imm 0)) ∧ Issues (st w0) 0 w0 (.icmpUnsignedUni .ltu 0 31 (.imm 0)) ∧
    (∀ e ∈ predUniWords, Issues (st w0) 0 w0 (e.1 7 0 6)) ∧ Issues (st w0) 0 w0 (.vote .uni 7 7) ∧
    Issues (st w0) 0 w0 (.ballot 31 15 7) :=
  ⟨issues_of (by decide +kernel), issues_of (by decide +kernel), issues_all (by decide +kernel), issues_of (by decide +kernel),
   issues_of (by decide +kernel)⟩

/-- ISET at the limits: a length of 1572864 with a stride one below it, and a length beyond it. -/
theorem test_witness_MovesAndAddressRegisters :
    let w : Wave := { w0 with s := [(0, 1572863), (2, 1572864)] }
    let x : Wave := { w0 with s := [(2, 1572865)] }
    ((Instr.movl 62 (.v 62)).wf = true ∧ Issues (st w0) 0 w0 (.movl 62 (.v 62))) ∧
    ((Instr.movlUni 30 (.s 30)).wf = true ∧ Issues (st w0) 0 w0 (.movlUni 30 (.s 30))) ∧
    Issues (st w0) 0 w0 (.movi 63 0x1FFFF) ∧ Issues (st w0) 0 w0 (.moviUni 31 0x10000) ∧ Issues (st w0) 0 w0 (.widf 63 .f4) ∧
    Issues (st w0) 0 w0 (.widfUni 31 .f4) ∧ Issues (st w0) 0 w0 (.aadd 7 0 (.imm 0)) ∧ Issues (st w0) 0 w0 (.aset 7 (.imm 0)) ∧
    (Issues (st w) 0 w (.iset 7 0) ∧ uv (w.getS 2) ≤ 1572864 ∧ uv (w.getS 1) + uv (w.getS 2) ≤ 1572864 ∧
      (sv (w.getS 0)).natAbs < uv (w.getS 2)) ∧
    (Issues (st x) 0 x (.iset 7 0) ∧ ¬uv (x.getS 2) ≤ 1572864) := by
  refine ⟨⟨by decide +kernel, issues_of ?_⟩, ⟨by decide +kernel, issues_of ?_⟩, issues_of ?_, issues_of ?_, issues_of ?_, issues_of ?_,
    issues_of ?_, issues_of ?_, ⟨issues_of ?_, by decide +kernel⟩, issues_of ?_, by decide +kernel⟩ <;> decide +kernel

theorem test_witness_PerCellFloatWordsGiveTheirValue :
    (∀ e ∈ fltCellWords, Issues (st w0) 0 w0 (e.1 63 0 (.imm 0))) ∧ (∀ e ∈ fltCellWords1, Issues (st w0) 0 w0 (e.1 63 (.v 0))) ∧
    (∀ e ∈ halfCellWords, Issues (st w0) 0 w0 (e.1 .bf16 63 0 (.v 0))) :=
  ⟨issues_all (by decide +kernel), issues_all (by decide +kernel), issues_all (by decide +kernel)⟩

theorem test_witness_UniformFloatWordsGiveTheirValue :
    (∀ e ∈ fltUniWords, Issues (st w0) 0 w0 (e.1 31 0 (.imm 0))) ∧ (∀ e ∈ fltUniWords1, Issues (st w0) 0 w0 (e.1 31 (.s 0))) ∧
    (∀ e ∈ halfUniWords, Issues (st w0) 0 w0 (e.1 .f16 31 0 (.s 0))) ∧ Issues (st w0) 0 w0 (.cvtUni .s32f32rz 31 (.s 0)) ∧
    Issues (st w0) 0 w0 (.cvtUni .f32s32 31 (.s 0)) :=
  ⟨issues_all (by decide +kernel), issues_all (by decide +kernel), issues_all (by decide +kernel), issues_of (by decide +kernel),
   issues_of (by decide +kernel)⟩

theorem test_witness_FloatComparesSetTheirPredicate :
    Issues (st w0) 0 w0 (.fcmp .ord 7 63 (.v 0)) ∧ Issues (st w0) 0 w0 (.fcmpUni .un 7 31 (.s 0)) :=
  ⟨issues_of (by decide +kernel), issues_of (by decide +kernel)⟩

theorem test_witness_DoublesAndConversions :
    (∀ e ∈ dblWords, (e.1 62 0 (.v 2)).wf = true) ∧ (∀ e ∈ dblWords, Issues (st w0) 0 w0 (e.1 62 0 (.v 2))) ∧
    Issues (st w0) 0 w0 (.cvt .s32f32 .rm 63 (.v 0)) ∧
    (CvtExt.f32u32.dst64 = false ∧ Issues (st w0) 0 w0 (.cvtExt .f32u32 63 (.v 0))) ∧
    (CvtExt.f64u32.dst64 = true ∧ (Instr.cvtExt .f64u32 62 (.v 0)).wf = true ∧ Issues (st w0) 0 w0 (.cvtExt .f64u32 62 (.v 0))) := by
  refine ⟨by decide +kernel, issues_all ?_, issues_of ?_, ⟨rfl, issues_of ?_⟩, rfl, by decide +kernel, issues_of ?_⟩ <;> decide +kernel

theorem test_witness_RandomDrawsAndNarrowBlocks :
    Issues (st w0) 0 w0 (.rand .f32 63) ∧ ((Instr.npack .tx8 55 32).wf = true ∧ Issues (st w0) 0 w0 (.npack .tx8 55 32)) ∧
    ((Instr.nunpack .ob8 32 55).wf = true ∧ Issues (st w0) 0 w0 (.nunpack .ob8 32 55)) := by
  refine ⟨issues_of ?_, ⟨by decide +kernel, issues_of ?_⟩, by decide +kernel, issues_of ?_⟩ <;> decide +kernel

/-- The greatest number of FP32; a NaN; 1 as a power of 2, a power of 4 and an integer; -2; a reciprocal beyond the range; and 4 with
what lies on both sides of its root. -/
theorem test_witness_RoundingKeepsNumbersAndCanonicalNaN :
    (f32 ∈ [f64, f32, f16, bf16] ∧ 0xFF7FFFFF < 2 ^ (f32.signPos + 1) ∧ (f32.decode 0xFF7FFFFF).isNan = false) ∧
    (fp32 0x7FC00001).isNan = true ∧ exactly (fp32 0xC0000000) < 0 ∧ 0 < exactly (fp32 0x40800000) ∧ exactly (fp32 0x3F800000) ≠ 0 ∧
    (isNumber (fp32 0x40000001) = true ∧ exactly (fp32 0x40000000) < exactly (fp32 0x40000001) ∧
      exactly (fp32 0x3FFFFFFF) < exactly (fp32 0x40000000)) ∧
    ulpUpTo (-23) (exactly (fp32 0x3F800000)) ∧ (-149 ≤ (-23 : Int) ∧ 1 < exactly (fp32 0x3F800000) * ((2 : Rat) ^ ((-23 : Int) + 24)) ^ 2) ∧
    (isNumber (fp32 0x43000000) = true ∧ 128 ≤ exactly (fp32 0x43000000)) ∧ exactly (fp32 0xC3170000) < -150 ∧
    ((exactly (fp32 0x3F800000)).abs = (2 : Rat) ^ (0 : Int) ∧ exactly (fp32 0x3F800000) = (4 : Rat) ^ (0 : Int) ∧
      exactly (fp32 0) = ((0 : Int) : Rat)) := by
  refine ⟨⟨by simp, ?_⟩, ?_⟩
  · decide +kernel
  · unfold ulpUpTo; decide +kernel

/-- Two words of scope layout at address 8 and at 16380, the last of the window, and one beyond; one that is not aligned; one
whose handle is retired; and a post-increment at the end of its region. -/
theorem test_witness_ScratchpadWordsAppendTheirAccess :
    let o : FmOp := ⟨0, false, 0, 0, .team⟩
    let w : Wave := { w0 with a := [(0, 16376)] }
    let x : Wave := { w0 with a := [(0, 16384)] }
    let y : Wave := { w0 with a := [(0, 15)], i := [(0, ⟨8, 8, 4⟩)] }
    let p : FmOp := ⟨0, true, 0, 0, .wave⟩
    (∀ m : LdSize, ∃ cells rs acc, ScopeWord o w (.ld m 62 o) m.bytes cells rs acc ∧ Issues (st w) 0 w (.ld m 62 o) ∧
      Takes w o.h.toNat ∧ Reaches (st w) w o m.bytes cells) ∧
    (∃ cells rs acc, ScopeWord o w (.st .b64 62 o) 8 cells rs acc ∧ Issues (st w) 0 w (.st .b64 62 o) ∧ Reaches (st w) w o 8 cells) ∧
    (∃ rs acc, ScopeWord o w (.ldUni .b32 31 o) 4 [0] rs acc ∧ Issues (st w) 0 w (.ldUni .b32 31 o) ∧ Reaches (st w) w o 4 [0]) ∧
    (∃ rs acc, ScopeWord o w (.stUni 31 o) 4 [0] rs acc ∧ Issues (st w) 0 w (.stUni 31 o) ∧ Reaches (st w) w o 4 [0]) ∧
    (∃ cells rs acc, ScopeWord o w (.atom .add 62 o) 4 cells rs acc ∧ Issues (st w) 0 w (.atom .add 62 o) ∧ Reaches (st w) w o 4 cells) ∧
    (∃ cells rs acc, ScopeWord o w (.atomBitwise .cas 62 o) 4 cells rs acc ∧ Issues (st w) 0 w (.atomBitwise .cas 62 o) ∧
      Reaches (st w) w o 4 cells) ∧
    (∃ cells rs acc, ScopeWord o w (.atomFloat .fmax 63 o) 4 cells rs acc ∧ Issues (st w) 0 w (.atomFloat .fmax 63 o) ∧
      Reaches (st w) w o 4 cells) ∧
    (∃ rs acc, ScopeWord o w (.atomUni .cas 30 o) 4 [0] rs acc ∧ Issues (st w) 0 w (.atomUni .cas 30 o) ∧ Reaches (st w) w o 4 [0]) ∧
    (Issues (st x) 0 x (.ldUni .b32 31 o) ∧ (x.getH o.h.toNat).st ≠ .retired ∧ ¬Reaches (st x) x o 4 [0]) ∧
    (Issues (st y) 0 y (.ldUni .u8 31 p) ∧ Takes y p.h.toNat ∧ Reaches (st y) y p 1 [0]) ∧
    (Issues (st w0) 0 w0 (.ldUni .b32 31 ⟨0, false, 0, 15, .wave⟩) ∧ (w0.getH 15).st = .retired) ∧
    (let q : FmOp := ⟨0, false, 0, 0, .wave⟩
     let s : State := { st w with kernels := [(0, { bareKernel with hdr := { window := 16384, modew := 0x10, widths := [0, 1, 0, 0, 0, 0] } })] }
     (∃ rs acc, ScopeWord q w (.stUni 31 q) 4 [0] rs acc ∧ acc.kind = .store ∧ acc.team = false) ∧ Issues s 0 w (.stUni 31 q) ∧
     Reaches s w q 4 [0] ∧ (s.hdr w.kern).det = true ∧ (s.hdr w.kern).waves ≠ 1) := by
  intro o w x y p
  have hT : Takes w o.h.toNat := by unfold Takes; decide +kernel
  refine ⟨fun m => ⟨_, _, _, .ld m 62, issues_of ?_, hT, ?_⟩, ⟨_, _, _, .st .b64 62, issues_of ?_, ?_⟩, ⟨_, _, .ldUni .b32 31, issues_of ?_, ?_⟩,
    ⟨_, _, .stUni 31, issues_of ?_, ?_⟩, ⟨_, _, _, .atom .add 62, issues_of ?_, ?_⟩, ⟨_, _, _, .atomBitwise .cas 62, issues_of ?_, ?_⟩,
    ⟨_, _, _, .atomFloat .fmax 63, issues_of ?_, ?_⟩, ⟨_, _, .atomUni .cas 30, issues_of ?_, ?_⟩, ⟨issues_of ?_, ?_, ?_⟩,
    ⟨issues_of ?_, ?_, ?_⟩, ⟨issues_of ?_, ?_⟩, ⟨_, _, .stUni 31, ?_, ?_⟩, issues_of ?_, ?_, ?_, ?_⟩
  · cases m <;> decide +kernel
  · unfold Reaches InRegion; cases m <;> decide +kernel
  all_goals first | decide +kernel | (unfold Reaches InRegion; decide +kernel) | (unfold Takes; decide +kernel)

theorem test_witness_TileWordsAppendTheirAccess :
    let w : Wave := { w0 with d := [(7, { rows := 1, pitch := 256 })], a := [(0, 252)] }
    let o : TileOp := ⟨0, false, 0, 0, true, 7⟩
    Takes w 0 ∧ TileReaches (st w) w o ∧ Issues (st w) 0 w (.ldt 63 o) ∧ Issues (st w) 0 w (.stt 63 o) := by
  intro w o
  refine ⟨by unfold Takes; decide +kernel, ⟨by decide +kernel, by decide +kernel, by unfold InRegion; decide +kernel, ?_⟩,
    issues_of (by decide +kernel), issues_of (by decide +kernel)⟩
  intro f hf
  have h : ∀ f ∈ cellsOf w.active, (tileAt (st w) w o f).1 < (w.getD o.d.toNat).rows.toNat ∧
    (tileAt (st w) w o f).2 < uv (w.getD o.d.toNat).pitch / 4 ∧
    tileAddr w o (tileAt (st w) w o f) + 4 ≤ ((st w).hdr w.kern).window := by decide +kernel
  exact h f ((getLsbD_of_mem_cellsOf _ _).2 hf)

theorem test_witness_AccumulatorWordsReadAndWriteElements :
    let s : State := { st w0 with pairs := [(0, { queue := [{ id := 1, team := 0, wave := 0, tile := 3, k := .zero, rdy := none }] })] }
    (Issues (st w0) 0 w0 (.accrd 63 3 (.imm 0)) ∧ tileUsers (st w0) ((st w0).pairOf w0) 3 = []) ∧
    (Issues s 0 w0 (.accrd 63 3 (.imm 0)) ∧ tileUsers s (s.pairOf w0) 3 ≠ []) ∧ Issues (st w0) 0 w0 (.accwr 3 63 (.imm 0)) := by
  refine ⟨⟨issues_of ?_, ?_⟩, ⟨issues_of ?_, ?_⟩, issues_of ?_⟩ <;> decide +kernel

/-- An active and an inactive source cell, and no active cell. -/
theorem test_witness_ShuffleAndBroadcast :
    let w : Wave := { w0 with active := 0 }
    Issues (st w0) 0 w0 (.lshuf .xor 63 0 (.imm 31)) ∧ Issues (st w0) 0 w0 (.bcast 63 0 (.imm 31)) ∧
    (Issues (st w0) 0 w0 (.bcastUni 31 63 (.imm 0)) ∧ w0.active.getLsbD 0 = true) ∧
    (Issues (st w) 0 w (.bcastUni 31 63 (.imm 0)) ∧ w.active = 0) := by
  refine ⟨issues_of ?_, issues_of ?_, ⟨issues_of ?_, ?_⟩, issues_of ?_, ?_⟩ <;> decide +kernel

/-- A run of two waves on different clusters, of one band or of two, and the second wave. -/
def k2 (band : Bool) : Kernel :=
  { bareKernel with hdr := { widths := if band then [0, 0, 1, 0, 0, 0] else [0, 0, 0, 1, 0, 0], window := 16384 } }
def w1 (o : Option Offer) : Wave := { w0 with team := 1, idx := 1, st := .waiting, offer := o }
def st2 (w p : Wave) (band : Bool) : State := { st w with
  kernels := [(0, k2 band)], teams := [(0, bareTeam), (1, { bareTeam with idx := 1, core := 4 })], waves := [(0, w), (1, p)] }

/-- A partner of the own band, and of another; one without an offer, with an offer that names the wave or another, and with an offer
made since the quantum began. -/
theorem test_witness_ExchangeMeetsItsPartner :
    ∀ band : Bool, ∀ o ∈ [none, some ⟨0, 63, none⟩, some ⟨2, 0, none⟩], ∀ v ∈ [none, some ⟨0, [], 0, [], [], [], []⟩], let p := w1 o
    let w : Wave := { w0 with view := v }
    let s := st2 w p band
    let h := (k2 band).hdr
    Issues s 0 w (.xchg 63 0 (.imm 1)) ∧ w.offer = none ∧ h.onDev s.dev (1 * h.cells) = true ∧
    1 < 2 ^ (h.widths.drop 1).sum ∧ 1 ≠ w.idx ∧ s.waveAt 0 1 = some (1, p) ∧
    (∀ c e, s.placedCore 0 = some c → s.placedCore 1 = some e → c / 4 ≠ e / 4) ∧ s.runOversubscribed 0 = false ∧ p.past = false ∧
    (h.band (1 / h.waves) = h.band (0 / h.waves) ↔ band = true) ∧ w.sawOffer 1 = v.isNone ∧
    s.offers p = o ∧ s.wave 1 = some p ∧
    (∀ y ∈ s.waves, y.2.kern = 0 → y.1 ≠ 1 → s.offers y.2 = none) := by
  intro band o ho v hv
  have hc : ∀ c e, (st2 { w0 with view := v } (w1 o) band).placedCore 0 = some c →
      (st2 { w0 with view := v } (w1 o) band).placedCore 1 = some e → c / 4 ≠ e / 4 := by
    intro c e h1 h2
    have h1' : some 0 = some c := h1
    have h2' : some 4 = some e := h2
    cases h1'; cases h2'; decide
  refine ⟨issues_of (by clear hc; revert v o band; decide +kernel), rfl, by clear hc; revert v o band; decide +kernel,
    by clear hc; revert v o band; decide +kernel, by show (1 : Nat) ≠ w0.idx; decide, rfl, hc, ?_, ?_, ?_, ?_, ?_, rfl, ?_⟩ <;>
    (clear hc; revert v o band; decide +kernel)

theorem takes_of {w : Wave} {p : Nat} {m : Mask} (h : ∀ f, f < 512 → m.getLsbD f = (w.active.getLsbD f && w.getP f p)) : takes w p m := by
  intro f
  by_cases hf : f < 512
  · exact h f hf
  · simp [BitVec.getLsbD_of_ge _ _ (Nat.le_of_not_lt hf)]

/-- A true and a false K register, a legal and an illegal target; all, none and one of two active cells. -/
theorem test_witness_BranchesTakeFallThroughOrDiverge :
    let w : Wave := { w0 with k := [(0, true)] }
    let two : Wave := { w0 with live := 3, active := 3, p := [(0, true)], ms := [.split 0 3] }
    (Issues (st w) 0 w (.bra (1#1 ++ 0#3) 1) ∧ w.getK 0 = true ∧ legalTarget (st w) w (targetOf (st w) 1) = true ∧
      legalTarget (st w) w (targetOf (st w) 0x1FFFFF) = false) ∧
    (Issues (st w0) 0 w0 (.bra (1#1 ++ 0#3) 1) ∧ w0.getK 0 = false) ∧
    (Issues (st w0) 0 w0 (.bra (0#1 ++ 7#3) 1) ∧ takes w0 7 w0.active) ∧
    (Issues (st w0) 0 w0 (.bra (0#1 ++ 0#3) 1) ∧ takes w0 0 0 ∧ 0 ≠ w0.active) ∧
    (Issues (st two) 0 two (.bra (0#1 ++ 0#3) 1) ∧ takes two 0 1 ∧ (1 : Mask) ≠ two.active ∧ (∃ r sv, MaskEntry.split r sv ∈ two.ms) ∧
      two.ms.length < 32) := by
  intro w two
  refine ⟨⟨issues_of ?_, ?_, ?_, ?_⟩, ⟨issues_of ?_, ?_⟩, ⟨issues_of ?_, takes_of ?_⟩, ⟨issues_of ?_, takes_of ?_, ?_⟩,
    issues_of ?_, takes_of ?_, ?_, ⟨0, 3, List.mem_cons_self⟩, ?_⟩ <;> decide +kernel

/-- CALL with 15 and with 16 entries; RET with none, with another and with the same depth; SPLIT with 31 and 32 entries; MERGE of an
empty stack, of a path behind an empty one, at another rpc, at its own with and without a live cell, and inside an open split. -/
theorem test_witness_CallsJumpsSplitAndMerge :
    let c (n : Nat) : Wave := { w0 with k := [(0, true)], cs := List.replicate n ⟨4, 0⟩ }
    let m (es : List MaskEntry) : Wave := { w0 with ms := es }
    (Issues (st w0) 0 w0 (.call 0 1) ∧ w0.getK 0 = false) ∧
    (Issues (st (c 15)) 0 (c 15) (.call 0 1) ∧ (c 15).getK 0 = true ∧ (c 15).cs.length < 16) ∧
    (Issues (st (c 16)) 0 (c 16) (.call 0 1) ∧ 16 ≤ (c 16).cs.length) ∧
    (Issues (st w0) 0 w0 (.jmp (.lit 8)) ∧ legalTarget (st w0) w0 8 = true ∧ legalTarget (st w0) w0 12 = false) ∧
    (Issues (st w0) 0 w0 .ret ∧ w0.cs = []) ∧
    (Issues (st { c 1 with ms := [.split 0 1] }) 0 { c 1 with ms := [.split 0 1] } .ret) ∧
    (Issues (st (c 1)) 0 (c 1) .ret ∧ (c 1).cs = ⟨4, 0⟩ :: [] ∧ (c 1).ms.length = 0) ∧
    (Issues (st (m (List.replicate 31 (.path 0 1)))) 0 (m (List.replicate 31 (.path 0 1))) (.split 1)) ∧
    (Issues (st (m (List.replicate 32 (.path 0 1)))) 0 (m (List.replicate 32 (.path 0 1))) (.split 1)) ∧
    Issues (st w0) 0 w0 .merge ∧
    Issues (st (m [.path 4 0, .path 4 1])) 0 (m [.path 4 0, .path 4 1]) .merge ∧
    Issues (st (m [.split 4 1])) 0 (m [.split 4 1]) .merge ∧
    (Issues (st (m [.split 0 1])) 0 (m [.split 0 1]) .merge ∧ (st (m [])).chain.wordPc = 0 ∧ (1 : Mask) &&& (m []).live ≠ 0) ∧
    (Issues (st (m [.split 0 2, .path 4 0])) 0 (m [.split 0 2, .path 4 0]) .merge ∧ (2 : Mask) &&& (m []).live = 0) ∧
    Issues (st (m [.split 0 2, .path 4 0, .split 8 1])) 0 (m [.split 0 2, .path 4 0, .split 8 1]) .merge := by
  refine ⟨⟨issues_of ?_, ?_⟩, ⟨issues_of ?_, ?_, ?_⟩, ⟨issues_of ?_, ?_⟩, ⟨issues_of ?_, ?_, ?_⟩, ⟨issues_of ?_, rfl⟩, issues_of ?_,
    ⟨issues_of ?_, rfl, rfl⟩, issues_of ?_, issues_of ?_, issues_of ?_, issues_of ?_, issues_of ?_, ⟨issues_of ?_, ?_, ?_⟩,
    ⟨issues_of ?_, ?_⟩, issues_of ?_⟩ <;> decide +kernel

theorem test_witness_SystemRegistersReadAndWrite :
    let h : Wave := { w0 with hmode := true }
    Issues (st w0) 0 w0 .nop ∧ Issues (st w0) 0 w0 .yield ∧ Issues (st w0) 0 w0 (.sysr 31 16 none) ∧
    (Issues (st w0) 0 w0 (.sysr 31 13 none) ∧ k0.hdr.det = false ∧ (st w0).ctx 0 = some bareCtx) ∧ Issues (st w0) 0 w0 (.syswTrappc (.imm 0)) ∧
    Issues (st h) 0 h (.syswTrappc (.imm 0)) ∧ Issues (st w0) 0 w0 (.syswTrapres (.imm 7)) ∧ Issues (st h) 0 h (.syswTrapres (.imm 7)) := by
  refine ⟨issues_of ?_, issues_of ?_, issues_of ?_, ⟨issues_of ?_, ?_, ?_⟩, issues_of ?_, issues_of ?_, issues_of ?_, issues_of ?_⟩ <;>
    decide +kernel

/-- A context with a handler, and one without. -/
def stH (w : Wave) : State := { st w with ctxs := [(0, { bareCtx with handler := 0 })] }

theorem test_witness_FaultsEnterTheHandler :
    ((stH w0).wave 0 = some w0 ∧ w0.hmode = false ∧ (stH w0).handler w0 ≠ 0xFFFFFFFF ∧ NoPlanGenerating (stH w0) ∧
      (stH w0).team w0.team = some bareTeam) ∧
    (let two (st : WaveSt) : State := { stH w0 with waves := [(0, w0), (1, { w0 with idx := 1, st := st })] }
     (∀ st ∈ [WaveSt.ready, .waiting], (two st).wave 1 = some { w0 with idx := 1, st := st } ∧ (1 : Nat) ≠ 0 ∧ w0.team = bareWave.team) ∧
       bareTeam.haltF = false ∧ bareTeam.st = .resident ∧ bareTeam.haltD = false ∧ bareTeam.haltP = false) ∧
    (let h : State := { stH w0 with teams := [(0, { bareTeam with haltF := true })] }
     (h.team w0.team).map (·.haltF) = some true ∧ w0.skidLeft = 0 ∧ w0.hold.bind (·.src) = none) ∧
    ((st w0).wave 0 = some w0 ∧ (st w0).kern w0.kern = some k0 ∧ (st w0).ctx k0.vf = some bareCtx ∧ bareCtx.handler = 0xFFFFFFFF) := by
  refine ⟨⟨rfl, rfl, by decide +kernel, ?_, rfl⟩, by decide +kernel, by decide +kernel, rfl, rfl, rfl, rfl⟩
  intro p hp; simp [stH, st, State.reset] at hp

theorem test_witness_TrapWords :
    let s : State := { st w0 with dbgatt := true }
    Issues (stH w0) 0 w0 (.trap (.imm 0)) ∧ (Issues (stH w0) 0 w0 (.bkpt 0x3F) ∧ (stH w0).dbgatt = false) ∧
    (Issues s 0 w0 (.bkpt 0x20) ∧ w0.hmode = false ∧ s.team w0.team = some bareTeam) ∧
    (let h : Wave := { w0 with hmode := true }
     Issues (stH h) 0 h (.bkpt 0x20) ∧ h.hmode = true) ∧ Issues (stH w0) 0 w0 (.causec 31 (.imm 63)) := by
  refine ⟨issues_of ?_, ⟨issues_of ?_, ?_⟩, ⟨issues_of ?_, ?_, ?_⟩, ⟨issues_of ?_, ?_⟩, issues_of ?_⟩ <;> decide +kernel

/-- Outside the handler; with another depth; with a fault bit left; with an illegal TRAPPC; and a return. -/
theorem test_witness_TrapReturnRestoresTheWave :
    let h : Wave := { w0 with hmode := true, savedActive := 1 }
    let b : Wave := { h with heldBack := true }
    Issues (stH w0) 0 w0 .tret ∧ (Issues (stH b) 0 b .tret ∧ legalTarget (stH b) b b.trappc = true) ∧
    (Issues (stH { h with entryMS := 1 }) 0 { h with entryMS := 1 } .tret) ∧
    (Issues (stH { h with wcause := 2 }) 0 { h with wcause := 2 } .tret ∧ (2 : BitVec 64).extractLsb' 0 48 ≠ 0) ∧
    (Issues (stH { h with trappc := 12 }) 0 { h with trappc := 12 } .tret ∧ legalTarget (stH h) h 12 = false) ∧
    (Issues (stH h) 0 h .tret ∧ h.ms.length = h.entryMS ∧ h.cs.length = h.entryCS ∧ h.wcause.extractLsb' 0 48 = 0 ∧
      legalTarget (stH h) h h.trappc = true ∧ (stH h).team h.team = some bareTeam ∧
      (∀ x ∈ (stH h).waves, x.1 ≠ 0 → x.2.team = h.team → x.2.hmode = false) ∧ ((stH h).waves.map (·.1)).Nodup) := by
  refine ⟨issues_of ?_, ⟨issues_of ?_, ?_⟩, issues_of ?_, ⟨issues_of ?_, ?_⟩, ⟨issues_of ?_, ?_⟩, issues_of ?_, ?_, ?_, ?_, ?_, ?_, ?_, ?_⟩ <;>
    decide +kernel

/-- A kernel that publishes V0, and a wave with a load of it outstanding. -/
def stPub (w : Wave) : State := { st w with kernels := [(0, { bareKernel with hdr := { window := 16384, publish := 1 } })] }
def wP : Wave := { w0 with pend := [(.v 0, 0)] }
theorem pubP : PubPending (stPub wP) wP := ⟨(.v 0, 0), List.mem_cons_self, 0, rfl, by decide +kernel⟩

theorem issuesP {i : Instr} (hs : i.srcs = []) (hd : i.dsts = []) (hb : i.bop? = none) : Issues (stPub wP) 0 wP i :=
  ⟨⟨rfl, rfl, rfl, rfl⟩, .inr (by simp [hs, hd]), .inr (by simp [hs, hd]), by simp [hb]⟩

/-- A run of two devices, one cell on each, that read one another on the x axis; the peer as it can be reached; the step of the wave. -/
def peerF (r : Reach) : Peer := { link := .up, reach := r }
def wF : Wave := { w0 with step := 1 }
def stF (r : Reach) (n : Nat) : State := { st { w0 with step := BitVec.ofNat 32 n } with
  devs := 2, peers := [(1, peerF r)]
  kernels := [(0, { bareKernel with
    hdr := { widths := [0, 0, 0, 0, 0, 1], axes := [0x1000029, 0, 0] }
    halo := if r = .unreachable then [] else [(0, [(1, { dispatched := true })])] })] }

theorem test_witness_StepPublishesAndAdvances :
    let h : Wave := { w0 with hmode := true }
    let o : Wave := { w0 with ms := [.split 4 1] }
    Issues (st h) 0 h .step ∧ Issues (st o) 0 o .step ∧
    (Issues (stPub wP) 0 wP .step ∧ wP.hmode = false ∧ wP.ms = [] ∧ PubPending (stPub wP) wP) ∧
    (Issues (st w0) 0 w0 .step ∧ SetReached (st w0) w0 ∧ ¬PubPending (st w0) w0 ∧ w0.heldBack = false ∧
      ∀ x ∈ (st w0).teams, x.2.st ≠ .evicted) ∧
    (Issues (stF .direct 0) 0 w0 .step ∧ SetReached (stF .direct 0) w0 ∧ ¬PubPending (stF .direct 0) w0 ∧ (stF .direct 0).peer 1 = some (peerF .direct) ∧
      ReadOn (stF .direct 0) w0 1 0 ∧ ∀ d f, ReadOn (stF .direct 0) w0 d f → d = 1) ∧
    (Issues (stF .unreachable 0) 0 w0 .step ∧ SetLost (stF .unreachable 0) w0 1) ∧
    (Issues (stF .direct 1) 0 wF .step ∧ (∀ d, ¬SetLost (stF .direct 1) wF d) ∧ ¬SetReached (stF .direct 1) wF) := by
  refine ⟨issues_of ?_, issues_of ?_, ⟨issuesP rfl rfl rfl, rfl, rfl, pubP⟩, ⟨issues_of ?_, ?_, nofun, ?_, ?_⟩,
    ⟨issues_of ?_, ?_, nofun, ?_, ⟨?_, ?_, ?_, ?_, 0, ?_, ?_, true, 1, ?_, ?_⟩, ?_⟩, ⟨issues_of ?_, ⟨1, ?_, ?_⟩⟩, issues_of ?_, ?_, ?_⟩
  all_goals first | decide +kernel | (unfold SetReached; decide +kernel) | skip
  · rintro d f ⟨-, h1, h2, -⟩
    have h1' : d < 2 := h1
    have h2' : d ≠ 0 := h2
    omega
  · rintro d ⟨i, hi, hd⟩
    have h : ∀ i ∈ nbrSet ((stF .direct 1).hdr wF.kern) wF, (match (stF .direct 1).stand wF i with
      | .lost _ => false
      | _ => true) = true := by decide +kernel
    have := h i hi
    simp [hd] at this

/-- Some cells exit, with no split open and inside one; the last cells exit, with an entry outstanding and without. -/
theorem test_witness_ExitEndsTheActiveCells :
    let h : Wave := { w0 with hmode := true }
    let a : Wave := { w0 with live := 3 }
    let b : Wave := { a with ms := [.path 4 2, .split 8 3] }
    let c : Wave := { w0 with seqs := [(0, { entries := [⟨0, .arrival 0, .queued⟩] })] }
    Issues (st h) 0 h .exit ∧ (Issues (stPub wP) 0 wP .exit ∧ wP.hmode = false ∧ PubPending (stPub wP) wP) ∧ ¬PubPending (st a) a ∧
    (Issues (st a) 0 a .exit ∧ SetReached (st a) a ∧ a.heldBack = false ∧ a.live &&& ~~~a.active ≠ 0 ∧ a.ms = []) ∧
    (Issues (st b) 0 b .exit ∧ SetReached (st b) b ∧ b.live &&& ~~~b.active ≠ 0 ∧ b.ms = [.path 4 2] ++ .split 8 3 :: []) ∧
    (Issues (st w0) 0 w0 .exit ∧ SetReached (st w0) w0 ∧ w0.live &&& ~~~w0.active = 0 ∧ quiet (st w0) 0 w0 = true) ∧
    (Issues (st c) 0 c .exit ∧ SetReached (st c) c ∧ quiet (st c) 0 c = false) ∧
    (Issues (stF .direct 0) 0 w0 .exit ∧ SetReached (stF .direct 0) w0 ∧ cellsOf w0.active ≠ [] ∧ (stF .direct 0).peer 1 = some (peerF .direct)) ∧
    (Issues (stF .unreachable 0) 0 w0 .exit ∧ SetLost (stF .unreachable 0) w0 1) ∧
    (Issues (stF .direct 1) 0 wF .exit ∧ ¬SetReached (stF .direct 1) wF) := by
  refine ⟨issues_of ?_, ⟨issuesP rfl rfl rfl, rfl, pubP⟩, nofun, ⟨issues_of ?_, ?_, ?_, ?_, ?_⟩, ⟨issues_of ?_, ?_, ?_, rfl⟩,
    ⟨issues_of ?_, ?_, ?_, ?_⟩, ⟨issues_of ?_, ?_, ?_⟩, ⟨issues_of ?_, ?_, ?_, ?_⟩, ⟨issues_of ?_, ⟨1, ?_, ?_⟩⟩, issues_of ?_, ?_⟩
  all_goals first | decide +kernel | (unfold SetReached; decide +kernel)

theorem issues_plain {s : State} {w : Wave} {i : Instr} (hc : s.cur = some 0) (hw : s.wave 0 = some w) (hd : s.chain.phase = .direct)
    (hp : w.pend = []) (ho : w.hold.bind (·.src) = none) (hx : (i.srcs ++ i.dsts).all (fun r => match r with
      | .v n => decide (n < 32)
      | _ => true) = true) (hn : plain i = true) : Issues s 0 w i := by
  refine ⟨⟨hc, hw, hd, ho⟩, .inr (by simp [hp]), .inr ?_, ?_⟩
  · intro r hr n hrn
    have := (List.all_eq_true.1 hx) r hr
    subst hrn
    simpa using this
  · intro b wide hb
    cases b with
    | nbr ax p r => simp [plain, hb] at hn
    | _ => trivial

/-- A free set and none; a set held; throughput and deterministic mode. -/
theorem test_witness_RegisterSetsAndElection :
    let w : Wave := { w0 with ext := false }
    let h : Wave := { w with hmode := true }
    let none_ : State := { st w with teams := [(0, { bareTeam with free := 0 })] }
    let det : State := { st w0 with kernels := [(0, { bareKernel with hdr := { modew := 0x10 } })] }
    (Issues (st h) 0 h .acq ∧ (st h).team h.team = some bareTeam) ∧ (Issues (st w0) 0 w0 .acq ∧ w0.ext = true) ∧
    (Issues (st { w with granted := true }) 0 { w with granted := true } .acq) ∧
    (Issues (st w) 0 w .acq ∧ w.granted = false ∧ (st w).team w.team = some bareTeam ∧ k0.hdr.det = false ∧ 0 < bareTeam.free ∧ bareTeam.reqs = []) ∧
    (Issues none_ 0 w .acq ∧ w.hold = none ∧ (none_.team w.team).map (·.free) = some 0) ∧ Issues (st w) 0 w .rel ∧
    (Issues (st w0) 0 w0 .rel ∧ NoRegsRead (st w0) 0 ∧ ∀ p ∈ w0.pend, ∀ r, p.1 = .v r → r < 32) ∧ (Issues det 0 w0 .rel ∧ (det.hdr w0.kern).det = true) ∧
    Issues (st w0) 0 w0 (.elect 7) := by
  refine ⟨⟨issues_plain ?_ ?_ ?_ ?_ ?_ ?_ ?_, ?_⟩, ⟨issues_of ?_, ?_⟩, issues_plain ?_ ?_ ?_ ?_ ?_ ?_ ?_,
    ⟨issues_plain ?_ ?_ ?_ ?_ ?_ ?_ ?_, ?_, ?_, ?_, ?_, ?_⟩, ⟨issues_plain ?_ ?_ ?_ ?_ ?_ ?_ ?_, ?_, ?_⟩, issues_plain ?_ ?_ ?_ ?_ ?_ ?_ ?_,
    ⟨issues_of ?_, by unfold NoRegsRead; decide +kernel, by simp [w0, bareWave]⟩, ⟨issues_of ?_, ?_⟩,
    issues_of ?_⟩ <;> decide +kernel

/-- A team to place; one that may not be placed; and two teams of 512 cells, of which a core holds only one's images. -/
theorem test_witness_TeamsArePlacedEvictedAndReloaded :
    let s : State := { st w0 with
      kernels := [(0, { k0 with st := .dispatching })], teams := [(0, { bareTeam with st := .pending })] }
    let big : Kernel := { bareKernel with hdr := { widths := [9, 0, 1, 0, 0, 0], modew := 15 } }
    let two : State := { st w0 with
      kernels := [(0, big)], teams := [(0, bareTeam), (1, { bareTeam with idx := 1, st := .evicted })]
      waves := [(0, { w0 with st := .held }), (1, { w0 with team := 1, idx := 1, st := .evicted })] }
    let one : State := { two with teams := [(1, { bareTeam with idx := 1, st := .evicted })] }
    (placeable s 0 0 0 = true ∧ s.team 0 = some { bareTeam with st := .pending } ∧ s.kern 0 = some { k0 with st := .dispatching } ∧
      (∀ x ∈ s.teams, x.1 ≠ 0 → x.2.kern = 0 → x.2.st ≠ .pending) ∧ (s.teams.map (·.1)).Nodup ∧
      ∀ x ∈ placeNeeds s k0.vf 0 0, victims s k0.vf x.1 x.2 = []) ∧
    placeable (st w0) 0 0 0 = false ∧
    (StandsOn two 0 .evicted (1, { bareTeam with idx := 1, st := .evicted }) ∧ CanLeave two 0 (0, bareTeam) ∧ StepsNear two ∧ fitsOn two 0 1 = false) ∧
    (¬StandsOn (st w0) 0 .evicted (0, bareTeam) ∧ (st w0).teams = [(0, bareTeam)]) ∧
    (let r : State := { two with waves := [(0, w0), (1, { w0 with team := 1, idx := 1, st := .evicted })] }
     ¬CanLeave r 0 (0, bareTeam) ∧ ∀ p ∈ r.teams, p.2.st = .resident → p = (0, bareTeam)) ∧
    (StandsOn one 0 .evicted (1, { bareTeam with idx := 1, st := .evicted }) ∧ StepsNear one ∧ fitsOn one 0 1 = true ∧
      ∀ x ∈ coreNeeds one 0 0 (teamImages one 1) 0, victims one 0 x.1 x.2 = []) ∧
    (let low : Wave := { w0 with team := 1, idx := 1, st := .evicted, step := 0xFFFFFFFF }
     let far : State := { two with waves := [(0, { w0 with st := .held, step := 1 }), (1, low)] }
     StepsBelow far (1, { bareTeam with idx := 1, st := .evicted }) (0, bareTeam) ∧ StepsNear far) := by
  intro s big two one
  unfold CanLeave StandsOn StepsBelow
  refine ⟨?_, ?_, ⟨?_, ?_, ⟨0, ?_⟩, ?_⟩, ?_, ?_, ⟨?_, ⟨0, ?_⟩, ?_, ?_⟩, ?_, ⟨0xFFFFFFFF, ?_⟩⟩ <;> decide +kernel

/-- A barrier in use by its members, and one with external arrivals alone. -/
theorem test_witness_BarriersAreSetUpAndRead :
    let w (v : Word) : Wave := { w0 with s := [(31, v)] }
    ((st (w 0xFF0001)).team 0 = some bareTeam ∧ Issues (st (w 0xFF0001)) 0 (w 0xFF0001) (.binit 31 15) ∧ (bareTeam.bar 15).am = 0 ∧
      (∀ o ∈ (st (w 0)).ops, ¬(o.2.team = 0 ∧ o.2.namesBar 15 = true)) ∧ uv (0xFF0001 : Word) % 2 ^ 16 < 2 ^ k0.hdr.waves ∧
      ¬(uv (0xFF0001 : Word) % 2 ^ 16 = 0)) ∧
    (Issues (st (w 0x10000)) 0 (w 0x10000) (.binit 31 15) ∧ uv (0x10000 : Word) / 2 ^ 16 % 2 ^ 8 ≠ 0) ∧
    (Issues (st (w 0)) 0 (w 0) (.binit 31 15) ∧ uv (0 : Word) % 2 ^ 16 = 0 ∧ uv (0 : Word) / 2 ^ 16 % 2 ^ 8 = 0) ∧
    (let d : State := { st (w 1) with kernels := [(0, { bareKernel with hdr := { modew := 0x10 } })] }
     Issues d 0 (w 1) (.binit 31 15) ∧ (d.hdr 0).det = true ∧ ∀ f ∈ bareTeam.freshB, ¬(f.1 = 1 ∧ f.2.1 = 15)) ∧
    ((Instr.bqry 29 0).wf = true ∧ Issues (st w0) 0 w0 (.bqry 29 0)) := by
  refine ⟨⟨?_, issues_of ?_, ?_, ?_, ?_, ?_⟩, ⟨issues_of ?_, ?_⟩, ⟨issues_of ?_, ?_, ?_⟩, ⟨issues_of ?_, ?_, ?_⟩, ?_, issues_of ?_⟩ <;> decide +kernel

/-- Arrivals that may, may not, and under a retired handle; a phase that is complete and one that is not; BSYNC before and after its
arrival. -/
theorem test_witness_BarriersArriveAndWait :
    let b : Barrier := { st := true, mm := 1 }
    let s (x : Barrier) : State := { st w0 with teams := [(0, { bareTeam with bars := [(0, x)] })] }
    (∀ x ∈ [b, { b with ph := 1 }, { b with am := 1 }, { b with ar := 1 }, { b with ph := 1, ar := 1 }, { b with st := false }],
      (s x).team w0.team = some { bareTeam with bars := [(0, x)] } ∧ Issues (s x) 0 w0 (.barr 0 0) ∧ Issues (s x) 0 w0 (.bwait 0) ∧
      Issues (s x) 0 w0 (.bsync 0 0)) ∧
    (MayArrive (s b) 0 w0 0 ∧ Takes w0 0 ∧ w0.hold = none ∧ w0.f1 < 16 ∧ b.ph = NMap.get 0 b.w 0) ∧
    (MayArrive (s { b with ph := 1 }) 0 w0 0 ∧ (1 : BitVec 16) ≠ NMap.get 0 b.w 0 ∧ seenPhase (s { b with ph := 1 }) w0 0 = 1 ∧
      seenPhase (s { b with ph := 1 }) { w0 with view := some ⟨0, [], 0, [], [], [], [(0, 0)]⟩ } 0 = 0) ∧ ¬MayArrive (s { b with am := 1 }) 0 w0 0 ∧
    (w0.getH 15).st = .retired := by
  intro b s
  refine ⟨fun x hx => ⟨rfl, issues_of ?_, issues_of ?_, issues_of ?_⟩, ?_, ?_, ?_, ?_⟩
  · revert x; decide +kernel
  · revert x; decide +kernel
  · revert x; decide +kernel
  all_goals first | decide +kernel | (unfold MayArrive; decide +kernel) | (unfold MayArrive Takes; decide +kernel)

/-- A run of two devices, of which the state knows so many. -/
def stFar (r : Reach) (devs : Nat) : State := { stF r 0 with devs := devs, waves := [(0, { w0 with s := [(0, 1)] })] }

/-- A handle that is open, a free slot and none, a receiver that exists and none, here and on another device, and a retired handle. -/
theorem test_witness_HandlesForkJoinAndPass :
    let full : Wave := { w0 with seqs := (List.range 32).map (fun q => (q, {})) }
    let far : Wave := { w0 with s := [(0, 1)] }
    (Issues (st w0) 0 w0 (.hfork 15 0) ∧ (w0.getH 0).st ≠ .retired ∧ w0.freeSlot = some 1) ∧
    (Issues (st w0) 0 w0 (.hfork 15 14) ∧ (w0.getH 14).st = .retired) ∧
    (Issues (st full) 0 full (.hfork 15 0) ∧ full.freeSlot = none) ∧
    Issues (st w0) 0 w0 (.hjoin 15 0 0) ∧ Issues (st w0) 0 w0 (.hrecv 15 31) ∧
    (Issues (st w0) 0 w0 (.hjoin 15 14 13) ∧ (w0.getH 14).st = .retired) ∧ (Issues (st w0) 0 w0 (.hjoin 15 0 13) ∧ (w0.getH 13).st = .retired) ∧
    (Issues (st w0) 0 w0 (.hpass 0 29) ∧ Takes w0 0 ∧ Receives (st w0) w0 0) ∧
    (Issues (st far) 0 far (.hpass 0 0) ∧ 2 ^ (k0.hdr.widths.drop 1).sum ≤ uv (far.getS64 0)) ∧
    (Issues (stFar .direct 2) 0 far (.hpass 0 0) ∧ FarReceiver (stFar .direct 2) far (uv (far.getS64 0)) (peerF .direct) ∧
      FarReceiver (stFar .unreachable 2) far (uv (far.getS64 0)) (peerF .unreachable) ∧
      uv (far.getS64 0) < 2 ^ (((stFar .direct 2).hdr far.kern).widths.drop 1).sum) ∧
    ((stFar .direct 1).hdr far.kern).onDev (stFar .direct 1).dev (1 * ((stFar .direct 1).hdr far.kern).cells) = false ∧
    (stFar .direct 1).devs ≤ ((stFar .direct 1).hdr far.kern).field (1 * ((stFar .direct 1).hdr far.kern).cells) 5 := by
  refine ⟨⟨issues_of ?_, ?_, ?_⟩, ⟨issues_of ?_, ?_⟩, ⟨issues_of ?_, ?_⟩, issues_of ?_, issues_of ?_, ⟨issues_of ?_, ?_⟩, ⟨issues_of ?_, ?_⟩,
    ⟨issues_of ?_, ?_, ?_⟩, ⟨issues_of ?_, ?_⟩, ⟨issues_of ?_, ?_, ?_, ?_⟩, ?_, ?_⟩
  all_goals first | decide +kernel | (unfold Takes; decide +kernel) | (unfold FarReceiver; decide +kernel) | exact ⟨by decide +kernel, .inl (by decide +kernel)⟩

/-- Nothing outstanding, one entry outstanding, a wait that has ended, and H0 under HWAIT.ret. -/
theorem test_witness_HandlesWaitAndFence :
    let e : Wave := { w0 with seqs := [(0, { entries := [⟨0, .arrival 0, .queued⟩] })] }
    let h : Wave := { w0 with hold := some ⟨0, [0], [], none⟩, nextId := 1 }
    let v : Wave := { h with view := some ⟨1, [0], 0, [], [], [], []⟩ }
    let r : Wave := { w0 with h := [(1, ⟨0, .opened⟩)] }
    (Issues (st w0) 0 w0 (.hwait 0) ∧ ∀ id ∈ unperformed (st w0) 0 w0 0, performed (st w0) 0 w0 id = true ∧ w0.saw id = true) ∧
    (Issues (st e) 0 e (.hwait 0) ∧ ¬∀ id ∈ unperformed (st e) 0 e 0, performed (st e) 0 e id = true ∧ e.saw id = true) ∧
    (Issues (st h) 0 h (.hwait 0) ∧ h.hold = some ⟨0, [0], [], none⟩ ∧ performed (st h) 0 h 0 = true ∧ h.saw 0 = true) ∧
    (Issues (st v) 0 v (.hwait 0) ∧ performed (st v) 0 v 0 = true ∧ v.saw 0 = false) ∧ (Issues (st w0) 0 w0 (.hwait 15) ∧ (w0.getH 15).st = .retired) ∧
    Issues (st w0) 0 w0 (.hwaitRet 0) ∧ (Issues (st r) 0 r (.hwaitRet 1) ∧ (r.getH 1).st ≠ .retired ∧ (1 : HReg) ≠ 0) ∧
    (Issues (st w0) 0 w0 (.fence .system 0) ∧ Takes w0 0) ∧
    (Issues (st w0) 0 w0 (.fenceAll .wave) ∧ ∀ x ∈ w0.seqs, x.2.live = true → x.2.entries.length < 64) := by
  refine ⟨⟨issues_of ?_, ?_⟩, ⟨issues_of ?_, ?_⟩, ⟨issues_of ?_, ?_⟩, ⟨issues_of ?_, ?_, ?_⟩, ⟨issues_of ?_, ?_⟩, issues_of ?_, ⟨issues_of ?_, ?_, ?_⟩,
    ⟨issues_of ?_, ?_⟩, issues_of ?_, ?_⟩
  all_goals first | decide +kernel | (unfold Takes; decide +kernel)

/-! ### Entries at the head of a sequencer -/

/-- A wave whose sequencer 0 holds an entry. -/
def wE (k : EntryKind) : Wave := { w0 with seqs := [(0, { entries := [⟨0, k, .queued⟩] })], nextId := 1 }
/-- An access of one cell at address 8. -/
def acc1 (k : AccKind) (sz : Nat) (team uni : Bool) : Access := ⟨k, sz, team, uni, 3, [⟨0, 8, 0x11223344, 0⟩]⟩

theorem head_of (k : EntryKind) : AtHead (st (wE k)) 0 0 (wE k) ⟨0, k, .queued⟩ :=
  ⟨rfl, rfl, rfl, rfl, rfl, nofun⟩

theorem test_witness_PerformedLoadsReadTheirBytes :
    (∀ p ∈ [(LdSize.b32, 4, false), (.b64, 8, false), (.u8, 1, true)], let a := acc1 (.load p.1) p.2.1 false p.2.2
      AtHead (st (wE (.access a))) 0 0 (wE (.access a)) ⟨0, .access a, .queued⟩ ∧
      mayPerform (st (wE (.access a))) 0 (wE (.access a)) ⟨0, .access a, .queued⟩ a = true) ∧
    (let a := acc1 .store 4 false false
     let w : Wave := { w0 with buf := [⟨0, 0, 0, .access a⟩] }
     let s : State := { st w0 with teams := [(0, { bareTeam with veils := [{ own := 1, rs := [(8, 4)], id := 0 }] })] }
     ownStores (st w) 0 w = [] ++ [a] ∧ a.byteAt 8 = some 0x44 ∧ ownStores (st w0) 0 w0 = [] ∧ hidden (st w0) 0 w0 8 = false ∧
     ownStores s 0 w0 = [] ∧ hidden s 0 w0 8 = true ∧ hidden s 1 w0 8 = false) := by
  refine ⟨fun p hp => ⟨head_of _, ?_⟩, ?_, ?_, ?_, ?_, ?_, ?_, ?_⟩
  · revert p; decide +kernel
  all_goals decide +kernel

/-- A store of either scope, in both modes, and one in the perform buffer. -/
theorem test_witness_PerformedStoresWriteTheirBytes :
    let det (w : Wave) : State := { st w with kernels := [(0, { bareKernel with hdr := { modew := 0x10 } })] }
    (∀ team : Bool, let a := acc1 .store 4 team false
      Disjoint a ∧ AtHead (st (wE (.access a))) 0 0 (wE (.access a)) ⟨0, .access a, .queued⟩ ∧
      mayPerform (st (wE (.access a))) 0 (wE (.access a)) ⟨0, .access a, .queued⟩ a = true ∧
      AtHead (det (wE (.access a))) 0 0 (wE (.access a)) ⟨0, .access a, .queued⟩ ∧
      mayPerform (det (wE (.access a))) 0 (wE (.access a)) ⟨0, .access a, .queued⟩ a = true ∧
      ((det (wE (.access a))).hdr 0).det = true) ∧ (st w0).team 0 = some bareTeam ∧ NoneStarted (st w0) ∧
    (let a := acc1 .store 4 false false
     let w : Wave := { w0 with buf := [⟨0, 0, 0, .access a⟩] }
     (st w).wave 0 = some w ∧ w.st ≠ .draining ∧ buffersRun (st w) w = true ∧
     w.buf.find? (fun x => x.id == 0) = some ⟨0, 0, 0, .access a⟩ ∧ (∀ y ∈ w.buf, y.id < 0 →
       meets (Machine.touched (st w) 0 w y.k) (a.cells.map (fun c => (c.addr, a.sz))) = false)) := by
  intro det
  refine ⟨fun team => ⟨?_, head_of _, ?_, ⟨rfl, rfl, rfl, rfl, rfl, nofun⟩, ?_, by cases team <;> decide +kernel⟩, rfl, by intro p hp; simp [st, State.reset] at hp,
    rfl, by decide, by decide +kernel, by decide +kernel, fun y _ h => absurd h (Nat.not_lt_zero _)⟩
  · exact List.pairwise_singleton _ _
  all_goals (revert team; decide +kernel)

theorem test_witness_PerformedAtomicsReadAndWriteOnce :
    let a := acc1 (.atom .cas) 4 true true
    AtHead (st (wE (.access a))) 0 0 (wE (.access a)) ⟨0, .access a, .queued⟩ ∧ a.cells = [⟨0, 8, 0x11223344, 0⟩] ∧
    mayPerform (st (wE (.access a))) 0 (wE (.access a)) ⟨0, .access a, .queued⟩ a = true ∧ k0.hdr.det = false ∧
    (st (wE (.access a))).team 0 = some bareTeam ∧ NoneStarted (st (wE (.access a))) ∧
    (∀ i, i < 4 → hidden (st (wE (.access a))) 0 (wE (.access a)) (8 + i) = false) := by
  refine ⟨head_of _, rfl, by decide +kernel, rfl, rfl, by intro p hp; simp [st, State.reset] at hp, by decide +kernel⟩

/-- The last arrival of a phase and one of two; a gate of each kind; a fence whose scope is reached and one that is not. -/
theorem test_witness_ArrivalsGatesAndFences :
    let p : PassRec := ⟨0, 0, 5, none, 0⟩
    let r : State := { st (wE (.gateRecv 5)) with teams := [(0, { bareTeam with passes := [p] })] }
    let f : EntryKind := .fence .team false false none
    let g : Wave := { w0 with seqs := [(0, { entries := [⟨0, .arrival 0, .queued⟩, ⟨1, f, .queued⟩] })], nextId := 2 }
    (AtHead (st (wE (.arrival 0))) 0 0 (wE (.arrival 0)) ⟨0, .arrival 0, .queued⟩ ∧ (∀ x ∈ (wE (.arrival 0)).buf, x.seq ≠ 0) ∧
      (bareTeam.bar 0).st = true ∧ (bareTeam.bar 0).am ||| 1 = (bareTeam.bar 0).mm ∧ uv (bareTeam.bar 0).e ≤ (bareTeam.bar 0).xa ∧
      (bareTeam.bar 1).am ||| 1 ≠ (bareTeam.bar 1).mm) ∧
    (((wE (.gateFork [])).seqAt 0).entries.head? = some ⟨0, .gateFork [], .queued⟩ ∧
      buffersRun (st (wE (.gateFork []))) (wE (.gateFork [])) = true) ∧
    (((wE (.gateRecv 5)).seqAt 0).entries.head? = some ⟨0, .gateRecv 5, .queued⟩ ∧ buffersRun r (wE (.gateRecv 5)) = true ∧
      takePass 0 5 [p] = some (p, []) ∧ firstRecv (wE (.gateRecv 5)) 0 5 = true) ∧
    ((wE f).seqs.find? (fun x => x.2.entries.any (fun y => y.id == 0)) = some (0, (wE f).seqAt 0) ∧
      (wE f).standing.find? (fun y => y.id == 0) = some ⟨0, f, .queued⟩ ∧ scopeReached (st (wE f)) 0 (wE f) (some 0) 0 .team = true) ∧
    (g.seqs.find? (fun x => x.2.entries.any (fun y => y.id == 1)) = some (0, g.seqAt 0) ∧
      g.standing.find? (fun y => y.id == 1) = some ⟨1, f, .queued⟩ ∧ scopeReached (st g) 0 g (some 0) 1 .team = false) := by
  intro p r f g
  refine ⟨⟨head_of _, by simp [wE, w0, bareWave], ?_⟩, ?_⟩ <;> decide +kernel

/-! ### Engines -/

/-- A kernel with one extent, of the page that is mapped, with its permissions. -/
def kX (rd wr : Bool) : Kernel := { bareKernel with hdr := { window := 16384, exts := [⟨0, 1, rd, wr, false⟩] } }
/-- A descriptor of one row of 32 FP32 elements at the start of the window, and a buffer of two slots. -/
def tmD : Team := { bareTeam with win := [(4, 1), (8, 32)], cbufs := [(0, { slots := 2, slotb := 256 })] }
def stX (w : Wave) (rd wr : Bool) : State := { st w with kernels := [(0, kX rd wr)], teams := [(0, tmD)] }
/-- Source and destination from S8, the latter at the start of the window, and the options in S12. -/
def wX (src : Word) (o : Word) : Wave := { w0 with s := [(8, src), (11, 0x80000000), (12, o)] }
def fX : FxOp := ⟨8, 12, 0, none⟩

/-- CPY: a legal slice into the window and one into a buffer's slot, which it fills. -/
theorem test_witness_EngineWordsAppendTheirOperation_cpy : ∀ o ∈ [(0x1000 : Word), 0x4010],
    Issues (stX (wX 0 o) true true) 0 (wX 0 o) (.cpy fX) ∧ CopyOptions (stX (wX 0 o) true true) (wX 0 o) o ∧ o.getLsbD 5 = false ∧
    (o.getLsbD 4 = true → ((wX 0 o).getS64 10).getLsbD 63 = true) ∧ Takes (wX 0 o) 0 ∧ BarrierNamed (stX (wX 0 o) true true) (wX 0 o) none ∧
    CopyAddresses (stX (wX 0 o) true true) (wX 0 o) o ((wX 0 o).getS64 8) ((wX 0 o).getS64 10) ∧
    CopyPermitted (stX (wX 0 o) true true) (wX 0 o) o ((wX 0 o).getS64 8) ((wX 0 o).getS64 10) := by
  intro o ho
  rcases (by simpa using ho : o = 0x1000 ∨ o = 0x4010) with rfl | rfl <;>
    refine ⟨issues_of (by decide +kernel), by unfold CopyOptions; decide +kernel, by decide +kernel, by decide +kernel,
      by unfold Takes; decide +kernel, nofun, by unfold CopyAddresses LegalPlace; decide +kernel,
      by unfold CopyPermitted; decide +kernel⟩

/-- CPY: a reserved option, a retired handle, a barrier that is not set up, an address that is not aligned, a forbidden page. -/
theorem test_witness_EngineWordsAppendTheirOperation_cpy_traps :
    (Issues (stX (wX 0 8) true true) 0 (wX 0 8) (.cpy fX) ∧ ¬CopyOptions (stX (wX 0 8) true true) (wX 0 8) 8) ∧
    (Issues (stX (wX 0 0) true true) 0 (wX 0 0) (.cpy { fX with hnd := 15 }) ∧ ((wX 0 0).getH 15).st = .retired) ∧
    (Issues (stX (wX 0 0) true true) 0 (wX 0 0) (.cpy { fX with bar := some 1 }) ∧
      ¬BarrierNamed (stX (wX 0 0) true true) (wX 0 0) (some 1)) ∧
    (Issues (stX (wX 2 0) true true) 0 (wX 2 0) (.cpy fX) ∧
      ¬CopyAddresses (stX (wX 2 0) true true) (wX 2 0) 0 ((wX 2 0).getS64 8) ((wX 2 0).getS64 10)) ∧
    (Issues (stX (wX 0 0) false true) 0 (wX 0 0) (.cpy fX) ∧
      ¬CopyPermitted (stX (wX 0 0) false true) (wX 0 0) 0 ((wX 0 0).getS64 8) ((wX 0 0).getS64 10)) := by
  refine ⟨⟨issues_of ?_, ?_⟩, ⟨issues_of ?_, ?_⟩, ⟨issues_of ?_, ?_⟩, ⟨issues_of ?_, ?_⟩, ⟨issues_of ?_, ?_⟩⟩
  all_goals first
    | decide +kernel
    | (unfold CopyOptions; decide +kernel)
    | (unfold CopyPermitted; decide +kernel)
    | (intro h; exact absurd (h 1 rfl).1 (by decide +kernel))
    | (intro h; exact absurd h.2.2.1 (by decide +kernel))

/-- TCPY: a legal descriptor, and one that an older store of the wave touches. -/
def wT : Wave := { w0 with d := [(0, { rows := 1, pitch := 128 })] }
def wT' : Wave := { wT with seqs := (wE (.access (acc1 .store 4 false false))).seqs, nextId := 1 }

theorem test_witness_EngineWordsAppendTheirOperation_tcpy :
    (Issues (stX wT true true) 0 wT (.tcpy fX) ∧ wT.hold = none ∧ CopyOptions (stX wT true true) wT 0 ∧ Takes wT 0 ∧ LegalPlace (wT.getS64 8) ∧
      (∀ id ∈ olderOn (stX wT true true) 0 wT [(0, 48)], performed (stX wT true true) 0 wT id = true) ∧
      descBad (stX wT true true) wT 0 (readBytes 0 tmD.win 0 48) = false ∧
      (∀ p ∈ tcpyPages (readBytes 0 tmD.win 0 48) 0 false, (kX true true).hdr.forbids p.1 p.2.1 p.2.2 = false)) ∧
    (Issues (stX wT' true true) 0 wT' (.tcpy fX) ∧ Takes wT' 0 ∧
      ¬∀ id ∈ olderOn (stX wT' true true) 0 wT' [(0, 48)], performed (stX wT' true true) 0 wT' id = true) := by
  refine ⟨⟨issues_of ?_, rfl, ?_, ?_, ?_, ?_, ?_, ?_⟩, issues_of ?_, ?_, ?_⟩
  all_goals first
    | decide +kernel
    | (unfold CopyOptions; decide +kernel)
    | (unfold Takes; decide +kernel)
    | (unfold LegalPlace; decide +kernel)

/-- GATH with a flag predicate, SCAT, RESQ and PAGEREQ: the last 8 bytes of the page, in registers V62 and V63. -/
def wG (o : Word) : Wave := { w0 with s := [(8, 62), (12, o)], v := [(63, 65528)] }

theorem test_witness_EngineWordsAppendTheirOperation :
    (Issues (stX (wG 0x3F) true true) 0 (wG 0x3F) (.gath fX) ∧ Takes (wG 0x3F) 0 ∧ ElementsLegal (stX (wG 0x3F) true true) (wG 0x3F) 62 0 8 ∧
      Declared (kX true true).hdr (·.rd) (elements (wG 0x3F) 62)) ∧
    (Issues (stX (wG 0x30) true true) 0 (wG 0x30) (.scat fX) ∧ ElementsLegal (stX (wG 0x30) true true) (wG 0x30) 62 0 8 ∧
      Declared (kX true true).hdr (·.wr) (elements (wG 0x30) 62)) ∧
    (Takes w0 0 ∧ Declared (kX true true).hdr (fun _ => true) (pageRefs w0 63) ∧ Issues (stX w0 true true) 0 w0 (.resq 63 0) ∧
      Issues (stX w0 true true) 0 w0 (.pagereq 63 0)) := by
  have hd : ∀ (ok : Extent → Bool) (es : List Elem), ok ⟨0, 1, true, true, false⟩ = true → (∀ e ∈ es, e.ext = 0 ∧ e.page = 0) →
      Declared (kX true true).hdr ok es := by
    intro ok es ho h e he
    obtain ⟨h1, h2⟩ := h e he
    exact ⟨⟨0, 1, true, true, false⟩, by rw [h1]; rfl, by rw [h2]; decide, ho⟩
  refine ⟨⟨issues_of ?_, ?_, ?_, hd _ _ rfl ?_⟩, ⟨issues_of ?_, ?_, hd _ _ rfl ?_⟩, ?_, hd _ _ rfl ?_, issues_of ?_, issues_of ?_⟩
  all_goals first
    | decide +kernel
    | (unfold Takes; decide +kernel)
    | exact ⟨by decide, fun _ p hp => by simp [wG, w0, bareWave] at hp, .inl rfl, by decide +kernel, by decide +kernel⟩

/-- CBINIT of a buffer that fills the window, and one byte beyond; CBTAKE of a buffer that is not set up, is empty, has a full slot;
CBFREE of a taken slot and of none; CPYQ of a handle; CPYQ.res and CPYQ.abn of a paused operation and of none. -/
def wB (slots : Word) : Wave := { w0 with s := [(30, 256), (31, slots)] }
def stB (b : CircReg) : State := { st w0 with teams := [(0, { bareTeam with cbufs := [(7, b)] })] }
def opC (st : OpSt) : Op := {
  kern := 0, team := 0, vf := 0, k := .copy false false false 0 [⟨0, 0, ⟨false, 0⟩, ⟨true, 0⟩, 64, 0, [], {}, []⟩], st := st
  marks := [⟨0, 0, 0, 0⟩] }
def wO (e : EntrySt) : Wave := { w0 with seqs := [(0, { entries := [⟨0, .op 7, e⟩] })], nextId := 1 }
def stO (o : Op) (e : EntrySt) : State := { st (wO e) with ops := [(7, o)], serial := 8 }

theorem test_witness_CircularBuffersAndQueries :
    (Issues (st (wB 64)) 0 (wB 64) (.cbinit 7 29) ∧ (st (wB 64)).team 0 = some bareTeam ∧ (bareTeam.cbuf 7).nres = 0 ∧
      (∀ o ∈ (st (wB 64)).ops, False) ∧ uv ((wB 64).getS 30) % 256 = 0 ∧ 0 + 64 * 256 ≤ k0.hdr.window) ∧
    (let d : State := { st (wB 64) with kernels := [(0, { bareKernel with hdr := { window := 16384, modew := 0x10 } })] }
     Issues d 0 (wB 64) (.cbinit 7 29) ∧ (d.hdr 0).det = true ∧ ∀ f ∈ bareTeam.freshC, ¬(f.1 = 1 ∧ f.2.1 = 7)) ∧
    (Issues (st (wB 65)) 0 (wB 65) (.cbinit 7 29) ∧ ¬uv ((wB 65).getS 31) % 256 ≤ 64) ∧
    (Issues (stB {}) 0 w0 (.cbtake 7 7)) ∧ Issues (stB { slots := 2, slotb := 256 }) 0 w0 (.cbtake 7 7) ∧
    Issues (stB { slots := 2, slotb := 256, nfil := 1 }) 0 w0 (.cbtake 7 7) ∧
    (Issues (stB { slots := 2, slotb := 256, ntak := 1 }) 0 w0 (.cbfree 7) ∧ releasesOut (stB { slots := 2, slotb := 256, ntak := 1 }) w0 7 < 1 ∧
      ∀ x ∈ w0.seqs, x.2.live = true → x.2.entries.length < 64) ∧
    (Issues (stB { slots := 2, slotb := 256 }) 0 w0 (.cbfree 7)) ∧ Issues (st w0) 0 w0 (.cpyq 28 15) ∧ Issues (st w0) 0 w0 (.cpyq 28 0) ∧
    (Issues (st w0) 0 w0 (.cpyqRes 0) ∧ Issues (st w0) 0 w0 (.cpyqAbn 0) ∧ tongsAtHead (st w0) w0 0 = none) ∧
    (Issues (stO (opC .paused) .paused) 0 (wO .paused) (.cpyqRes 0) ∧ Issues (stO (opC .paused) .paused) 0 (wO .paused) (.cpyqAbn 0) ∧
      tongsAtHead (stO (opC .paused) .paused) (wO .paused) 0 = some (7, opC .paused)) := by
  refine ⟨⟨issues_of ?_, ?_, ?_, ?_, ?_, ?_⟩, ⟨issues_of ?_, ?_, ?_⟩, ⟨issues_of ?_, ?_⟩, issues_of ?_, issues_of ?_, issues_of ?_, ⟨issues_of ?_, ?_, ?_⟩,
    issues_of ?_, issues_of ?_, issues_of ?_, ⟨issues_of ?_, issues_of ?_, ?_⟩, issues_of ?_, issues_of ?_, ?_⟩ <;> decide +kernel

/-- CPYQ of a CPY into a buffer that has no slot yet. -/
theorem test_witness_CircularBuffersAndQueries_uncut :
    let o : Op := { opC .queued with k := .copy false false true 0 [⟨0, 0, ⟨false, 0⟩, ⟨true, 0⟩, 64, 0, [], {}, [1]⟩] }
    Issues (stO o .handedOff) 0 (wO .handedOff) (.cpyq 28 0) ∧ ((wO .handedOff).getH 0).st ≠ .retired ∧
    tongsAtHead (stO o .handedOff) (wO .handedOff) 0 = some (7, o) ∧ o.slot = none := by
  refine ⟨issues_of ?_, ?_, ?_, ?_⟩ <;> decide +kernel

theorem noneStarted_of {s : State} (h : s.pairs = []) : NoneStarted s := by intro p hp; simp [h] at hp

/-- ACCEPT of a copy whose slices agree and of one whose slices do not, and of a gather; RESERVE; a segment, and a word of it; an element;
COMPLETE; and a segment whose page is ABSENT. -/
def opD : Op := { opC .gathering with k := .copy false false false 0 [⟨0, 0, ⟨false, 0⟩, ⟨true, 0⟩, 64, 0, [], {}, [0]⟩,
  ⟨0, 0, ⟨false, 0⟩, ⟨true, 0⟩, 64, 0, [], {}, [1]⟩] }
def opG (st : OpSt) : Op := { opC st with k := .gath 62 0 8 (some 6) [⟨0, 0, 0, 0⟩] }
def opR : Op := { opC .queued with k := .copy false false true 0 [⟨0, 0, ⟨false, 0⟩, ⟨true, 0⟩, 64, 0, [], {}, [1]⟩] }
def opF : Op := { opC .queued with k := .copy false false false 0 [⟨0, 0, ⟨false, 65536⟩, ⟨true, 0⟩, 64, 0, [], {}, []⟩] }
def opW : Op := { opC .queued with k := .scat 62 0 8 [⟨0, 0, 0, 256⟩] }
def stR : State := { stO opR .handedOff with teams := [(0, tmD)] }
def stG (o : Op) (e : EntrySt) : State := { stO o e with kernels := [(0, kX true true)] }

theorem test_witness_EngineOperationsRunInSegments :
    ((wO .queued).placeOf 0 = some (0, ⟨0, .op 7, .queued⟩) ∧ buffersRun (stO (opC .gathering) .queued) (wO .queued) = true ∧
      k0.hdr.det = false ∧ copyReady (stO (opC .gathering) .queued) (opC .gathering) = true ∧
      copyReady (stO opD .queued) opD = true ∧ (∀ m ∈ (opG .gathering).marks, sliceReady (stG (opG .gathering) .queued) m (opG .gathering) = true)) ∧
    ((stO opR .handedOff).engineRuns 0 = true ∧ stR.op 7 = some opR ∧ stR.team 0 = some tmD ∧
      (tmD.cbuf 0).nres + (tmD.cbuf 0).ntak + (tmD.cbuf 0).nfil < (tmD.cbuf 0).slots) ∧
    (∃ p ∈ (stO opD .queued).waves, p.2.team = opD.team ∧ p.2.live ≠ 0) ∧
    (((stO (opC .queued) .handedOff).ctx 0).map Ctx.affords = some true ∧ NoneStarted (stO (opC .queued) .handedOff) ∧
      ∃ g, ((opC .queued).segs (stO (opC .queued) .handedOff))[0]? = some g ∧ g.moved = .bytes ⟨false, 0⟩ ⟨true, 0⟩ 64 ∧
        (stO (opC .queued) .handedOff).meetAll 0 g.need = .ok) ∧
    (let o : Op := { opC .running with words := [[(8, 1), (9, 2)]], wwin := true }
     (stO o .handedOff).handedRuns o.vf = true ∧ o.k.isTongs = true ∧ NoneStarted (stO o .handedOff) ∧ NoPlanRuns (stO o .handedOff) ∧
     ([(8, 1), (9, 2)].map (fun y : Nat × Byte => y.1)).Nodup ∧ { o with wwin := false }.wwin = false) ∧
    (∃ g, (opW.segs (stG opW .handedOff))[0]? = some g ∧ (match g.moved with
        | .elems o sz es => o == 0 && sz == 8 && es == [(0, 256)]
        | _ => false) = true ∧ (stG opW .handedOff).meetAll 0 g.need = .ok ∧
      byWord ((stG opW .handedOff).located 0 ((List.range 8).map (fun i => (256 + i, 0)))) ≠ []) ∧
    ((stG (opG .queued) .handedOff).handedRuns 0 = true ∧ (stG (opG .queued) .handedOff).engineRuns 0 = true ∧
      ((stG (opG .queued) .handedOff).pageOf 0 0).st = .resident ∧ ((stG (opG .queued) .handedOff).pageOf 0 1).st = .absent ∧
      (opG .queued).nth = 0 ∧
      ((stG (opG .queued) .handedOff).ctx 0).map Ctx.affords = some true) ∧
    ((opC .running).k.isTongs = true ∧ { opC .running with seg := 1, bar := some 0 }.segCount (stO (opC .running) .handedOff) = 1 ∧
      (stO (opC .running) .handedOff).handedRuns 0 = true ∧ (bareTeam.bar 0).xa < 65535 ∧ (wO .handedOff).st ≠ .draining) ∧
    (∃ g, (opF.segs (stO opF .handedOff))[0]? = some g ∧ (stO opF .handedOff).meetAll 0 g.need = .fault 1 ∧
      (g.need.find? (fun x => (stO opF .handedOff).meet 0 x.1 x.2.1 x.2.2 == .fault 1)).map (fun x => x.2.2) = some false ∧
      (stO opF .handedOff).hasRoom 0 1 (accOf false) = true ∧ (wO .handedOff).live ≠ 0) := by
  refine ⟨?_, ?_, ?_, ⟨?_, noneStarted_of rfl, _, rfl, rfl, ?_⟩, ⟨?_, ?_, noneStarted_of rfl, by unfold NoPlanRuns; decide +kernel, ?_, rfl⟩,
    ⟨_, rfl, ?_⟩, ?_, ?_, _, rfl, ?_⟩ <;> decide +kernel

/-! ### Queues and kernels -/

theorem commands_of {s : State} (h : s.hearth.stage = .full) (hw : s.pendWrites = []) (hb : s.pendBinds = []) : Commands s 0 0 :=
  ⟨.inr h, rfl, by decide, by simp [hw], by simp [hb], fun h => absurd h (by decide)⟩

/-- A packet of one cell, one packet of code and the smallest window; as bytes, and as the contents of a window. -/
def pktBytes : List Byte := List.replicate 8 0 ++ [1] ++ List.replicate 36 0 ++ [1] ++ List.replicate 2002 0
def tmP : Team := { bareTeam with win := [(8, 1), (0x2D, 1)] }
/-- Queue 5 of virtual function 0, with 16 entries of which n are taken. -/
def qN (n : Nat) : Queue := { tail := BitVec.ofNat 32 n, st := .opened, logcap := 4, ents := List.replicate n 9 }
def wL (q off : Word) : Wave := { w0 with s := [(30, q), (31, off)] }
def stL (w : Wave) (q : Queue) (modew : Word) : State := { st w with
  kernels := [(0, { bareKernel with hdr := { window := 16384, modew := modew } })], teams := [(0, tmP)], queues := [(5, q)] }
def wLe : Wave := { wL 5 0 with seqs := (wE (.access (acc1 .store 4 true false))).seqs, nextId := 1 }

theorem test_witness_LaunchesWriteTheirQueue :
    (Issues (stL { w0 with hmode := true } (qN 0) 0) 0 { w0 with hmode := true } (.launch true 30)) ∧
    (Issues (stL (wL 5 14592) (qN 0) 0) 0 (wL 5 14592) (.launch true 30) ∧ ¬14592 + 2048 ≤ 16384) ∧
    (Issues (stL wLe (qN 0) 0) 0 wLe (.launch false 30) ∧ ¬∀ id ∈ olderOn (stL wLe (qN 0) 0) 0 wLe [(0, 2048)], performed (stL wLe (qN 0) 0) 0 wLe id = true) ∧
    (∀ p ∈ [(qN 0, 0), (qN 16, 1), ({ qN 0 with vf := 1 }, 2)], Issues (stL (wL 5 0) p.1 0) 0 (wL 5 0) (.launch false 30) ∧
      (∀ id ∈ olderOn (stL (wL 5 0) p.1 0) 0 (wL 5 0) [(0, 2048)], performed (stL (wL 5 0) p.1 0) 0 (wL 5 0) id = true) ∧
      writeStatus (stL (wL 5 0) p.1 0) 0 5 (readBytes 0 tmP.win 0 2048) = p.2) ∧
    (Issues (stL (wL 5 0) (qN 0) 0x10) 0 (wL 5 0) (.launch false 30) ∧ ((stL (wL 5 0) (qN 0) 0x10).hdr 0).det = true) ∧
    (Issues (stL (wL 5 0) (qN 0) 0) 0 (wL 5 0) (.qroom 30)) ∧
    (Commands (stL w0 (qN 0) 0) 0 0 ∧ writeStatus (stL w0 (qN 0) 0) 0 5 pktBytes = 0 ∧ writeStatus (stL w0 (qN 16) 0) 0 5 pktBytes = 1 ∧
      writeStatus (stL w0 (qN 0) 0) 0 127 pktBytes = 2 ∧ writeStatus (stL w0 (qN 0) 0) 0 5 [] = 3) := by
  refine ⟨issues_of ?_, ⟨issues_of ?_, ?_⟩, ⟨issues_of ?_, ?_⟩, ?_, ⟨issues_of ?_, ?_⟩, issues_of ?_, commands_of rfl rfl rfl, ?_⟩
  case refine_6 =>
    intro p hp
    rcases (by simpa using hp : p = (qN 0, 0) ∨ p = (qN 16, 1) ∨ p = ({ qN 0 with vf := 1 }, 2)) with rfl | rfl | rfl <;>
      refine ⟨issues_of ?_, ?_⟩ <;> decide +kernel
  all_goals decide +kernel

/-- A queue to bind with its ring in page 0, and in a page whose service goes on; the smallest and the largest capacity; a queue that is bound; one to unbind, empty and
not; and a closing queue. -/
theorem test_witness_QueuesAreBoundClosedAndEmptied :
    (Commands (st w0) 0 0 ∧ (st w0).ctx 0 = some bareCtx ∧ ((st w0).queue 127).st = .unbound ∧ 4 ≤ 4 ∧ 0 % 65536 = 0 ∧
      ∀ g ∈ pagesOf 0 (2048 * 2 ^ 4), (bareCtx.page g).usable = true ∧ bareCtx.stages g 2 = .ok 0) ∧
    (∃ g ∈ pagesOf 65536 (2048 * 2 ^ 4), (({ bareCtx with pages := [(1, { st := .fetching })] } : Ctx).page g).st = .fetching) ∧
    ((stL w0 (qN 0) 0).queue 5).st ≠ .unbound ∧ ((stL w0 (qN 0) 0).queue 5).vf = 0 ∧ ((stL w0 { qN 1 with vf := 1 } 0).queue 5).vf ≠ 0 ∧
    (((stL w0 { qN 1 with st := .closing, ents := [0] } 0).queue 5).ents = 0 :: [] ∧
      (stL w0 { qN 1 with st := .closing, ents := [0] } 0).kern 0 ≠ none ∧ ((stL w0 (qN 0) 0).queue 5).ents = []) := by
  refine ⟨⟨commands_of rfl rfl rfl, rfl, rfl, by decide, by decide, fun g hg => ?_⟩, ⟨1, ?_⟩, ?_⟩
  · obtain rfl : g = 0 := by simpa [pagesOf] using hg
    exact ⟨rfl, rfl⟩
  all_goals decide +kernel

/-- A head that may be selected, one whose parent FAILED, and no head; a kernel whose code has lost its page again, one whose page a
servicer would not map, one that fits no core, one that fits, and one behind a kernel of a higher priority; and a kernel all of whose
teams have ended. -/
def stQ (k : Kernel) (ps : List (Nat × Kernel)) : State := { st w0 with queues := [(5, { qN 0 with ents := [9] })], kernels := (9, k) :: ps }
def kQ : Kernel := { vf := 0, q := 5, met := true, parent := 3 }
def cT : Ctx := { bareCtx with pages := (1, { noback := true }) :: bareCtx.pages }
def kT (cb : Nat) (ws : List Nat) : Kernel := {
  vf := 0, q := 5, st := .translating, pins := [cb / 65536], hdr := { codebase := cb, widths := ws, modew := 15 } }

theorem test_witness_KernelsAreSelectedStartedAndEnded :
    ((stQ kQ []).queue 5).ents = 9 :: [] ∧
    ((openHeads (stQ kQ [(1, { vf := 0, q := 0, st := .failed, kid := 3 })]) 15).find?
      (fun x => orphaned (stQ kQ [(1, { vf := 0, q := 0, st := .failed, kid := 3 })]) x.2.2.2)).isSome = true ∧
    ((stQ kQ []).partAt 0 = 15 ∧ (openHeads (stQ kQ []) 15).find? (fun x => orphaned (stQ kQ []) x.2.2.2) = none ∧
      nextQueue (stQ kQ []) 0 = some (5, { qN 0 with ents := [9] }, 9, kQ)) ∧
    nextQueue (st w0) 0 = none ∧
    (∀ p ∈ [(kT 65536 [0, 0, 0, 0, 0, 0], false, false), (kT 0 [9, 4, 0, 0, 0, 0], true, true), (kT 0 [0, 0, 1, 0, 0, 0], true, false)],
      (∀ g ∈ kernelPages p.1.hdr, g ∈ p.1.pins ∧ (cT.page g).st ≠ .fetching ∧ ((cT.page g).st ≠ .absent ∨ (cT.page g).noback = true)) ∧
      rangesOk (stQ p.1 []) cT p.1 = p.2.1 ∧ (runsOf cT p.1.hdr).length ≤ 4096 ∧ noFit p.1.hdr = p.2.2 ∧
      haloFull (stQ p.1 []) { p.1 with dies := chooseDies p.1.hdr 15 [3] } = false ∧ mustWait (stQ p.1 []) 9 p.1 = false ∧
      haloWaits (stQ p.1 []) 9 { p.1 with dies := chooseDies p.1.hdr 15 [3] } = false ∧
      (stQ p.1 []).mayEvict 0 (haloClaims (stQ p.1 []) 9 { p.1 with dies := chooseDies p.1.hdr 15 [3] }) = true ∧
      ∀ x ∈ haloClaims (stQ p.1 []) 9 { p.1 with dies := chooseDies p.1.hdr 15 [3] }, victims (stQ p.1 []) 0 x.1 x.2 = []) ∧
    ((kernelPages (kT 65536 [0, 0, 0, 0, 0, 0]).hdr).filter (fun g => (bareCtx.page g).st == .absent && !(bareCtx.page g).noback) = [1] ∧
      (stQ (kT 65536 [0, 0, 0, 0, 0, 0]) []).hasRoom 0 1 (pageAcc (kT 65536 [0, 0, 0, 0, 0, 0]).hdr 1) = true) ∧
    (let high : Kernel := { kT 0 [0, 0, 1, 0, 0, 0] with q := 6, st := .dispatching, prio := 9 }
     let s : State := { stQ (kT 0 [0, 0, 1, 0, 0, 0]) [(8, high)] with
       queues := [(5, qN 0), (6, { qN 0 with prio := 9 })], teams := [(0, { bareTeam with kern := 8, st := .pending })] }
     mustWait s 9 (kT 0 [0, 0, 1, 0, 0, 0]) = true) ∧
    (∀ x ∈ (stQ (kT 0 [0, 0, 1, 0, 0, 0]) []).teams, x.1 < (stQ (kT 0 [0, 0, 1, 0, 0, 0]) []).serial) ∧
    (let s : State := { st w0 with waves := [(0, { w0 with st := .done, live := 0, whole := true })] }
     kernelOver (endTeams 0 s) 0 = true ∧ k0.st = .running ∧ NoPlanRuns s ∧ s.guarded 0 64 8 = false ∧ kernelOver (endTeams 0 (st w0)) 0 = false) := by
  refine ⟨rfl, ?_, ⟨rfl, ?_, ?_⟩, ?_, ?_, ?_, ?_, ?_, ?_, ?_, by unfold NoPlanRuns; decide +kernel, ?_⟩
  case refine_5 =>
    intro p hp
    rcases (by simpa using hp : p = (kT 65536 [0, 0, 0, 0, 0, 0], false, false) ∨ p = (kT 0 [9, 4, 0, 0, 0, 0], true, true) ∨
      p = (kT 0 [0, 0, 1, 0, 0, 0], true, false)) with rfl | rfl | rfl <;> decide +kernel
  all_goals decide +kernel

/-- Whether a kernel with published registers finds room for its halo store is the open value of Config (notes/assumptions/16.md). -/
theorem test_witness_halo : let k : Kernel := { kT 0 [0, 0, 0, 0, 0, 0] with hdr := { publish := 1 }, dies := [0] }
    haloFull (stQ k []) k = decide (Config.haloBytes < haloNeeds 0 k 0) ∧ 0 < haloNeeds 0 k 0 := by
  refine ⟨?_, by decide +kernel⟩
  show ([0].any _) = _
  simp only [List.any_cons, List.any_nil, Bool.or_false]
  rfl

/-! ### Pages, rounds and the matrix pair -/

def stC (c : Ctx) : State := { st w0 with ctxs := [(0, c)] }
def cF : Ctx := { bareCtx with pages := [(0, { st := .resident, pins := 1 }), (1, { st := .fetching })] }
def cS (pins : Nat) : Ctx := { bareCtx with pages := [(0, { st := .resident, pins := pins })], extgen := 1, shootdown := [(0, 1)] }
def cM : Ctx := { bareCtx with pages := [(0, { st := .migrating, dest := 3 })], extgen := 1, shootdown := [(0, 1)] }
def stPg (c : Ctx) : State := { stC c with hearth := { stage := .full, parts := [15] } }
def entT (n : BitVec 36) : TableEnt := ⟨n, true, true, false⟩
def opS (g : BitVec 16) : Op := { opC .running with k := .swage { plan := 4096, resume := false, rflg := false, fteam := 0, inflight := [(0, g)] } }

theorem largeTidy : LargeTidy [(0, entT 0)] := by
  intro n e h hl
  by_cases hn : n = 0
  · subst hn
    cases (show some (entT 0) = some e from h)
    cases hl
  · have : Tbl.find [(0, entT 0)] n = none := by simp [Tbl.find, hn]
    exact absurd (this.symm.trans h) (by simp)

theorem runsFit (c d : Ctx) : RunsFit (stPg c) 0 d := by
  intro k hk _ _
  have : k = (0, k0) := by simpa [stPg, stC, st] using hk
  subst this
  simp [runsOf, k0, bareKernel]

/-- MEMWRITE of 4096 bytes, of one more, at the end of the address space, of a code segment, and of a page that is ABSENT. -/
theorem test_witness_PagesAreServicedReclaimedAndMoved_memwrite :
    Commands (st w0) 0 0 ∧ (st w0).ctx 0 = some bareCtx ∧ (st w0).guarded 0 61440 4096 = false ∧
    (∀ g ∈ pagesOf 61440 4096, ∃ pa, bareCtx.walk (65536 * g) true = .ok pa) ∧ NoPlanRuns (st w0) ∧
    4096 < (List.replicate 4097 (0 : Byte)).length ∧ 2 ^ 57 < 2 ^ 57 + 1 ∧ (st w0).guarded 0 0 1 = true ∧
    (∀ g ∈ pagesOf 65536 1, (bareCtx.page g).st = .absent ∧ (bareCtx.page g).usable = false) ∧
    (pagesOf 65536 1).find? (fun x => (bareCtx.page x).st == .absent) = some 1 ∧ (st w0).hasRoom 0 1 2 = true ∧
    ((({ bareCtx with stage2 := [] } : Ctx).page 0).usable = true ∧ ({ bareCtx with stage2 := [] } : Ctx).stages 0 2 = .error 2) := by
  refine ⟨commands_of rfl rfl rfl, rfl, ?_, fun g hg => ⟨0, ?_⟩, by unfold NoPlanRuns; decide +kernel, ?_, ?_, ?_, ?_, ?_, ?_, rfl, rfl⟩
  case refine_2 =>
    obtain rfl : g = 0 := by simpa [pagesOf] using hg
    rfl
  all_goals decide +kernel

/-- A page that is FETCHING, one that is ABSENT, and entries that no servicer may write; a page to take out, pinned and not, and to
narrow; a request under an older generation; a page to move, to a frame that is free and one that is not, and one that migrates. -/
theorem test_witness_PagesAreServicedReclaimedAndMoved :
    ((stPg cF).ctx 0 = some cF ∧ (cF.page 1).st = .fetching ∧ (cF.page 2).st = .absent ∧ NothingWaits (stPg cF) ∧
      MayFill (stPg cF) 0 cF 1 (some (entT 1)) (some (entT 1)) ∧ MayFill (stPg cF) 0 cF 2 (some (entT 1)) (some (entT 1)) ∧
      (cF.write 2 (some (entT 1)) (some (entT 1))).frame 2 ≠ none ∧ MayFill (stPg cF) 0 cF 1 (some (entT 1)) none ∧
      ¬MayFill (stPg cF) 0 cF 1 none (some (entT 0xFFFFFFFFF)) ∧ (cF.page 0).st ≠ .fetching) ∧
    (ShotDown (stPg (cS 0)) 0 0 (cS 0) ∧ ((cS 0).page 0).st = .resident ∧ ((cS 0).page 0).pins = 0 ∧ (cS 0).frame 0 = some 0 ∧
      (cS 0).mayLose ((cS 0).act 0 (.remove true false)) = true ∧ (cS 0).mayLose ((cS 0).act 0 (.remove true true)) = true ∧
      (cS 1).mayLose ((cS 1).act 0 (.narrow false true false)) = true ∧ LargeTidy (cS 0).stage1 ∧ LargeTidy (cS 0).stage2 ∧
      FreeOf (stPg (cS 0)) 0 0 (lostFrames (cS 0) 0 (.remove true true)) ∧ FreeOf (stPg (cS 0)) 0 0 [] ∧
      ¬FreeOf { stPg (cS 0) with ops := [(7, { opC .running with words := [[(65535, 0)]] })] } 0 0
        (lostFrames (cS 0) 0 (.remove true true))) ∧
    ((∀ x ∈ bareCtx.shootdown, x.1 ≠ 0) ∧ ((cS 1).page 0).usable = true ∧ 0 < ((cS 1).page 0).pins ∧ (cS 1).frame 0 ≠ none) ∧
    (let s : State := { stPg (cS 0) with ops := [(7, opS 0)] }
     (∃ x ∈ (cS 0).shootdown, s.oldInFlight 0 x.2 = true) ∧ (cS 0).st.quenchable = true ∧
     (∀ x ∈ (cS 0).shootdown, { s with ops := [(7, opS 1)] }.oldInFlight 0 x.2 = false) ∧
     let b : State := { s with ctxs := [(0, cF)], blocks := [(3, { st := .scrubbing, gens := [(0, 1)] })] }
     (∃ x ∈ b.blocks, x.2.st = .scrubbing ∧ ∃ y ∈ x.2.gens, y.1 = 0 ∧ b.oldInFlight 0 y.2 = true) ∧ cF.shootdown = [] ∧
     ¬∃ x ∈ (stPg cF).blocks, x.2.st = .scrubbing) ∧
    ((stPg bareCtx).inPool 15 3 = true ∧ (stPg bareCtx).inArea 3 = false ∧ (∀ x ∈ (stPg bareCtx).ctxs, 3 ∉ x.2.frames ∧
        ∀ g ∈ x.2.pages, g.2.st = .migrating → g.2.dest ≠ 3) ∧
      ∃ x ∈ (stPg bareCtx).ctxs, 0 ∈ x.2.frames) ∧
    ((cM.page 0).st = .migrating ∧ ShotDown (stPg cM) 0 0 cM ∧ Memory.wf (stPg cM).mem = true ∧ LargeTidy cM.stage2 ∧ cM.ipn 0 = some 0 ∧
      cM.frame 0 = some 0 ∧ (cM.page 0).dest < 2 ^ 36) ∧ ∀ c d, RunsFit (stPg c) 0 d := by
  refine ⟨⟨rfl, ?_, ?_, ⟨rfl, rfl⟩, ?_, ?_, ?_, ?_, ?_, ?_⟩, ⟨⟨(0, 1), rfl, ?_⟩, ?_, ?_, ?_, ?_, ?_, ?_, largeTidy, largeTidy, ?_, ?_, ?_⟩, ?_, ?_, ?_,
    ⟨?_, ⟨(0, 1), rfl, ?_⟩, ?_, largeTidy, rfl, rfl, ?_⟩, runsFit⟩
  all_goals first | decide +kernel | (unfold MayFill; decide +kernel) | (intro o ho; simp [stPg, stC, st, State.reset] at ho) |
    exact fun h => (h (7, _) List.mem_cons_self rfl).1 rfl _ List.mem_cons_self _ List.mem_cons_self (by decide +kernel)

/-- A team of a deterministic run; the words of its wave at physical address 0. -/
def stDet (w : Wave) (tm : Team) (i : Instr) : State := { st w with
  kernels := [(0, { bareKernel with hdr := { modew := 0x10 } })], teams := [(0, tm)]
  mem := writeBytes memDefault [] 0 (bytesOf 4 (uv ((encode false i).getD 0 0))) }
def wHeld : Wave := { w0 with st := .waiting, hold := some ⟨0, [], [], none⟩ }

/-- A turn that passes; a commit of a store, of an arrival, of nothing with a set to grant and an external arrival to apply; a token
that passes; a run in which the one wave waits for ever; a pending fault. -/
theorem test_witness_RoundsRunQuantaAndCommit :
    (Rounds (stDet { w0 with qended := true } bareTeam .nop) 0 bareTeam ∧ bareTeam.turn < 1 ∧ Rests bareTeam { w0 with qended := true }) ∧
    (∀ k ∈ [EntryKind.access (acc1 .store 4 true false), .arrival 0], let tm : Team := { bareTeam with turn := 1, stage := [⟨0, 0, 0, k⟩] }
      Rounds (stDet w0 tm .nop) 0 tm ∧ orderingIdle (stDet w0 tm .nop) 0 = true ∧
      firstStaged (stDet w0 tm .nop) tm = some ⟨0, 0, 0, k⟩) ∧
    (let tm : Team := { bareTeam with turn := 1, reqs := [0], arrived := [(0, 1)] }
     Rounds (stDet w0 tm .nop) 0 tm ∧ orderingIdle (stDet w0 tm .nop) 0 = true ∧ 0 < tm.free ∧ (tm.bar 1).xa < 65535 ∧
     (stDet w0 tm .nop).wave 0 = some w0 ∧ w0.st ≠ .draining) ∧
    (let tm : Team := { bareTeam with round := 1 }
     let s := stDet w0 tm .nop
     s.teams.find? (fun p => p.2.kern == 0 && p.2.idx == 0) = some (0, tm) ∧ 0 < tm.round ∧
     (∃ p ∈ s.teams, p.2.kern = 0 ∧ p.2.st ≠ .ended) ∧ bareTeam.round ≤ 0 ∧
     ∀ o ∈ s.ops, o.2.team = 0 → o.2.st ≠ .gathering → o.2.needsToken = false) ∧
    (let s : State := { stDet wHeld { bareTeam with turn := 2 } (.bwait 0) with
       kernels := [(0, { bareKernel with hdr := { modew := 0x10 }, cycle := 1 })] }
     (∀ p ∈ s.waves, p.2.kern = 0 → quietWave s p.1 p.2 = true ∧ faultDue s p.2 = false) ∧ runIdle s 0 = true ∧ runStep s 0 = false ∧
     (s.hdr 0).det = true ∧ wHeld.st = .waiting ∧ bareTeam.st = .resident ∧ bareTeam.haltF = false) ∧
    (let w : Wave := { w0 with pending := [⟨5, 0⟩, ⟨6, 0⟩] }
     (st w).wave 0 = some w ∧ (st w).team w.team = some bareTeam ∧ bareTeam.st = .resident ∧ k0.hdr.det = false ∧ w.st ≠ .draining ∧ w.st ≠ .done) ∧
    (let w : Wave := { w0 with pending := [⟨5, 0⟩], st := .draining, live := 0 }
     let s : State := { st w with waves := [(0, w), (1, { w0 with idx := 1 })] }
     s.wave 0 = some w ∧ liveWave s 0 = some 1 ∧ liveWave (st w) 0 = none) := by
  refine ⟨⟨⟨rfl, ?_, rfl, rfl, rfl⟩, by decide, .inr (.inr (.inl rfl))⟩, ?_, ⟨⟨rfl, ?_, rfl, rfl, rfl⟩, ?_, ?_, ?_, rfl, ?_⟩,
    ⟨rfl, by decide, ⟨_, List.mem_cons_self, rfl, by decide⟩, by decide, nofun⟩, ?_, ?_, ?_⟩
  case refine_2 =>
    intro k hk
    rcases (by simpa using hk : k = .access (acc1 .store 4 true false) ∨ k = .arrival 0) with rfl | rfl <;>
      exact ⟨⟨rfl, by decide +kernel, rfl, rfl, rfl⟩, by decide +kernel, by decide +kernel⟩
  all_goals decide +kernel

/-- An ATOM of two cells on one word, in both modes; its commit, and that of a floating-point one with and without the token; an atomic that
keeps the token back. -/
def acc2 (op : AtomOp) : Access := ⟨.atom op, 4, true, false, 3, [⟨0, 8, 1, 0⟩, ⟨1, 8, 1, 0⟩]⟩
theorem test_witness_PerformedAtomicsReadAndWriteOnce_cells :
    let det (w : Wave) : State := { st w with kernels := [(0, { bareKernel with hdr := { modew := 0x10 } })] }
    AtomCells (acc2 .add) ∧ AtomCells (acc1 (.atom .cas) 4 true true) ∧
    (∀ s ∈ [st (wE (.access (acc2 .add))), det (wE (.access (acc2 .add)))],
      AtHead s 0 0 (wE (.access (acc2 .add))) ⟨0, .access (acc2 .add), .queued⟩ ∧
      mayPerform s 0 (wE (.access (acc2 .add))) ⟨0, .access (acc2 .add), .queued⟩ (acc2 .add) = true ∧ s.team 0 = some bareTeam) ∧
    (∀ op ∈ [AtomOp.add, .fadd], let tm : Team := { bareTeam with turn := 1, stage := [⟨0, 0, 0, .access (acc2 op)⟩] }
      let s := stDet w0 tm .nop
      let t : State := { s with kernels := [(0, { bareKernel with hdr := { modew := 0x10 }, token := 1 })] }
      s.team 0 = some tm ∧ tm.goes = true ∧ (s.hdr tm.kern).waves ≤ tm.turn ∧ orderingIdle s 0 = true ∧ orderingIdle t 0 = true ∧
      firstStaged s tm = some ⟨0, 0, 0, .access (acc2 op)⟩ ∧ tokenHere s tm = true ∧ tokenHere t tm = false ∧ NoneStarted s ∧
      (∀ c ∈ (acc2 op).cells, ∀ i, i < 4 → hidden s 0 w0 (c.addr + i) = false)) ∧
    (let w := wE (.access (acc2 .fadd))
     ∃ e ∈ w.standing, e.st = .queued ∧ Staged.needsToken (det w) ⟨0, 0, e.id, e.k⟩ = true) ∧
    drainRound (st w0 |>.hdr 0) { bareTeam with round := 5, turn := 2 } = 4 ∧ drainRound (st w0 |>.hdr 0) { bareTeam with round := 5, turn := 1 } = 5 := by
  intro det
  refine ⟨.inr ⟨rfl, by decide, by decide⟩, .inl ⟨rfl, _, rfl⟩, ?_, ?_, ⟨_, List.mem_cons_self, rfl, by decide +kernel⟩, by decide +kernel, by decide +kernel⟩
  · intro s hs
    simp only [List.mem_cons, List.not_mem_nil, or_false] at hs
    rcases hs with rfl | rfl <;> exact ⟨⟨rfl, rfl, rfl, rfl, rfl, nofun⟩, by decide +kernel, rfl⟩
  · intro op ho
    simp only [List.mem_cons, List.not_mem_nil, or_false] at ho
    rcases ho with rfl | rfl <;> exact ⟨rfl, by decide +kernel, by decide +kernel, by decide +kernel, by decide +kernel, by decide +kernel,
      by decide +kernel, by decide +kernel, by intro p hp; simp [stDet, st, State.reset] at hp, by decide +kernel⟩

/-- A tile of 128 rows in a window of 16 KB, of OB8 and of BF16, and one that the window does not hold. -/
def wM (fmt : BitVec 3) (base : Word) : Wave := { w0 with
  d := [(0, { fmt := fmt, rows := 128, pitch := 64, base := base })], mrdy := some (0, true)
  s := [(1, 64), (2, 8192), (4, 0xFFFFFFFF)] }
def mmaX : MmaOp := ⟨0, 3, 0, 0, false, 0, false⟩
def mop (k : MatKind) (started : Bool) : MatOp := { id := 1, team := 0, wave := 0, tile := 3, k := k, rdy := none, opened := true, started := started }
def stM (w : Wave) (q : List MatOp) : State := { st w with pairs := [(0, { queue := q })], serial := 2 }

theorem test_witness_MatrixWordsQueueTheirOperation :
    (Issues (st { w0 with active := 0 }) 0 { w0 with active := 0 } (.mzero 3) ∧ mayIssueMatrix (st { w0 with active := 0 }) { w0 with active := 0 } = false) ∧
    (Issues (stM w0 (List.replicate 8 (mop .zero false))) 0 w0 (.mzero 3) ∧
      8 ≤ ((Tbl.find (stM w0 (List.replicate 8 (mop .zero false))).pairs ((stM w0 []).pairOf w0)).getD {}).queue.length) ∧
    (Issues (stM w0 (List.replicate 7 (mop .zero false))) 0 w0 (.mzero 3) ∧ MayQueue (stM w0 (List.replicate 7 (mop .zero false))) w0) ∧
    (Issues (st w0) 0 w0 .mrdy ∧ ∀ x ∈ w0.seqs, x.2.live = true → x.2.entries.length < 64) ∧
    (∀ x ∈ [((mmaFmtCode .ob8), (0 : Word), MmaFmt.ob8, false, false), ((mmaFmtCode .bf16), 0, .bf16, false, false), ((mmaFmtCode .ob8), 0, .ob4, true, false),
        ((mmaFmtCode .ob8), 8192, .ob8, false, true)],
      Issues (st (wM x.1 x.2.1)) 0 (wM x.1 x.2.1) (.mma x.2.2.1 mmaX) ∧ mayIssueMatrix (st (wM x.1 x.2.1)) (wM x.1 x.2.1) = true ∧
      operandBad (st (wM x.1 x.2.1)) x.2.2.1 0 (some 0) ((wM x.1 x.2.1).getD 0) = x.2.2.2.1 ∧
      operandAt (st (wM x.1 x.2.1)) (wM x.1 x.2.1) false 0 ((wM x.1 x.2.1).getD 0) = (some 0, uv x.2.1) ∧
      operandPending (st (wM x.1 x.2.1)) (some 0) = false ∧ operandOut k0.hdr (uv x.2.1) ((wM x.1 x.2.1).getD 0) = x.2.2.2.2) ∧
    (Issues (st w0) 0 w0 (.mma .bf16 mmaX) ∧ w0.mrdy = none) ∧
    (Issues (st (wM 0 0)) 0 (wM 0 0) (.mdrain .e2m1 3 0 false true) ∧ MayQueue (st (wM 0 0)) (wM 0 0) ∧ uv ((wM 0 0).getS 0) % 4 = 0 ∧
      drainRow .e2m1 ≤ uv ((wM 0 0).getS 1) ∧ 127 * 64 + drainRow .e2m1 ≤ 16384 ∧ 8192 + 2048 ≤ 16384 ∧ (wM 0 0).getS 4 = 0xFFFFFFFF) ∧
    (Issues (st (wM 0 0)) 0 (wM 0 0) (.mdrain .f32 3 0 false true) ∧ ¬drainRow .f32 ≤ uv ((wM 0 0).getS 1)) ∧
    (Issues (stM w0 [mop .zero true]) 0 w0 (.mwait 3) ∧ (∃ o ∈ [mop .zero true], o.team = 0 ∧ o.tile = 3)) ∧
    (Issues (stM w0 [mop .zero true]) 0 w0 (.mwait 7) ∧ w0.hold = none ∧ ∀ o ∈ [mop .zero true], ¬(o.team = 0 ∧ o.tile = 7)) ∧
    (let v : Wave := { w0 with view := some ⟨0, [], 2, [1], [], [], []⟩ }
     let s (w : Wave) : State := { st w with pairs := [(0, { settled := [mop .zero true] })] }
     Issues (s v) 0 v (.mwait 3) ∧ Issues (s w0) 0 w0 (.mwait 3) ∧ (∃ o ∈ [mop .zero true], o.tile = 3 ∧ o.id ∈ [1]) ∧ w0.view = none) ∧
    (let h : State := { stM w0 (List.replicate 8 (mop .zero false)) with teams := [(0, { bareTeam with haltP := true })] }
     Issues h 0 w0 (.mzero 3) ∧ MayQueue h w0) := by
  refine ⟨⟨issues_of ?_, ?_⟩, ⟨issues_of ?_, ?_⟩, ⟨issues_of ?_, ?_⟩, ⟨issues_of ?_, ?_⟩, ?_, ⟨issues_of ?_, ?_⟩, ⟨issues_of ?_, ?_, ?_⟩,
    ⟨issues_of ?_, ?_⟩, ⟨issues_of ?_, ?_⟩, ⟨issues_of ?_, ?_, ?_⟩, ⟨issues_of ?_, issues_of ?_, ?_, rfl⟩, issues_of ?_, ?_⟩
  case refine_9 =>
    intro x hx
    simp only [List.mem_cons, List.not_mem_nil, or_false] at hx
    rcases hx with rfl | rfl | rfl | rfl <;> exact ⟨issues_of (by decide +kernel), by decide +kernel⟩
  all_goals first | decide +kernel | (unfold MayQueue RoomInPair; decide +kernel)

theorem starts_of {s : State} {key : Nat} {p : Pair} {o : MatOp} (hp : Tbl.find s.pairs key = some p) (hq : p.queue = [o])
    (h : o.started = false ∧ (o.needsReady = true → o.opened = true) ∧ o.dirtyA = 0 ∧ o.dirtyB = 0 ∧ o.touched = [])
    (he : s.engineRuns (key / 160) = true) : Starts s key p o :=
  ⟨hp, by simp [hq, h.1], h.2.1, by simp [hq, h.1], he, by simp [hq], h.2.2⟩

/-- MZERO, MMA of OB8 and of BF16 and MDRAIN start; an MMA waits for its ready fence; one retires, with ACCOVF. -/
theorem test_witness_MatrixOperationsStartAndRetire :
    (∀ k ∈ [MatKind.zero, .mma .ob8 0 false 0 0 {} 0 0 {}, .mma .bf16 0 true 0 0 {} 0 0 {}, .drain .e2m1 false true 0 64 8192 0 0xFFFFFFFF],
      Starts (stM w0 [mop k false]) 0 { queue := [mop k false] } (mop k false) ∧ NoneStarted (stM w0 [mop k false])) ∧
    drainRow .e2m1 ≤ uv (64 : Word) ∧ uv (0 : Word) + 127 * uv (64 : Word) + drainRow .e2m1 ≤ uv (8192 : Word) ∧
    (uv (0 : Word) + 127 * uv (64 : Word) + drainRow .e2m1 ≤ uv (12288 : Word) ∧ uv (8192 : Word) + 2048 ≤ uv (12288 : Word)) ∧
    (let o : MatOp := { mop (.mma .ob8 0 false 0 0 {} 0 0 {}) false with opened := false }
     Tbl.find (stM w0 [o]).pairs 0 = some { queue := [o] } ∧ o.needsReady = true ∧ o.opened = false) ∧
    (let o : MatOp := { mop .zero true with ovf := true }
     Tbl.find (stM w0 [o]).pairs 0 = some { queue := [o] } ∧ [o].find? (·.started) = some o) := by
  refine ⟨?_, by decide, by decide +kernel, by decide +kernel, ⟨rfl, rfl, rfl⟩, rfl, rfl⟩
  intro k hk
  refine ⟨starts_of rfl rfl ⟨rfl, fun _ => rfl, rfl, rfl, rfl⟩ rfl, ?_⟩
  intro p hp o ho
  simp only [stM, List.mem_cons, List.not_mem_nil, or_false] at hp
  subst hp
  simp only [List.append_nil, List.mem_cons, List.not_mem_nil, or_false] at ho
  subst ho; rfl

/-! ### Remote operations -/

/-- A state with one peer, device 1, whose virtual function 0 is bound to the local one. -/
def stP (w : Wave) (x : Peer) : State := { stX w true true with peers := [(1, x)] }
def peer1 : Peer := { link := .up, full := BitVec.allOnes 64, tx := BitVec.allOnes 64, rx := BitVec.allOnes 64, bind := [(0, 0)] }
/-- Target 1, address ra, and the options of 64 bytes or of an atomic. -/
def wR (ra o : Word) : Wave := { w0 with s := [(8, 1), (9, ra), (20, o)] }
def fR : FxOp := ⟨8, 20, 0, none⟩

theorem remoteLegal_of {s : State} {w : Wave} {f : FxOp} {r : RemOp} (h : (r.target = s.dev ∨ (r.target < s.devs ∧ s.peer r.target ≠ none)) ∧
    (w.getS64 (f.sbase.toNat + 1)).getLsbD 63 = false ∧ r.ra % 4 = 0 ∧ (r.col = 3 → uv (w.getS f.sparm.toNat) < 32 ∧ r.aop < 13) ∧
    (r.col ≠ 3 → uv (w.getS f.sparm.toNat) % 16 = 0 ∧ r.flg = 0 ∧ r.len % 4 = 0 ∧ r.len ≤ 4096 ∧ uv r.round = 0 ∧
      (r.src.win = true → r.src.addr + r.len ≤ (s.hdr w.kern).window))) : RemoteLegal s w f r := by
  obtain ⟨h1, h2, h3, h4, h5⟩ := h
  refine ⟨h1, h2, h3, h4, fun hc => ?_⟩
  obtain ⟨a, b, c, d, e, i⟩ := h5 hc
  exact ⟨by omega, .inl b, fun _ => b, fun _ => by omega, c, fun _ => d, fun _ => by simp [e], i⟩

/-- Every word with legal operands; RATOM.cas with a register run beyond S31; an address that is not aligned; a source that an extent
forbids; a retired handle; a barrier that is not set up; a device that cannot be reached; RWAIT before and behind a remote operation. -/
theorem test_witness_RemoteWordsAppendTheirOperation :
    (∀ p ∈ [(Instr.rst fR, 0, (0x1000 : Word)), (.rld fR, 1, 0x40000), (.rred fR, 2, 0x1000), (.ratom fR, 3, 0x1C), (.rcpy fR, 4, 0x1000)],
      Issues (stP (wR 0 p.2.2) peer1) 0 (wR 0 p.2.2) p.1 ∧ RemoteLegal (stP (wR 0 p.2.2) peer1) (wR 0 p.2.2) fR (remoteOp (wR 0 p.2.2) fR p.2.1)) ∧
    (RemoteWord fR (.rst fR) 0 ∧ RemoteWord fR (.rld fR) 1 ∧ RemoteWord fR (.rred fR) 2 ∧ RemoteWord fR (.ratom fR) 3 ∧ RemoteWord fR (.rcpy fR) 4) ∧
    Takes (wR 0 0) 0 ∧ (stP (wR 0 0) peer1).peer 1 = some peer1 ∧ peer1.reach ≠ .unreachable ∧
    (let w : Wave := { w0 with s := [(12, 12)] }
     let f : FxOp := ⟨28, 12, 0, none⟩
     Issues (stP w peer1) 0 w (.ratom f) ∧ (remoteOp w f 3).aop = 12 ∧ 27 < f.sbase.toNat) ∧
    (let w : Wave := { w0 with s := [(20, 12)], pend := [(.s 12, 0)] }
     Issues (stP w peer1) 0 w (.ratom fR) ∧ (remoteOp w fR 3).aop = 12 ∧ ∃ p ∈ w.pend, p.1 = .s (fR.sbase.toNat + 4)) ∧
    (Issues (stP (wR 2 0) peer1) 0 (wR 2 0) (.rst fR) ∧ ¬RemoteLegal (stP (wR 2 0) peer1) (wR 2 0) fR (remoteOp (wR 2 0) fR 0)) ∧
    (let s : State := { stP (wR 0 0x1000) peer1 with kernels := [(0, kX false true)] }
     Issues s 0 (wR 0 0x1000) (.rcpy fR) ∧ (remoteOp (wR 0 0x1000) fR 4).src.win = false ∧ (s.hdr 0).forbids 0 64 false = true) ∧
    Issues (stP (wR 0 0) peer1) 0 (wR 0 0) (.rst { fR with hnd := 15 }) ∧ Issues (stP (wR 0 0) peer1) 0 (wR 0 0) (.rst { fR with bar := some 1 }) ∧
    (Issues (stP (wR 0 0) { peer1 with reach := .unreachable }) 0 (wR 0 0) (.rst fR) ∧
      ((stP (wR 0 0) { peer1 with reach := .unreachable }).peer 1).map (·.reach) = some .unreachable) ∧
    Issues (st w0) 0 w0 (.rwait true 30 0) ∧ Issues (st w0) 0 w0 (.rwait false 0 15) ∧
    (Issues (st (wE (.remote 7))) 0 (wE (.remote 7)) (.rwait false 0 0) ∧ performed (st (wE (.remote 7))) 0 (wE (.remote 7)) 0 = false) := by
  refine ⟨?_, ⟨.rst, .rld, .rred, .ratom, .rcpy⟩, ?_, rfl, nofun, ⟨issues_of ?_, ?_, ?_⟩,
    ⟨⟨⟨rfl, rfl, rfl, rfl⟩, .inr ?_, .inl rfl, nofun⟩, ?_, _, List.mem_cons_self, rfl⟩, ⟨issues_of ?_, ?_⟩, ⟨issues_of ?_, ?_, ?_⟩, issues_of ?_,
    issues_of ?_, ⟨issues_of ?_, rfl⟩, issues_of ?_, issues_of ?_, issues_of ?_, ?_⟩
  · intro p hp
    simp only [List.mem_cons, List.not_mem_nil, or_false] at hp
    rcases hp with rfl | rfl | rfl | rfl | rfl <;>
      exact ⟨issues_of (by decide +kernel), remoteLegal_of (by decide +kernel)⟩
  all_goals first | decide +kernel | (unfold Takes; decide +kernel) | exact fun h => absurd h.2.2.1 (by decide +kernel)

/-- A packet of device 1: an RST of 64 bytes, a RATOM, an RST to an ABSENT page, and a notice. -/
def pkt (kind : Nat) (pl : List Byte) (k : Option Nat) : Packet := { head := { bareFlit kind with src := 1, payload := pl }, data := [], kern := k }
def reqPl (col ra : Nat) : List Byte := bytesOf 1 col ++ bytesOf 3 0 ++ bytesOf 4 64 ++ bytesOf 8 ra
def stK (p : Packet) : State := { stP w0 peer1 with channels := [(2, { src := 1, halo := false, vf := 0, tag := 0, gen := 0, pkts := [p] })] }
def remX (col : Nat) (sent : Nat) (done : NMap (Option Nat)) : RemOp := {
  col := col, target := 1, ra := 0, src := ⟨true, 0⟩, len := 64, flg := 0, opts := 0, flag := 0, round := 0, aop := 0, ret := true, a := 0, b := 0
  dreg := 11, sent := sent, done := done }
def opM (r : RemOp) : Op := { opC .running with k := .remote r }
def stRem (r : RemOp) : State := { stP (wO .handedOff) peer1 with ops := [(7, opM r)], serial := 8 }
def stPk (p : Packet) (c : Ctx) : State := { stK p with parked := [{ chan := 2, pkt := p, vf := 0, page := 1 }], ctxs := [(0, c)] }

/-- A run of two devices, each of one cell, that read each other. -/
def kH : Kernel := { bareKernel with hdr := { widths := [0, 0, 0, 0, 0, 1], axes := [41, 0, 0] } }

/-- The flag of an operation: none, a word, a word that is not aligned, a barrier of the run's one team, and of a team beyond it. -/
theorem test_witness_flags : let h := (kX true true).hdr
    FlagLegal h (remX 0 0 []) ∧ FlagLegal h { remX 0 0 [] with flg := 1, flag := 0x7FFFFFFFFFFFFFF8 } ∧
    ¬FlagLegal h { remX 0 0 [] with flg := 1, flag := 4 } ∧ FlagLegal h { remX 0 0 [] with flg := 2, flag := 0 } ∧
    ¬FlagLegal h { remX 0 0 [] with flg := 3 } := by
  unfold FlagLegal; decide +kernel

def chX (p : Packet) : Channel := { src := 1, halo := false, vf := 0, tag := 0, gen := 0, pkts := [p] }
theorem foremost_of (p : Packet) (s : State) (hc : Tbl.find s.channels 2 = some (chX p)) (hp : s.parked = []) (hs : uv p.head.src ≠ s.dev) :
    Foremost s 2 (chX p) p [] := ⟨hc, rfl, by simp [hp], hs⟩
theorem oldest_of (p : Packet) (h : skipped (chX p) p = false) (hv : (stK p).localVf p = some 0) (hs : uv p.head.src ≠ 0) :
    Oldest (stK p) 2 (chX p) p [] 0 := ⟨foremost_of p _ rfl rfl hs, h, hv⟩

/-- No channel, a channel without a packet, a parked packet; a packet whose operation ended before it; one of no bound virtual function. -/
theorem test_witness_PacketsArePerformedAndAcknowledged_first :
    Tbl.find (st w0).channels 2 = none ∧ (∃ x ∈ (stPk (pkt 2 (reqPl 0 256) none) bareCtx).parked, x.chan = 2) ∧
    (let p := pkt 2 (reqPl 4 256) none
     let c : Channel := { chX p with skip := some (256, none) }
     let s : State := { stK p with channels := [(2, c)] }
     Foremost s 2 c p [] ∧ skipped c p = true ∧ skipped (chX p) p = false) ∧
    (let p := pkt 2 (reqPl 0 256) none
     let s : State := { stK p with peers := [(1, { peer1 with bind := [] })] }
     Foremost s 2 (chX p) p [] ∧ s.localVf p = none) ∧
    (∀ p ∈ [pkt 2 (reqPl 0 256) none, pkt 2 (reqPl 3 256) none, pkt 2 (reqPl 0 65536) none, pkt 5 [] (some 0), pkt 6 [] (some 0), pkt 7 [] (some 0)],
      Oldest (stK p) 2 (chX p) p [] 0) := by
  refine ⟨rfl, ⟨_, List.mem_cons_self, rfl⟩, ⟨⟨rfl, rfl, nofun, by decide⟩, ?_⟩, ⟨foremost_of _ _ rfl rfl (by decide), ?_⟩, ?_⟩
  case refine_3 =>
    intro p hp
    simp only [List.mem_cons, List.not_mem_nil, or_false] at hp
    rcases hp with rfl | rfl | rfl | rfl | rfl | rfl <;> exact oldest_of _ (by decide +kernel) (by decide +kernel) (by decide +kernel)
  all_goals decide +kernel

/-- A request with options, length, flag and round. -/
def reqF (col opts len ra flag round : Nat) : List Byte :=
  bytesOf 1 col ++ bytesOf 1 opts ++ bytesOf 2 0 ++ bytesOf 4 len ++ bytesOf 8 ra ++ bytesOf 8 flag ++ bytesOf 4 round
def reqOf (p : Packet) : Req := Req.of p.head
def meetsOf (s : State) (p : Packet) : Meets × Nat := targetMeets s (s.targetRun p 0) 0 (reqOf p).access

theorem flagFree_of {s : State} {run : TargetRun} {r : Req} (h : r.flg ≠ 2) : FlagFree s run r := fun e => absurd e h
theorem flagFree_run {s : State} {run : TargetRun} {r : Req} {k : Nat} (hr : run = .run k)
    (h : ∀ x ∈ s.teams, FlagTeam k r x = true → x.2.st ≠ .pending) : FlagFree s run r :=
  fun _ => ⟨by rw [hr]; nofun, fun j hj => by rw [hr] at hj; cases hj; exact h⟩

/-- A store without a flag, with a flag word at the end of the page, and with a barrier flag, of a team that runs in either mode and of one
that has ENDED; a run that is over and one that is not there yet; a load, an atomic. A page that is ABSENT, one that migrates, a full table. -/
theorem test_witness_PacketsArePerformedAndAcknowledged_requests :
    (∀ p ∈ [pkt 2 (reqF 0 0 64 256 0 0) none, pkt 2 (reqF 4 0x10 64 256 65528 0) none, pkt 2 (reqF 1 0 64 65472 0 0) none, pkt 2 (reqF 3 0 0 256 0 0) none],
      Requests (stK p) 0 p ∧ NoPlanRuns (stK p) ∧ meetsOf (stK p) p = (.ok, 0)) ∧
    (∀ st ∈ [TeamSt.resident, .ended], ∀ det : Bool, let p := pkt 2 (reqF 0 0x20 64 256 0 0) (some 0)
      let s : State := { stK p with
        teams := [(0, { tmD with st := st })]
        kernels := [(0, { kX true true with hdr := { (kX true true).hdr with modew := if det then 0x10 else 0 } })] }
      Requests s 0 p ∧ s.targetRun p 0 = .run 0 ∧ (s.hdr 0).det = det ∧
      s.teams.filter (FlagTeam 0 (reqOf p)) = [(0, { tmD with st := st })] ∧ meetsOf s p = (.ok, 0)) ∧
    ((stK (pkt 2 (reqF 0 0x20 64 256 0 0) (some 5))).targetRun (pkt 2 (reqF 0 0x20 64 256 0 0) (some 5)) 0 = .past ∧
      Requests (stK (pkt 2 (reqF 0 0x20 64 256 0 0) (some 5))) 0 (pkt 2 (reqF 0 0x20 64 256 0 0) (some 5))) ∧
    ((stK (pkt 2 (reqF 0 0x20 64 256 0 0) none)).targetRun (pkt 2 (reqF 0 0x20 64 256 0 0) none) 0 = .absent ∧
      meetsOf (stK (pkt 2 (reqF 0 0x20 64 256 0 0) none)) (pkt 2 (reqF 0 0x20 64 256 0 0) none) = (.ok, 0)) ∧
    (meetsOf (stK (pkt 2 (reqPl 0 65536) none)) (pkt 2 (reqPl 0 65536) none) = (.fault 1, 2) ∧ (stK (pkt 2 (reqPl 0 65536) none)).hasRoom 0 1 2 = true ∧
      (stK (pkt 2 (reqPl 0 65536) none)).parked.length < 256) ∧
    (let s : State := { stK (pkt 2 (reqPl 0 65536) none) with
       parked := List.replicate 256 { chan := 3, pkt := pkt 2 [] none, vf := 0, page := 1 } }
     meetsOf s (pkt 2 (reqPl 0 65536) none) = (.fault 1, 2) ∧ 256 ≤ s.parked.length) ∧
    (let s : State := { stK (pkt 2 (reqPl 0 256) none) with ctxs := [(0, cM)] }
     (meetsOf s (pkt 2 (reqPl 0 256) none)).1 = .waits) := by
  refine ⟨?_, ?_, ⟨by decide +kernel, by decide +kernel, .inr (.inr ⟨.inl (by decide +kernel), fun _ => ⟨by decide +kernel, fun k hk => ?_⟩⟩)⟩, ?_, ?_, ?_, ?_⟩
  · intro p hp
    simp only [List.mem_cons, List.not_mem_nil, or_false] at hp
    rcases hp with rfl | rfl | rfl | rfl
    · exact ⟨⟨by decide +kernel, .inr (.inr ⟨.inl (by decide +kernel), flagFree_of (by decide +kernel)⟩)⟩, by unfold NoPlanRuns; decide +kernel, by decide +kernel⟩
    · exact ⟨⟨by decide +kernel, .inr (.inr ⟨.inr (by decide +kernel), flagFree_of (by decide +kernel)⟩)⟩, by unfold NoPlanRuns; decide +kernel, by decide +kernel⟩
    · exact ⟨⟨by decide +kernel, .inl (by decide +kernel)⟩, by unfold NoPlanRuns; decide +kernel, by decide +kernel⟩
    · exact ⟨⟨by decide +kernel, .inr (.inl (by decide +kernel))⟩, by unfold NoPlanRuns; decide +kernel, by decide +kernel⟩
  · intro x hx det
    simp only [List.mem_cons, List.not_mem_nil, or_false] at hx
    rcases hx with rfl | rfl <;> cases det <;>
      exact ⟨⟨by decide +kernel, .inr (.inr ⟨.inl (by decide +kernel), flagFree_run (k := 0) (by decide +kernel) (by decide +kernel)⟩)⟩,
        by decide +kernel, by decide +kernel, by decide +kernel, by decide +kernel⟩
  · have h : (stK (pkt 2 (reqF 0 0x20 64 256 0 0) (some 5))).targetRun (pkt 2 (reqF 0 0x20 64 256 0 0) (some 5)) 0 = .past := by decide +kernel
    rw [h] at hk; cases hk
  all_goals decide +kernel

/-- A round of device 2 and one more; the contribution that joins or completes it, one of its own source, and one of another length; a round
of one. -/
def parts2 (len : Nat) : Contrib := ⟨2, { pkt 2 (reqF 2 0 len 256 0 1) none with head := { (pkt 2 (reqF 2 0 len 256 0 1) none).head with src := 2 } }⟩
def stRed (src len exp : Nat) : State :=
  let p := pkt 2 (reqF 2 0 64 256 0 1) none
  { stK p with rounds := [(9, ⟨0, 256, 0, exp, [{ parts2 len with src := src }]⟩)], serial := 10 }

theorem may_one {s : State} {p : Packet} {k : Nat} {x : RedRound}
    (h : s.rounds.filter (fun x => x.2.vf == 0 && x.2.ra == (reqOf p).ra && x.2.round == (reqOf p).round / 256) = [(k, x)]) (hx : x.parts ≠ [])
    (hg : x.exp ≤ x.parts.length + 1 →
      targetMeets s (s.targetRun p 0) 0 ((x.parts ++ [(⟨uv p.head.src, p⟩ : Contrib)]).flatMap (fun c => (Req.of c.pkt.head).access)) = (.ok, 0) ∧
      ∀ c ∈ x.parts ++ [(⟨uv p.head.src, p⟩ : Contrib)], (Req.of c.pkt.head).flg ≠ 2) : MayContribute s 0 p := by
  unfold MayContribute
  simp only [reqOf] at h
  simp only [h]
  exact ⟨hx, fun e => ⟨(hg e).1, fun c hc => flagFree_of ((hg e).2 c hc)⟩⟩

theorem test_witness_PacketsArePerformedAndAcknowledged_rounds :
    let p := pkt 2 (reqF 2 0 64 256 0 1) none
    (∀ x ∈ [(2, 64, 2), (2, 64, 3), (1, 64, 3), (2, 32, 3)], MayContribute (stRed x.1 x.2.1 x.2.2) 0 p ∧ meetsOf (stRed x.1 x.2.1 x.2.2) p = (.ok, 0)) ∧
    (let q := pkt 2 (reqF 2 0 64 256 0 0) none
     (stK q).rounds = [] ∧ (∀ y ∈ (stK q).rounds, y.1 ≠ (stK q).serial) ∧ (reqOf q).round % 16 = 0 ∧ (reqOf p).round % 16 = 1 ∧ meetsOf (stK q) q = (.ok, 0) ∧
     MayContribute (stK q) 0 q ∧ MayContribute (stK p) 0 p ∧ (stK q).vread 0 (reqOf q).ra (reqOf q).destLen ≠ none ∧ (reqOf q).flg < 2) := by
  intro p
  refine ⟨?_, rfl, nofun, by decide +kernel, by decide +kernel, by decide +kernel, ?_, ?_, by decide +kernel, by decide +kernel⟩
  · intro x hx
    simp only [List.mem_cons, List.not_mem_nil, or_false] at hx
    rcases hx with rfl | rfl | rfl | rfl
    · exact ⟨may_one (k := 9) (x := ⟨0, 256, 0, 2, [{ parts2 64 with src := 2 }]⟩) (by decide +kernel) nofun (by decide +kernel), by decide +kernel⟩
    · exact ⟨may_one (k := 9) (x := ⟨0, 256, 0, 3, [{ parts2 64 with src := 2 }]⟩) (by decide +kernel) nofun (by decide +kernel), by decide +kernel⟩
    · exact ⟨may_one (k := 9) (x := ⟨0, 256, 0, 3, [{ parts2 64 with src := 1 }]⟩) (by decide +kernel) nofun (by decide +kernel), by decide +kernel⟩
    · exact ⟨may_one (k := 9) (x := ⟨0, 256, 0, 3, [{ parts2 32 with src := 2 }]⟩) (by decide +kernel) nofun (by decide +kernel), by decide +kernel⟩
  · unfold MayContribute
    exact ⟨by decide, fun _ => ⟨by decide +kernel, fun c hc => flagFree_of (by obtain rfl := List.mem_singleton.1 hc; decide +kernel)⟩⟩
  · unfold MayContribute
    exact ⟨by decide, fun h => absurd h (by decide +kernel)⟩

/-- A pass to a wave with and without room in its team's table, to a DONE one, to a team that is not placed, to a run that is over and to none
yet; halo values and notices alike. -/
theorem test_witness_PacketsArePerformedAndAcknowledged_halo :
    (∀ k ∈ [5, 6, 7], (stK (pkt k [] none)).targetRun (pkt k [] none) 0 = .absent ∧ (stK (pkt k [] (some 5))).targetRun (pkt k [] (some 5)) 0 = .past ∧
      (stK (pkt k [] (some 0))).targetRun (pkt k [] (some 0)) 0 = .run 0 ∧ uv (pkt k [] none).head.kind = k) ∧
    (let p := pkt 5 (bytesOf 8 0) (some 0)
     let s (w : Wave) (tm : Team) : State := { stK p with waves := [(0, w)], teams := [(0, tm)] }
     let rec1 : PassRec := ⟨1, 0, 0, some 0, 0⟩
     let full : Team := { tmD with passes := List.replicate 16 rec1 }
     (s w0 tmD).teamOf 0 0 = some (0, tmD) ∧ ((s w0 tmD).waveAt 0 0).isSome = true ∧ passRoom (s w0 tmD) 0 tmD rec1 = true ∧
     passRoom (s w0 full) 0 full rec1 = false ∧ ((s { w0 with st := .done } tmD).waveAt 0 0).map (fun y => y.2.st) = some .done ∧
     (s w0 { tmD with st := .pending }).teamOf 0 0 = some (0, { tmD with st := .pending })) ∧
    ((stK (pkt 7 [] (some 0))).kern 0 = some (kX true true)) ∧
    (0 ∈ kH.readingDies 0 (1 * kH.hdr.cells + 0) ∧ ({ stK (pkt 7 (bytesOf 8 1) (some 0)) with kernels := [(0, kH)] }.targetRun
      (pkt 7 (bytesOf 8 1) (some 0)) 0 = .run 0)) ∧
    (let kP : Kernel := { kH with hdr := { kH.hdr with publish := 1 } }
     let pl := bytesOf 8 1 ++ bytesOf 4 0 ++ bytesOf 4 1
     let p : Packet := { pkt 6 pl (some 0) with data := bytesOf 4 0 ++ bytesOf 4 7 }
     natAt p.head.payload 12 4 = 1 ∧ kP.hdr.pubs[0]? = some 0 ∧ natAt p.data 0 4 = 0 ∧ 0 ∈ kP.readingDies 0 (1 * kP.hdr.cells + 0)) := by
  decide +kernel

theorem test_witness_PacketsArePerformedAndAcknowledged :
    ((bareCtx.page 1).st ≠ .fetching ∧ (cF.page 1).st = .fetching ∧ (stPk (pkt 2 (reqPl 0 65536) none) bareCtx).ctx 0 = some bareCtx ∧
      (stPk (pkt 2 (reqPl 0 65536) none) bareCtx).localVf (pkt 2 (reqPl 0 65536) none) = some 0 ∧
      (let c : Ctx := { bareCtx with pages := (1, { noback := true }) :: bareCtx.pages }
       meetsOf (stPk (pkt 2 (reqPl 0 65536) none) c) (pkt 2 (reqPl 0 65536) none) = (.fault 1, 2) ∧ (c.page 1).usable = false ∧ (c.page 1).noback = true ∧
       (bareCtx.page 1).noback = false ∧ (stPk (pkt 2 (reqPl 0 65536) none) bareCtx).hasRoom 0 1 2 = true) ∧
      (∀ p ∈ [pkt 2 (reqPl 0 65536) none, pkt 2 (reqPl 0 256) none], (stPk p bareCtx).parked.find? (fun y => y.chan == 2) = some ⟨2, p, 0, 1, false⟩) ∧
      meetsOf (stPk (pkt 2 (reqPl 0 256) none) bareCtx) (pkt 2 (reqPl 0 256) none) = (.ok, 0) ∧
      (meetsOf (stPk (pkt 2 (reqPl 0 256) none) cM) (pkt 2 (reqPl 0 256) none)).1 = .waits ∧
      ((stPk (pkt 2 (reqPl 0 65536) none) bareCtx).parked.filter (fun y => y.chan != 3)).length = 1) ∧
    (∀ src ∈ [(⟨true, 0⟩ : Place), ⟨false, 0⟩], let r : RemOp := { remX 4 0 [] with src := src }
      (stRem r).op 7 = some (opM r) ∧ r.dropped = false ∧ r.sent < r.count ∧ (stRem r).handedRuns 0 = true ∧
      (src.win = false → (stRem r).meet 0 0 64 false = .ok) ∧
      (stRem r).accepts 1 ((opM r).packet r 7 0 ((stRem r).seqGen 0 ((wO .handedOff).seqAt 0)) 0 (List.replicate 64 0)) = true) ∧
    (let r : RemOp := { remX 4 0 [] with src := ⟨false, 65536⟩ }
     (stRem r).meet 0 65536 64 false = .fault 1 ∧ (stRem r).hasRoom 0 1 1 = true ∧ ({ stRem r with ctxs := [(0, cM)] } : State).meet 0 0 64 false = .waits) ∧
    ((({ stRem (remX 4 0 []) with peers := [(1, { peer1 with reach := .unreachable })] } : State).peer 1).map (·.reach) = some .unreachable ∧
      ({ stRem (remX 4 0 []) with peers := [(1, { peer1 with reach := .resync })] } : State).accepts 1 (pkt 2 [] none) = false) ∧
    (packetOf 256 4096 0 = (0, 4096) ∧ packetOf 256 4097 0 = (0, 3840) ∧ packetOf 256 4097 1 = (3840, 257) ∧ packetOf 0 8192 1 = (4096, 4096)) ∧
    (∀ col ∈ [1, 3, 4], (remX col 1 [(0, some 0)]).past = true ∧ (∀ j, j < 1 → NMap.get none (remX col 1 [(0, some 0)]).done j = some 0) ∧
      (remX col 1 [(0, some 0)]).dropped = false) ∧
    ((remX 4 1 []).past = false ∧ (opD).st ≠ .running) ∧
    (let s : State := { stRem (remX 1 1 [(0, some 0)]) with
       kernels := [(0, { kX true true with hdr := { (kX true true).hdr with modew := 0x10 } })], teams := [(0, { tmD with turn := 2 })] }
     (s.hdr 0).det = true ∧ s.team 0 = some { tmD with turn := 2 } ∧ 2 = (s.hdr 0).waves + 1 ∧ tmD.turn ≠ (s.hdr 0).waves + 1) ∧
    (wO .handedOff).st ≠ .draining ∧ NoneStarted (stRem (remX 1 1 [(0, some 0)])) := by
  refine ⟨?_, ?_, ?_, ?_, ?_, ?_, ?_, ?_, nofun, noneStarted_of rfl⟩ <;> decide +kernel

/-! ### Swage -/

/-- Three extents: two for shards of one element, and one for a plan at 131072. -/
def kW (det : Bool) : Kernel := { bareKernel with hdr := {
  codebase := 0x8000, window := 16384, modew := if det then 0x10 else 0
  exts := [⟨0, 1, true, true, false⟩, ⟨65536, 1, true, true, false⟩, ⟨131072, 1, true, true, false⟩] } }
/-- Two layout records, at window offsets 0 and 128, of one element at a time in extents 0 and 1. -/
def layoutBytes (b x : Nat) : NMap Byte := [(b, 1), (b + 1, 1), (b + 3, 1), (b + 4, 1), (b + 5, 1), (b + 6, 1), (b + 8, 1)] ++
  (List.range 4).map (fun i => (b + 0x28 + i, 255)) ++ [(b + 0x30, BitVec.ofNat 8 x)] ++ (List.range 15).map (fun i => (b + 0x31 + i, 255))
def tmW : Team := { bareTeam with win := layoutBytes 0 0 ++ layoutBytes 128 1 }
/-- S0 and S1 name the records, S2 and S3 the plan, S4 the size of its area; S8 the plan of SWGO. -/
def wW (a : Word) : Wave := { w0 with s := [(1, 128), (2, a), (4, 0x2000), (8, a)] }
def stW (w : Wave) (tm : Team) (det : Bool) (ps : Tbl Plan) : State := { st w with kernels := [(0, kW det)], teams := [(0, tm)], plans := ps }
def planX (x : Nat) : Plan := { vf := 0, st := x, nown := 2, wave := some 0, segs := [⟨⟨0, 64, 64⟩, 0, 0⟩, ⟨⟨128, 192, 64⟩, 0, 0⟩] }

/-- An address that is not aligned; an area of no extent; records that an older store touches; a status at once; a plan; a plan that
is made; a plan to be written; SWSTAT of an address that is not aligned, of a plan, and in deterministic mode. -/
theorem test_witness_SwagePlansAreGeneratedAndRead :
    (Issues (stW (wW 1) tmW false []) 0 (wW 1) (.swplan 0 4) ∧ ¬PlanAddress ((wW 1).getS64 2)) ∧
    (Issues (st (wW 131072)) 0 (wW 131072) (.swplan 0 4) ∧ PlanAddress ((wW 131072).getS64 2) ∧
      planArea k0.hdr 131072 0x2000 = false) ∧
    planArea (kW false).hdr 131072 0x2000 = true ∧
    (let w : Wave := { wW 131072 with seqs := (wE (.access (acc1 .store 4 true false))).seqs, nextId := 1 }
     Issues (stW w tmW false []) 0 w (.swplan 0 4) ∧ w.hold = none ∧
     ¬∀ id ∈ olderOn (stW w tmW false []) 0 w [(0, 128), (128, 128)], performed (stW w tmW false []) 0 w id = true) ∧
    (Issues (stW (wW 131072) bareTeam false []) 0 (wW 131072) (.swplan 0 4) ∧
      swplanAnswer 0 0x2000 (stW (wW 131072) bareTeam false []) (wW 131072) = (1, none, none)) ∧
    (Issues (stW (wW 131072) tmW false []) 0 (wW 131072) (.swplan 0 4) ∧
      (swplanAnswer 0 0x2000 (stW (wW 131072) tmW false []) (wW 131072)).2.2.isSome = true ∧
      (∀ id ∈ olderOn (stW (wW 131072) tmW false []) 0 (wW 131072) [(0, 128), (128, 128)],
        performed (stW (wW 131072) tmW false []) 0 (wW 131072) id = true ∧ (wW 131072).saw id = true)) ∧
    (Issues (stW (wW 131072) tmW false [(131072, planX 6)]) 0 (wW 131072) (.swplan 0 4) ∧
      Tbl.find (stW (wW 131072) tmW false [(131072, planX 6)]).plans (planAt (stW (wW 131072) tmW false []) (wW 131072) 131072) = some (planX 6) ∧
      (planX 6).st = 6 ∧ (planX 6).wave = some 0 ∧ (wW 131072).hold = none) ∧
    (let w : Wave := { wW 131072 with hold := some ⟨0, [], [1], none⟩ }
     Issues (stW w tmW false [(131072, planX 1)]) 0 w (.swplan 0 4)) ∧
    ((stW w0 tmW false [(131072, planX 6)]).plans.find? (fun x => x.2.st == 6 && x.2.wave == some 0) = some (131072, planX 6) ∧
      NoPlanRuns (stW w0 tmW false [(131072, planX 6)]) ∧ (stW w0 tmW false [(131072, planX 6)]).guarded 0 131072 64 = false) ∧
    (∀ x ∈ (stW w0 tmW false [(131072, planX 1)]).plans, x.2.st ≠ 6 ∨ x.2.wave ≠ some 0) ∧
    (Issues (stW (wW 1) tmW false []) 0 (wW 1) (.swstat 2) ∧ ¬PlanAddress ((wW 1).getS64 2)) ∧
    (Issues (stW (wW 131072) tmW false [(131072, planX 2)]) 0 (wW 131072) (.swstat 2) ∧
      planHeader (stW (wW 131072) tmW false [(131072, planX 2)]) 131072 = some (planX 2) ∧
      planHeader (stW (wW 131072) tmW false []) 131072 = none) ∧
    (Issues (stW (wW 131072) tmW true [(131072, planX 2)]) 0 (wW 131072) (.swstat 2) ∧ (kW true).hdr.det = true) := by
  have hb : ¬PlanAddress ((wW 1).getS64 2) := fun h => absurd h.2 (by decide +kernel)
  refine ⟨⟨issues_of ?_, hb⟩, ⟨issues_of ?_, ⟨?_, ?_⟩, ?_⟩, ?_, ⟨issues_of ?_, rfl, ?_⟩, ⟨issues_of ?_, ?_⟩, ⟨issues_of ?_, ?_, ?_⟩,
    ⟨issues_of ?_, ?_, ?_⟩, issues_of ?_, ⟨?_, by unfold NoPlanRuns; decide, ?_⟩, ?_, ⟨issues_of ?_, hb⟩, ⟨issues_of ?_, ?_⟩, issues_of ?_, ?_⟩ <;> decide +kernel

/-- An operation of a plan at the head of sequencer 0, and its plan of two segments in page 0, whose entries are zeros. -/
def swX (fl : List (Nat × BitVec 16)) : SwRun := { plan := 0, resume := false, rflg := false, fteam := 0, inflight := fl }
def opX (x : OpSt) (fl : List (Nat × BitVec 16)) : Op := { opC x with k := .swage (swX fl) }
def stS (o : Op) (e : EntrySt) (x : Nat) (det : Bool) : State := { stO o e with kernels := [(0, kW det)], plans := [(0, planX x)] }

theorem test_witness_SwagePlansRunStopAndResume :
    (Issues (stW (wW 131072) tmW false []) 0 (wW 131072) (.swgo fX) ∧ Takes (wW 131072) 0 ∧ PlanAddress ((wW 131072).getS64 8) ∧
      uv ((wW 131072).getS 12) / 2 = 0 ∧ planArea (kW false).hdr 131072 0x1040 = true) ∧
    (Issues (stW (wW 1) tmW false []) 0 (wW 1) (.swgo fX) ∧ ¬PlanAddress ((wW 1).getS64 8)) ∧
    (Issues (st (wW 131072)) 0 (wW 131072) (.swgo fX) ∧ planArea k0.hdr 131072 0x1040 = false) ∧
    (Issues (stW (wW 131072) tmW false []) 0 (wW 131072) (.swresume fX) ∧ resumedOp fX (stW (wW 131072) tmW false []) (wW 131072) = none) ∧
    (Issues (stS (opX .paused []) .paused 3 false) 0 (wO .paused) (.swresume fX) ∧
      resumedOp fX (stS (opX .paused []) .paused 3 false) (wO .paused) = some (7, opX .paused [], swX []) ∧
      PlanAddress ((wO .paused).getS64 8) ∧ planArea (kW false).hdr 0 0x1040 = true) ∧
    (Issues (st w0) 0 w0 (.swabort 15) ∧ (w0.getH 15).st = .retired) ∧ (Issues (st w0) 0 w0 (.swabort 0) ∧ swageAtHead (st w0) w0 0 = none) ∧
    (Issues (stS (opX .paused []) .paused 3 false) 0 (wO .paused) (.swabort 0) ∧
      swageAtHead (stS (opX .paused []) .paused 3 false) (wO .paused) 0 = some (7, opX .paused [], swX []) ∧
      NoPlanRuns (ran (.swabort 0) (stS (opX .paused []) .paused 3 false)) ∧
      (stS (opX .paused []) .paused 3 false).guarded 0 0 64 = false) ∧
    (Issues (stS (opX .paused []) .paused 3 true) 0 (wO .paused) (.swabort 0) ∧ (kW true).hdr.det = true) ∧
    (Issues (stS (opX .paused []) .paused 3 true) 0 (wO .paused) (.swresume fX) ∧
      resumedOp fX (stS (opX .paused []) .paused 3 true) (wO .paused) = some (7, opX .paused [], swX [])) ∧
    ((opX .running [(0, 0)]).st = .running ∧ (planX 2).dirty = [] ∧ (planX 2).spoiled = [] ∧
      (planX 2).segs[(planX 2).firstown + 0]? = some ⟨⟨0, 64, 64⟩, 0, 0⟩ ∧ (stS (opX .running [(0, 0)]) .handedOff 2 false).dev = 0 ∧
      (stS (opX .running [(0, 0)]) .handedOff 2 false).engineRuns 0 = true ∧
      unitsBusy (stS (opX .running [(0, 0)]) .handedOff 2 false) bareCtx.part < unitCount bareCtx.part ∧
      (∀ x ∈ (swX [(0, 0)]).inflight, x.1 ≠ 1) ∧ (∃ x ∈ (swX [(0, 0)]).inflight, x.1 = 0) ∧
      (∀ j, 0 ≤ j → j < 1 → (planX 2).donemask.getLsbD (j - 0) = true ∨ ∃ x ∈ (swX [(0, 0)]).inflight, x.1 = j) ∧
      (planX 2).segs[(planX 2).firstown + 1]? = some ⟨⟨128, 192, 64⟩, 0, 0⟩ ∧
      (kW false).hdr.forbids 128 64 false = false ∧ (kW false).hdr.forbids 192 64 true = false ∧
      (stS (opX .running [(0, 0)]) .handedOff 2 false).meetAll 0 [(128, 64, false), (192, 64, true)] = .ok) := by
  refine ⟨⟨issues_of ?_, ?_, ⟨?_, ?_⟩, ?_, ?_⟩, ⟨issues_of ?_, fun h => absurd h.2 ?_⟩, ⟨issues_of ?_, ?_⟩, ⟨issues_of ?_, ?_⟩,
    ⟨issues_of ?_, ?_, ⟨?_, ?_⟩, ?_⟩, ⟨issues_of ?_, ?_⟩, ⟨issues_of ?_, ?_⟩, ⟨issues_of ?_, ?_, by unfold NoPlanRuns; decide +kernel, ?_⟩, ⟨issues_of ?_, ?_⟩, ⟨issues_of ?_, ?_⟩, rfl, rfl, rfl, rfl, rfl, ?_, ?_, ?_,
    ⟨_, List.mem_cons_self, rfl⟩, fun j _ hj => .inr ⟨_, List.mem_cons_self, by omega⟩, rfl, ?_, ?_, ?_⟩
  all_goals first | decide +kernel | (unfold Takes; decide +kernel)

/-! ### Contexts, turns and the device -/

def stSt (x : Stage) : State := { st w0 with hearth := { stage := x } }
def cSt (x : CtxSt) : Ctx := { bareCtx with st := x }
/-- An empty and a filled queue of virtual function 0. -/
def stQs : State := { stP w0 peer1 with queues := [(0, { st := .opened, ents := [] }), (1, { st := .opened, ents := [0] })] }

/-- Each stage; a context in every state; a queue that is empty and one that is not; a running kernel; a peer with a binding; an
event record. -/
theorem test_witness_ContextsAreMadeReadAndTornDown :
    (VfCommand 1 0 (.ctxread 1 0) ∧ (∀ x : Stage, (stSt x).hearth.stage = x) ∧ MailFree (stSt .minimal) 1 ∧
      ¬MailFree { stSt .minimal with pendWrites := [⟨1, 0, 0, [0], []⟩] } 1 ∧ MailFree (st w0) 16 ∧
      ¬MailFree { st w0 with hearth := { stage := .full, attest := some [] } } 16) ∧
    Commands (st w0) 0 0 ∧ (∀ x : CtxSt, (stC (cSt x)).ctx 0 = some (cSt x)) ∧ (15 : BitVec 4) ∈ (st w0).hearth.parts ∧
    (100 ≤ 100 ∧ 2 * 50 ≤ 100 ∧ 100000 ≤ 100000) ∧ (1 < (stP w0 peer1).devs ∧ 0 < 16 ∧ 1 ≠ (stP w0 peer1).dev ∧ (stP w0 peer1).peer 1 ≠ none) ∧
    (1 ≤ 37500 ∧ ¬37501 ≤ 37500) ∧ MayQuench .halting ∧ ¬MayQuench .failed ∧
    ((stQs.kern 0).map (fun k => (k.vf, k.st)) = some (0, .running) ∧ (∀ q ∈ [0, 1], (stQs.queue q).vf = 0 ∧ (stQs.queue q).st ≠ .unbound) ∧
      (stQs.queue 0).ents = [] ∧ (stQs.queue 1).ents ≠ []) ∧
    ((stP w0 peer1).peer 1 = some peer1 ∧ ∃ b ∈ peer1.bind, b.2 = 0) ∧
    { st w0 with evring := [⟨0, 1, 1, 2, 64, 0, 0, 1, 0⟩] }.evring[0]? = some ⟨0, 1, 1, 2, 64, 0, 0, 1, 0⟩ := by
  refine ⟨⟨.ctxread, fun _ => rfl, ⟨nofun, nofun, by decide⟩, fun h => h.1 _ List.mem_cons_self rfl, ⟨nofun, nofun, fun _ => ⟨rfl, nofun⟩⟩,
      fun h => absurd (h.2.2 rfl).1 nofun⟩, commands_of rfl rfl rfl, fun _ => rfl, by decide, by decide, ⟨by decide, by decide, by decide, nofun⟩,
    by decide, by unfold MayQuench; decide, by unfold MayQuench; decide, ⟨rfl, by decide, rfl, by decide⟩,
    ⟨rfl, _, List.mem_cons_self, rfl⟩, rfl⟩

theorem waits_of {s : State} {part : BitVec 4} {vf : Nat} {c : Ctx} (h1 : c.st = .parked) (h2 : c.part = part)
    (h3 : s.kernels.any (fun x => x.2.vf == vf && x.2.st == .running) = true) : WaitsForTurn s part vf c := by
  refine ⟨h1, h2, .inl ?_⟩
  obtain ⟨x, hx, h⟩ := List.any_eq_true.1 h3
  simp only [Bool.and_eq_true, beq_iff_eq] at h
  exact ⟨x, hx, h⟩

/-- A context that restores one unit of its image, the first of memory, with a tag. -/
def cR (t : BitVec 64) : Ctx := { bareCtx with st := .restoring, save := [(0, t)] }
def tagR : BitVec 64 := tagOf bareCtx.key 0 bareCtx.savegen 0 ((st w0).hbm 0 4096)
theorem bit_off (t : BitVec 64) : t ≠ t + 1 := by intro h; bv_omega

/-- A context that is restored on core 0, where two images leave no room for those of a PARKED one, in a partition with and without a frame. -/
def stFull (parts : List (BitVec 4)) : State := { st w0 with
  hearth := { stage := .full, shape := parts, parts := parts }
  ctxs := [(0, cSt .restoring), (1, cSt .parked)]
  kernels := [(0, { bareKernel with hdr := { widths := [9, 1, 0, 0, 0, 0], modew := 15 } }), (1, { bareKernel with vf := 1 })]
  teams := [(0, bareTeam), (1, { bareTeam with kern := 1, vf := 1, haltP := true })]
  waves := [(0, w0), (1, { w0 with idx := 1 }), (2, { w0 with kern := 1, team := 1 })] }

theorem test_witness_ContextsTakeTurnsAndHalt_restored :
    ((stFull []).mayEvict 0 (allNeeds (stFull []) 0) = false ∧ (stFull [15]).mayEvict 0 (allNeeds (stFull [15]) 0) = true) ∧
    (let s := stC { cSt .restoring with save := [] }
     s.mayEvict 0 (allNeeds s 0) = true ∧ ∀ x ∈ allNeeds s 0, victims s 0 x.1 x.2 = []) := by decide +kernel

/-- A turn of the default length and one that is skipped; a second context that waits; a halt with and without an operation that is
under way, and with an overrun of four slices; an image that fails its tag and one that passes; idle engines, an engine that one
context is active on and that has spent its balance, and a second context that lends. -/
theorem test_witness_ContextsTakeTurnsAndHalt :
    (WaitsForTurn (stC (cSt .parked)) 15 0 (cSt .parked) ∧ (stC (cSt .parked)).partAt 0 = 15 ∧
      (∀ x ∈ (stC (cSt .parked)).ctxs, x.2.part = (stC (cSt .parked)).partAt 0 → x.2.st = .free ∨ x.2.st = .parked ∨ x.2.st = .failed ∨ x.2.st = .draining) ∧
      (∀ x ∈ (stC (cSt .parked)).ctxs, x.1 = 0) ∧
      (∀ d, d < 4 → ∀ x, (stC (cSt .parked)).dies[d]? = some x → x.held = false) ∧ Distinct (stC (cSt .parked)) ∧
      1000 * ((cSt .parked).grace : Int) ≤ turnTime (cSt .parked) ∧ (stC (cSt .parked)).hearth.failing = false) ∧
    turnTime { cSt .parked with debt := 800001 } < 1000 * ((cSt .parked).grace : Int) ∧
    (∀ x ∈ (st w0).ctxs, ¬WaitsForTurn (st w0) 15 x.1 x.2) ∧
    (let s : State := { st w0 with ctxs := [(0, bareCtx), (1, cSt .parked)], kernels := [(0, k0), (1, { k0 with vf := 1 })] }
     s.ctx 0 = some bareCtx ∧ bareCtx.st = .running ∧ ∃ x ∈ s.ctxs, x.1 ≠ 0 ∧ WaitsForTurn s bareCtx.part x.1 x.2) ∧
    (NoPlanGenerating (stC (cSt .yielding)) ∧ (stC (cSt .yielding)).ctx 0 = some (cSt .yielding) ∧ (stC (cSt .yielding)).wave 0 = some w0 ∧
      (stC (cSt .yielding)).team 0 = some bareTeam ∧ bareTeam.vf = 0 ∧ Distinct (stC (cSt .yielding)) ∧
      { stC (cSt .yielding) with teams := [(0, { bareTeam with vf := 1 })] }.team 0 = some { bareTeam with vf := 1 }) ∧
    (HaltDone (stC (cSt .halting)) 0 ∧ (cSt .halting).debt + 0 < 4000 * (cSt .halting).slice ∧ 4000 * (cSt .halting).slice ≤ (cSt .halting).debt + 4000000 ∧
      ¬HaltDone { stM w0 [mop .zero true] with ctxs := [(0, cSt .halting)] } 0) ∧
    (∃ x ∈ (cR (tagR + 1)).save, ¬tagOf (cR (tagR + 1)).key 0 (cR (tagR + 1)).savegen x.1 ((stC (cR (tagR + 1))).hbm x.1 4096) = x.2) ∧
    (∀ x ∈ (cR tagR).save, tagOf (cR tagR).key 0 (cR tagR).savegen x.1 ((stC (cR tagR)).hbm x.1 4096) = x.2) ∧
    ((∀ v, v < 16 → ¬OnTongs (st w0) v) ∧ OnTongs (stO (opC .running) .handedOff) 0) ∧
    (let c : Ctx := { bareCtx with balance := -100000 }
     let s : State := { stO (opC .running) .handedOff with ctxs := [(0, c), (1, { bareCtx with balance := 100 })] }
     OnTongs s 0 ∧ (∀ v, v < 16 → v ≠ 0 → ¬OnTongs s v) ∧ refilled c ≤ 0 ∧ refilled c + c.prioTok ≤ 0 ∧
       s.ctx 1 = some { bareCtx with balance := 100 } ∧ bareCtx.st ≠ .free) := by
  refine ⟨⟨waits_of rfl rfl (by decide +kernel), rfl, ?_, ?_, by decide +kernel, ⟨by decide, by decide, by decide, by decide⟩, by decide +kernel, rfl⟩,
    by decide +kernel, ?_, ⟨rfl, rfl, (1, cSt .parked), by simp, by decide, waits_of rfl rfl (by decide +kernel)⟩,
    ⟨?_, rfl, rfl, rfl, rfl, ⟨by decide, by decide, by decide, by decide⟩, rfl⟩,
    ⟨⟨?_, ?_⟩, by decide, by decide, fun h => ?_⟩, ⟨_, List.mem_cons_self, bit_off _⟩, ?_, ⟨?_, ?_⟩, ⟨?_, ?_, by decide, by decide, rfl, by decide⟩⟩
  · decide
  · decide
  · intro x hx h
    simp only [st, List.mem_cons, List.not_mem_nil, or_false] at hx
    subst hx; exact absurd h.1 (by decide)
  · intro p hp; exact absurd hp (by simp [stC, st, State.reset])
  · intro p hp; exact absurd hp (by simp [stC, st, State.reset])
  · intro o ho; exact absurd ho (by simp [stC, st, State.reset])
  · exact absurd (h.1 _ List.mem_cons_self (by decide) _ List.mem_cons_self) (by decide)
  · intro x hx
    obtain rfl := List.mem_singleton.1 hx
    rfl
  · intro v _ h; obtain ⟨o, ho, _⟩ := h; exact absurd ho (by simp [st, State.reset])
  · exact ⟨(7, opC .running), by simp [stO], rfl, rfl, .inr rfl⟩
  · exact ⟨(7, opC .running), by simp [stO], rfl, rfl, .inr rfl⟩
  · intro v _ hv h
    obtain ⟨o, ho, h1, _⟩ := h
    obtain rfl := List.mem_singleton.1 ho
    exact hv h1.symm

/-- A state with one block, of no frames. -/
def stB2 (b : Block) : State := { st w0 with blocks := [(5, b)], hearth := { stage := .full, parts := [3, 12] }, ctxs := [(0, { bareCtx with part := 3 })] }

/-- A block without a pinned page; one that is being removed and is empty; one that is scrubbed, behind its shoot-down and with an
older segment in flight; one that is added. An error of a unit that a context has an entry in, of a clean line, and of a unit of an
image that is restored. A team that a debugger holds; a wave at an illegal word. -/
theorem test_witness_BlocksMoveAndErrorsQuench :
    (let s := stB2 { owner := 3 }
     s.hearth.stage = .full ∧ s.pendWrites = [] ∧ s.pendBinds = [] ∧ (s.blockAt 5).st = .owned ∧ 5 < 192 ∧ s.partAt 1 ≠ 0 ∧
      (s.blockAt 5).owner ≠ 0 ∧ (∀ x ∈ s.kernels, ∀ g ∈ x.2.pins, ((s.ctx x.2.vf).bind (fun c => c.frame g)).map (· / 32768) ≠ some 5) ∧
      MailFree s 16) ∧
    (let s := stB2 { st := .removing, owner := 3, tgt := 12 }
     (s.blockAt 5).st = .removing ∧ Distinct s ∧ (∀ x ∈ s.ctxs, ∀ f ∈ x.2.frames ++ x.2.dests ++ x.2.area, f / 32768 ≠ 5) ∧
      ∃ c, s.ctx 0 = some c ∧ c.part = 3 ∧ c.st ≠ .free) ∧
    (let s := stB2 { st := .scrubbing, owner := 3, tgt := 12, gens := [(0, 1)] }
     (s.blockAt 5).st = .scrubbing ∧ (∀ x ∈ (s.blockAt 5).gens, s.oldInFlight x.1 x.2 = false)) ∧
    (let s := { stB2 { st := .scrubbing, owner := 3, tgt := 12, gens := [(0, 1)] } with ops := [(7, opS 0)] }
     ¬∀ x ∈ (s.blockAt 5).gens, s.oldInFlight x.1 x.2 = false) ∧
    ((stB2 { st := .adding, owner := 3, tgt := 12 }).blockAt 5).st = .adding ∧
    ((unitOwners (st w0) 64).getLsbD 0 = true ∧ (unitOwners (st w0) 0).getLsbD 0 = false ∧ MayQuench bareCtx.st ∧
      bareCtx.imageUnit 0 = none ∧ Distinct (st w0) ∧ intact (st w0) 64 0 = false ∧ 0 / 2 ^ 31 + 64 = 64 ∧ sliceOf 256 = 1 ∧ 5 / 2 ^ 31 + 64 ≠ 65) ∧
    intact { st w0 with slices := [(0, [⟨0, 0, false⟩])] } 64 0 = true ∧
    ((cR 0).imageUnit 5 = some 0 ∧ (stC (cR 0)).ctx 0 = some (cR 0) ∧ (∃ x ∈ (cR 0).save, x.1 = 5 / 4096 * 4096) ∧
      ∀ x ∈ (stC (cR 0)).ctxs, x.1 ≠ 0 → x.2.imageUnit 5 = none) ∧
    ({ st w0 with teams := [(0, { bareTeam with haltD := true })] }.team 0 = some { bareTeam with haltD := true }) ∧
    (let s : State := { st w0 with mem := writeBytes memDefault [] 0 [0, 0, 0, 0x7E] }
     s.waves.find? (fun p => mayTry s p.2 && !faultDue s p.2 && fetch s p.2 p.2.pc == .illegal 0) = some (0, w0)) := by
  refine ⟨?_, ⟨?_, ⟨?_, ?_, ?_, ?_⟩, ?_, _, rfl, rfl, ?_⟩, ?_, ?_, ?_, ⟨?_, ?_, by unfold MayQuench; decide, ?_, ⟨?_, ?_, ?_, ?_⟩, ?_, ?_, ?_, ?_⟩, ?_, ⟨?_, rfl, ?_, ?_⟩,
    rfl, ?_⟩
  all_goals first | decide +kernel | (unfold MailFree; decide +kernel)

/-- Stages with and without service; dies below and at the least number of usable cores; the last stack, one of a die's two and a
broken one; an image older than the fuse; each state of an attestation; a trip; a port inside the mesh, at its edge, between two
beats, and with three and four flits queued; a cluster and a slice with a packet. Whether an image's signature is valid is the open
value of Config (notes/assumptions/8.md). -/
theorem test_witness_DevicesStartServeAndStop_boot :
    (let f : State := { st w0 with hearth := { stage := .remap, failing := true, fails := 2 } }
     f.hearth.failing = true ∧ f.hearth.fails < 3 ∧ ¬{ f with hearth := { f.hearth with fails := 3 } }.hearth.fails < 3) ∧
    (∀ x : Stage, (stSt x).hearth.failing = false ∧ (stSt x).hearth.remap = [] ∧ MailFree (stSt x) 16) ∧
    (∀ c ∈ [List.range 22, List.range 20, List.range 19], 20 ≤ ((List.range 22).filter (fun p => ([c].getD 0 []).contains p)).length ↔ c ≠ List.range 19) ∧
    (∀ h ∈ [({ stage := .reduced, broken := [3] } : Hearth), { stage := .reduced }, { stage := .remap, remap := [[0]], trained := [1, 0] },
        { stage := .remap, remap := [[0]], trained := [7, 0, 1, 2, 3, 4, 5, 6] }],
      h.stage = .reduced ∨ (h.stage = .remap ∧ h.remap ≠ [] ∧ ∃ d, d < 4 ∧ BothStacks h.trained d)) ∧
    (¬∃ d, d < 4 ∧ BothStacks [1, 2] d) ∧ (5 ∉ [3] ∧ 5 < 8 ∧ 5 ∉ [0, 1] ∧ ¬(8 < 8)) := by
  refine ⟨by decide, fun x => ⟨rfl, rfl, nofun, nofun, fun _ => ⟨rfl, nofun⟩⟩, by decide, ?_, by unfold BothStacks; decide, by decide⟩
  unfold BothStacks; decide

theorem test_witness_DevicesStartServeAndStop :
    (InService (stSt .minimal) ∧ ¬InService (stSt .remap)) ∧
    (∀ i, ¬ValidImage { fuseMin := 1, stored := i } (List.replicate 8 0)) ∧
    (∀ i : List Byte, ValidImage { keyHash := (Config.shake256 ((i.drop 0x10).take 64)).take 32 } i ↔
      Config.slhVerify ((i.drop 0x10).take 64) (i.take 0x50 ++ (i.drop (0x50 + 29792)).take (natAt i 8 4)) ((i.drop 0x50).take 29792) = true) ∧
    PartsOk [15] ∧ ¬PartsOk [5] ∧ (∃ d, d < 4 ∧ BothStacks [1, 0] d) ∧ (¬∃ d, d < 4 ∧ BothStacks [1, 2] d) ∧ [7, 0, 1, 2, 3, 4, 5, 6].length = 8 ∧
    (∀ d, d < 4 → 2 * d ∈ [0, 2, 4, 6] ∨ 2 * d + 1 ∈ [0, 2, 4, 6]) ∧
    ((st w0).dies[3]? = some { mhz := 4000 } ∧ Distinct (st w0) ∧ bareCtx.part.getLsbD 3 = true ∧ MayQuench bareCtx.st) ∧
    (InMesh 0 ∧ ¬InMesh 1 ∧ ¬InMesh 320 ∧ InMesh 317 ∧ ¬InMesh 318 ∧
      (∀ n : Nat, let s : State := { st w0 with mesh := [(0, { beat := n })] }
        ((Tbl.find s.mesh 0).getD {}).beat = n) ∧
      (let q : MeshLink := { queue := [{ src := 0, dests := 4, flits := 3 }] }
       (q.queue.map (·.flits)).sum < q.sent + 4 ∧ ((q.queue ++ q.queue).map (·.flits)).sum ≥ q.sent + 4)) ∧
    (143 < 144 ∧ 64 ≤ 143 ∧ 63 < 64 ∧
      { st w0 with xbar := [(63, { token := 79, queued := [(79, ⟨0, 79, 63, false⟩)] }), (143, { token := 63, queued := [(63, ⟨0, 79, 63, false⟩)] })] }.xbar ≠ []) := by
  refine ⟨⟨.inr (.inr rfl), ?_⟩, ?_, ?_, ?_, ?_, ⟨0, by decide, by unfold BothStacks; decide⟩, ?_, rfl, by decide, ⟨rfl,
    ⟨by decide, by decide, by decide, by decide⟩, by decide, by unfold MayQuench; decide⟩,
    ⟨by unfold InMesh; decide, by unfold InMesh; decide, by unfold InMesh; decide, by unfold InMesh; decide, by unfold InMesh; decide,
      fun _ => rfl, by decide⟩, by decide, by decide, by decide, nofun⟩
  · unfold InService; decide
  · intro i h; exact absurd (show (1 : Nat) ≤ natAt (List.replicate 8 0) 4 4 from h.2.1) (by decide +kernel)
  · intro i; unfold ValidImage; simp
  · unfold PartsOk; decide
  · unfold PartsOk; decide
  · unfold BothStacks; decide

/-! ### Links and flits -/

/-- A flit of device 1 with its CRC. -/
def flt (kind : Nat) (pl : List Byte) (ls : BitVec 16) (ps : BitVec 24) (ep : BitVec 4) : Flit :=
  let f : Flit := { bareFlit kind with src := 1, payload := pl, lseq := ls, pseq := ps, epoch := ep }
  { f with crc := flitCrc f }
/-- A packet that is out to device 1. -/
def out1 : OutPkt := { pkt := { head := { bareFlit 2 with payload := bytesOf 1 0 }, data := [] }, sent := true, pseq := 5 }
def peer2 : Peer := { peer1 with replay := [flt 2 [] 0 0 0, flt 2 [] 1 1 0], out := [out1], txLseq := 2 }

theorem seal_ok (kind : Nat) (pl : List Byte) (ls : BitVec 16) (ps : BitVec 24) (ep : BitVec 4) :
    (flt kind pl ls ps ep).crc = flitCrc (flt kind pl ls ps ep) := rfl

/-- A link that is UP and one that is not; flits with a wrong CRC, of a reserved kind, early and late; acknowledgements of a flit in the
buffer and of none; masks of 8 and of 7 wavelengths; a wavelength that may be excluded, one that is, and the last of a fibre that has
one excluded; a link whose mask has changed; a credit for this device and for another; a FAILED link that has lost a fibre, and a spare
one; a link in training; each reachability, with and without a relay. -/
theorem test_witness_LinksReplayRestripeAndTrain :
    (LinkIs (stP w0 peer2) 1 peer2 ∧ ∀ p, ¬LinkIs (stP w0 { peer2 with link := .training }) 1 p) ∧
    (FlitRow 1 (flt 2 [] 0 0 0) (.req 1 (flt 2 [] 0 0 0)) 2 ∧ uv (flt 2 [] 0 0 0).kind = 2 ∧ (flt 2 [] 0 0 0).lseq = peer2.rxLseq ∧
      (flt 2 [] 1 0 0).lseq ≠ peer2.rxLseq ∧ 32768 ≤ uv (peer2.rxLseq - (flt 2 [] 1 0 0).lseq) ∧
      uv (peer2.rxLseq - (flt 2 [] 0xFFFF 0 0).lseq) < 32768 ∧ 11 ≤ uv (flt 11 [] 0 0 0).kind ∧
      { flt 2 [] 0 0 0 with crc := 0 }.crc ≠ flitCrc { flt 2 [] 0 0 0 with crc := 0 }) ∧
    (∀ n ∈ [0, 1, 2, 3, 4], natAt (flt 1 (bytesOf 1 n) 0 0 0).payload 0 1 = n ∧ (flt 1 (bytesOf 1 n) 0 0 0).kind = 1) ∧
    ((∀ h ∈ peer2.replay, h.lseq ≠ 7) ∧ peer2.replay = [] ++ flt 2 [] 0 0 0 :: [flt 2 [] 1 1 0] ∧ peer2.resends < 8 ∧ 8 ≤ 8) ∧
    (active64 0xFF = 8 ∧ active64 0x7F = 7) ∧
    (peer2.tx.getLsbD 0 = true ∧ (∀ j, j / 16 = 0 / 16 → peer2.retrain.getLsbD j = false) ∧ (1 : BitVec 64).getLsbD 0 = true) ∧
    (LinkIs (stP w0 { peer2 with striped := true, excluded := 1, retrain := 1 }) 1 { peer2 with striped := true, excluded := 1, retrain := 1 } ∧
      peer2.striped = false ∧ NMap.get 0 peer2.tries 0 < 2) ∧
    (uv (flt 1 [] 0 0 0).dst = (stP w0 peer2).dev ∧ uv { flt 1 [] 0 0 0 with dst := 2 }.dst ≠ (stP w0 peer2).dev) ∧
    8 ≤ active64 (peer2.tx &&& ~~~(0xFFFF : BitVec 64)) ∧
    (let p : Peer := { peer2 with link := .failed, txFib := [0, 1, 2, 3], txLost := 2 }
     (stP w0 p).peer 1 = some p ∧ (28 ≤ 28 ∧ 28 ≤ 31 ∧ (2 ^ 28).testBit 28 = true) ∧ (stP w0 p).devs ≤ 8 ∧ (∀ q ∈ (stP w0 p).peers, 28 ∉ q.2.txFib) ∧
       1 < p.txFib.length ∧ p.txLost.getLsbD 1 = true ∧ (∀ i, i < 1 → p.txLost.getLsbD i = false) ∧
       (∀ j, j < p.rxFib.length → p.rxLost.getLsbD j = false)) ∧
    (let p : Peer := { full := BitVec.allOnes 64 }
     (stP w0 p).peer 1 = some p ∧ p.link = .training ∧ 8 ≤ active64 (0xFF &&& p.full) ∧ ¬8 ≤ active64 (0x7F &&& p.full)) ∧
    (InDark { peer2 with rxDark := 1 } ∧ ¬InDark { peer2 with rxDark := 1, rxIndex := 1 } ∧ ¬InDark peer2) ∧
    (lolOpen { peer2 with lol := [1] } peer2.replay = [1] ∧ lolOpen { peer2 with lol := [1] } [flt 2 [] 1 1 0] = [] ∧
      ({ peer2 with replay := [] } : Peer).replay = [] ∧ peer2.lol = []) ∧
    ((stP w0 {}).peer 1 = some {} ∧ ({} : Peer).attempts < 2 ∧ ¬({ attempts := 2 } : Peer).attempts < 2 ∧ peer2.link ≠ .training) ∧
    (peer2.far.getLsbD 15 = true ∧ ({ peer2 with far := 0 } : Peer).far.getLsbD 15 = false ∧ (stP w0 peer2).hearth.failing = false ∧
      { stP w0 peer2 with peers := [(1, peer2), (2, { peer1 with far := 0xFFFD })] }.relay 1 = none) ∧
    (peer2.reach = .direct ∧ (stP w0 peer2).route 1 ≠ none) ∧
    ((stP w0 { peer2 with link := .failed, reach := .noroute }).route 1 = none ∧ (stP w0 { peer2 with reach := .resync }).route 1 ≠ none) ∧
    ((stP w0 peer2).relay 1 = none ∧ { stP w0 peer2 with peers := [(1, peer2), (2, peer1)] }.relay 1 = some 2 ∧ ∃ o ∈ peer2.out, o.sent = true) := by
  refine ⟨⟨⟨rfl, .inl rfl, nofun, nofun⟩, ?_⟩, ⟨.req, ?_⟩, ?_, ⟨?_, rfl, ?_⟩, ?_, ⟨by decide, fun j _ => by simp [peer2, peer1], by decide⟩,
    ⟨⟨rfl, .inl rfl, nofun, nofun⟩, rfl, by decide⟩, ?_, ?_, ⟨rfl, ?_, ?_, ?_, ?_, ?_, ?_, ?_⟩, ⟨rfl, rfl, ?_, ?_⟩, ⟨⟨0, by decide, by decide +kernel⟩, ?_, ?_⟩, ?_, ?_, ?_, ?_, ?_, ?_, ?_, ⟨out1, List.mem_cons_self, rfl⟩⟩
  · rintro p ⟨h1, h2, -⟩
    have h1' : some { peer2 with link := .training } = some p := h1
    cases h1'
    rcases h2 with h | h <;> exact absurd h (by decide)
  all_goals first
    | decide +kernel
    | rfl
    | exact fun ⟨j, hj, h⟩ => absurd h ((by decide +kernel : ∀ j, j < 8 →
        ¬({ peer2 with rxDark := 1 } : Peer).rxDark.getLsbD (laneOf peer2.rx (8 * 1 + j)) = true) j hj)
    | exact fun ⟨j, _, h⟩ => by simp [peer2, peer1] at h

/-- A request that is next, one that is early, one that is held already, one that was given a status and one that was not; another
epoch; another device; a flit of a longer packet; a reply, a generation notice, DONE and WAIT for a packet that is out; no binding. -/
theorem test_witness_FlitsAreOrderedAndAnswered :
    Accepts (stP w0 peer2) ((stP w0 peer2).modPeer 1 (fun x => { x with rxIndex := x.rxIndex + 1, rxLseq := x.rxLseq + 1, nakSent := false })) 1
      { flt 2 [] 0 0 0 with ackseq := 7, crc := flitCrc { flt 2 [] 0 0 0 with ackseq := 7 } } 2 ∧
    Completes 1 peer2 (flt 2 [] 0 0 0) { head := flt 2 [] 0 0 0, data := [] } ∧
    (Completes 1 { peer2 with part := [(1, { flt 2 [] 0 5 0 with last := false }), (2, flt 2 [] 0 5 0)] } (flt 3 [1] 1 5 0)
      { head := { flt 2 [] 0 5 0 with last := false }, data := [flt 3 [1] 1 5 0].flatMap (fun d => fit 112 d.payload) }) ∧
    NoHaloWaits (stP w0 peer2) ∧ (stP w0 peer2).localVf { head := flt 2 [] 0 0 0, data := [] } = some 0 ∧
    (stP w0 { peer2 with bind := [] }).localVf { head := flt 2 [] 0 0 0, data := [] } = none ∧
    (2 ^ 23 ≤ (2 ^ 24 - 1 + 2 ^ 24 - peer2.expPseq) % 2 ^ 24 ∧ (1 + 2 ^ 24 - peer2.expPseq) % 2 ^ 24 < 2 ^ 23) ∧
    (LinkIs { stP w0 peer2 with peers := [(1, peer2), (2, peer1)] } 2 peer1 ∧ uv { flt 2 [] 0 0 0 with dst := 2 }.dst = 2) ∧
    (let x : Peer := { peer2 with gens := [(0, 1)], given := [(3, 0)], held := [{ head := flt 2 [] 0 3 0, data := [] }] }
     (∃ g, Tbl.find x.gens 0 = some g ∧ Older g (flt 2 [] 0 0 0).gen) ∧ Tbl.find x.given 3 = some 0 ∧
       (∃ z ∈ x.held, z.head.pseq = 3) ∧ peer2.held = [] ∧ (flt 2 [] 0 0 1).epoch ≠ x.epoch) ∧
    ((∃ o ∈ peer2.out, o.sent = true ∧ o.pseq = 5) ∧ ∀ o ∈ peer2.out, o.sent = false ∨ o.pseq ≠ 6) ∧
    ((Req.of { bareFlit 2 with payload := bytesOf 1 1 }).col = 1 ∧ (Req.of (out1).pkt.head).col = 0) ∧
    ¬Older ((stP w0 peer2).genOf 0) 0 ∧ (∀ kt, ¬Completes 1 peer2 (flt 3 [] 0 0 0) kt) ∧
    ((peer2.held.map Packet.size).sum + Packet.size { head := flt 2 [] 0 0 0, data := [] } ≤ 8192) ∧
    (Older 1 0 ∧ ¬Older 0 1 ∧ ¬Older 0 0) ∧ (∀ k ∈ [4, 5, 6, 7, 8, 9, 10], uv (flt k [] 0 0 0).kind = k) ∧
    (peer2.out.find? (fun o => o.sent && o.pseq == 5) = some out1 ∧ peer2.out.find? (fun o => o.sent && o.pseq == 6) = none) := by
  refine ⟨⟨peer2, ⟨rfl, .inl rfl, nofun, nofun⟩, by decide +kernel, by decide +kernel, by decide +kernel,
      fun ⟨j, _, h⟩ => by simp [peer2, peer1] at h, { peer2 with rxIndex := 1, rxLseq := 1, nakSent := false }, rfl, .inl ⟨by decide +kernel, rfl⟩⟩,
    ⟨rfl, .inl ⟨by decide +kernel, rfl⟩⟩, ⟨rfl, .inr ⟨by decide +kernel, _, [], rfl, by decide +kernel, rfl⟩⟩, ⟨nofun, by decide, nofun⟩, ?_, ?_, ?_, ⟨⟨rfl, .inl rfl, nofun, nofun⟩, rfl⟩,
    ⟨⟨1, rfl, by unfold Older; decide +kernel⟩, rfl, ⟨_, List.mem_cons_self, by decide +kernel⟩, rfl, by decide⟩,
    ⟨⟨out1, List.mem_cons_self, rfl, rfl⟩, ?_⟩, ?_, ?_, ?_, ?_, ?_, ?_, rfl, rfl⟩
  case refine_7 => rintro kt ⟨_, h | ⟨_, h, ds, hp, _⟩⟩
                   · exact h.1 rfl
                   · exact absurd hp nofun
  all_goals first | decide +kernel | (unfold Older; decide +kernel)

/-! ### The machine as a whole -/

theorem test_witness_DecodingInvertsEncoding : (Instr.iadd 63 0 (.lit 0xFFFFFFFF)).wf = true ∧ (Instr.iadd 63 0 (.lit 0xFFFFFFFF)).fields ≠ none ∧
    (Instr.ldt 63 ⟨7, true, 7, 15, true, 7⟩).wf = true ∧ (Instr.ldt 63 ⟨7, true, 7, 15, true, 7⟩).fields ≠ none := by decide +kernel

theorem test_witness_EveryStepKeepsMemoryCanonical : Memory.wf (State.reset.withFetchWord 32 0x66A00000).mem = true ∧
    (match step (State.reset.withFetchWord 32 0x66A00000) with
     | .next _ => true
     | _ => false) = true := by decide +kernel

/-- A word that runs, a word without a meaning, a PC behind the code; an event on the agenda; a state with nothing to do. -/
def stN (x : Word) : State := { st w0 with agenda := [.issue 0], mem := writeBytes memDefault [] 0 (bytesOf 4 (uv x)) }

theorem test_witness_StepRunsTheDecodedInstruction :
    ((stN 0x66A00000).wave 0 = some w0 ∧ mayTry { stN 0x66A00000 with agenda := [] } w0 = true ∧
      faultDue { stN 0x66A00000 with agenda := [] } w0 = false ∧ Fetches { stN 0x66A00000 with agenda := [] } w0 0x66A00000 (some 0) ∧
      decodeWord 0x66A00000 (some 0) = .ok (false, .nop)) ∧
    (Fetches { stN 0x7E000000 with agenda := [] } w0 0x7E000000 (some 0) ∧
      (match decodeWord 0x7E000000 (some 0) with
       | .error _ => true
       | .ok _ => false) = true) ∧
    w0.redo = 0 ∧ (((stN 0x66A00000).ctx ((stN 0x66A00000).kernVf 0)).map (·.reduced)).getD false = false ∧
    { stN 0x66A00000 with agenda := [.event .nop] }.agenda = .event .nop :: [] ∧
    (let w : Wave := { w0 with pc := 12 }
     let s := { st w with agenda := [] }
     12 * (s.hdr w.kern).codelen ≤ uv w.pc ∧ mayTry s w = true ∧ faultDue s w = false) ∧
    progress (stM w0 [mop .zero false]) ≠ none ∧ State.reset.agenda = [] ∧ progress State.reset = none ∧ nextWave exec State.reset = none := by
  refine ⟨⟨rfl, ?_, ?_, ⟨?_, (readBytes memDefault (stN 0x66A00000).mem 0 12), ?_, ?_, ?_⟩, ?_⟩,
    ⟨⟨?_, (readBytes memDefault (stN 0x7E000000).mem 0 12), ?_, ?_, ?_⟩, ?_⟩, rfl, ?_, rfl, ⟨?_, ?_, ?_⟩, ?_, rfl, ?_, ?_⟩
  all_goals first
    | decide +kernel
    | rfl

end Sys2Proof.Tests
end

section
/-! The uniform integer words, the moves and the address registers (spec/07_isa_integer.md R142, R148 to R157). First the write of
each register file that they use, then the issue of a word that makes one such write, then the values. -/
namespace Sys2Proof

theorem NMap.set_writesOne {α : Type} [DecidableEq α] (dflt : α) (m : NMap α) (d : Nat) (x : α) :
    WritesOne dflt m (NMap.set dflt m d x) d x := fun r => NMap.get_set dflt m d x r

theorem ICond.holds_iff_condS (c : ICond) (a b : Word) : c.holds a b = true ↔ condS c a b := by
  cases c <;> simp [ICond.holds, condS]

theorem UCond.holds_iff_condU (c : UCond) (a b : Word) : c.holds a b = true ↔ condU c a b := by
  cases c <;> simp [UCond.holds, condU]

end Sys2Proof

namespace Sys2Proof.Machine

/-! ## Writes of one uniform register -/

/-- The wave after a write of Kd, with every K register of the file accounted for; a write to K7 is discarded (R148). -/
theorem Wave.setK_setsK {w x : Wave} (hx : x.k = w.k) (d : Nat) {b : Bool} {g : Prop} (hb : b = true ↔ g) :
    ∃ ks, x.setK d b = { x with k := ks } ∧ SetsK w ks d g := by
  by_cases h7 : d = 7
  · exact ⟨x.k, by simp [Wave.setK, h7], fun r => by simp [h7, hx]⟩
  · refine ⟨NMap.set false x.k d b, by simp [Wave.setK, h7], fun r => ⟨?_, fun hr => ?_⟩⟩
    · rintro ⟨rfl, -⟩
      simpa using hb
    · have hrd : r ≠ d := fun h => hr ⟨h, h7⟩
      simp [hrd, hx]

/-- The wave after a write of the pair Sd, Sd+1. -/
theorem Wave.setS64_pair {w x : Wave} (hx : x.s = w.s) (d : Nat) (y : BitVec 64) :
    ∃ ss, x.setS64 d y = { x with s := ss } ∧
      ∀ r, NMap.get 0 ss r = if r = d then y.extractLsb' 0 32 else if r = d + 1 then y.extractLsb' 32 32 else w.getS r := by
  refine ⟨_, rfl, fun r => ?_⟩
  by_cases hr : r = d
  · simp [hr]
  · simp [hr, hx, Wave.getS]

/-! ## Words that make one such write -/

section
variable {i : Instr} {s : State} {n : Nat} {w : Wave} (h : Issues s n w i)
include h

/-- A uniform word that sets Kd where g holds. -/
theorem uniform_setK_completes (d : KReg) (f : Wave → Bool) {g : Prop} (hf : f w = true ↔ g) :
    ∃ ks, uniform i s (fun w x => x.setK d.toNat (f w)) = .next (s.issued n { w.onward s with k := ks }) ∧
      SetsK w ks d.toNat g ∧ SameMemory s (s.issued n { w.onward s with k := ks }) := by
  obtain ⟨ks, hset, hks⟩ := Wave.setK_setsK (w := w) (x := w.onward s) rfl d.toNat hf
  exact ⟨ks, by rw [uniform_completes _ h, hset], hks, issued_sameMemory s n _⟩

/-- A uniform word that writes the value v to Sd. -/
theorem uniform_setS_completes (d : SReg) (f : Wave → Word) {v : Word} (hf : f w = v) :
    ∃ ss, uniform i s (fun w x => x.setS d.toNat (f w)) = .next (s.issued n { w.onward s with s := ss }) ∧
      WritesOne 0 w.s ss d.toNat v ∧ SameMemory s (s.issued n { w.onward s with s := ss }) :=
  ⟨_, uniform_completes _ h, hf ▸ NMap.set_writesOne 0 w.s d.toNat (f w), issued_sameMemory s n _⟩

/-- A uniform word that writes the value v to Ad (R155). -/
theorem uniform_setA_completes (d : AReg) (f : Wave → Word) {v : Word} (hf : f w = v) :
    ∃ as, uniform i s (fun w x => x.setA d.toNat (f w)) = .next (s.issued n { w.onward s with a := as }) ∧
      WritesOne 0 w.a as d.toNat v ∧ SameMemory s (s.issued n { w.onward s with a := as }) :=
  ⟨_, uniform_completes _ h, hf ▸ NMap.set_writesOne 0 w.a d.toNat (f w), issued_sameMemory s n _⟩

/-- A uniform word that writes a pair of S registers (R152). -/
theorem uniform_setS64_completes (d : SReg) (f : Wave → BitVec 64) :
    ∃ ss, uniform i s (fun w x => x.setS64 d.toNat (f w)) = .next (s.issued n { w.onward s with s := ss }) ∧
      (∀ r, NMap.get 0 ss r = if r = d.toNat then (f w).extractLsb' 0 32
        else if r = d.toNat + 1 then (f w).extractLsb' 32 32 else w.getS r) ∧
      SameMemory s (s.issued n { w.onward s with s := ss }) := by
  obtain ⟨ss, hset, hss⟩ := Wave.setS64_pair (w := w) (x := w.onward s) rfl d.toNat (f w)
  exact ⟨ss, by rw [uniform_completes _ h, hset], hss, issued_sameMemory s n _⟩

/-- A per-cell word, with its frame over memory. -/
theorem perCell_writesV (d : VReg) (f : State → Wave → Nat → Word) {g : Nat → Word} (hf : f s w = g) :
    ∃ vs, perCell i s d f = .next (s.issued n { w.onward s with v := vs }) ∧ WritesV w vs d.toNat g ∧
      SameMemory s (s.issued n { w.onward s with v := vs }) := by
  obtain ⟨vs, hrun, hvs⟩ := perCell_completes d f h
  exact ⟨vs, hrun, hf ▸ hvs, issued_sameMemory s n _⟩

end

/-! ## Values -/

/-- VOTE.uni: the values are all true or all false exactly where every two of them agree (R150). -/
theorem all_or_all_not_iff_agree {α : Type} (l : List α) (f : α → Bool) :
    ((∀ x ∈ l, f x = true) ∨ (∀ x ∈ l, f x = false)) ↔ ∀ x y, x ∈ l → y ∈ l → f x = f y := by
  constructor
  · rintro (h | h) x y hx hy <;> rw [h x hx, h y hy]
  · intro h
    by_cases ht : ∃ x ∈ l, f x = true
    · obtain ⟨x, hx, hfx⟩ := ht
      exact .inl fun y hy => h y x hy hx ▸ hfx
    · exact .inr fun y hy => by simpa using fun hfy => ht ⟨y, hy, hfy⟩

theorem vote_iff_votes (m : VoteMode) (w : Wave) (p : PReg) :
    vote m ((cellsOf w.active).map (fun f => w.getP f p.toNat)) = true ↔ votes m w p := by
  cases m with
  | all => simp [vote, votes]
  | any => simp [vote, votes]
  | uni => simpa [vote, votes] using all_or_all_not_iff_agree (cellsOf w.active) (fun f => w.getP f p.toNat)

/-- Adding up the powers of two of the places that pass a test, by a fold over them or by a sum over all places. -/
theorem foldl_two_pow_filter (g : Nat → Bool) (l : List Nat) (acc : Nat) :
    (l.filter g).foldl (fun a i => a + 2 ^ i) acc = acc + (l.map (fun k => if g k then 2 ^ k else 0)).sum := by
  induction l generalizing acc with
  | nil => rfl
  | cons k l ih => by_cases hk : g k = true <;> simp [hk, ih, Nat.add_assoc]

theorem ballotVal_eq_wordOfBits (w : Wave) (k p : Nat) :
    ballotVal w k p = wordOfBits (fun i => w.active.getLsbD (32 * k + i) && w.getP (32 * k + i) p) := by
  rw [ballotVal, foldl_two_pow_filter, Nat.zero_add, wordOfBits]

/-! ## ISET (R157) -/

/-- What R157 asks of a stride, a base and a length. -/
theorem isetBad_eq_false_iff (st bs ln : Word) :
    isetBad st bs ln = false ↔ uv ln ≤ 1572864 ∧ uv bs + uv ln ≤ 1572864 ∧ (ln = 0 ∨ (sv st).natAbs < uv ln) := by
  simp [isetBad, Decidable.or_iff_not_imp_left, and_assoc]

section
variable {s : State} {n : Nat} {w : Wave} {d : IReg} {r : SReg} (h : Issues s n w (.iset d r))
include h

theorem execIset_completes (hok : isetBad (w.getS r.toNat) (w.getS (r.toNat + 1)) (w.getS (r.toNat + 2)) = false) :
    ∃ is, execIset d r s = .next (s.issued n { w.onward s with i := is }) ∧
      WritesOne {} w.i is d.toNat ⟨w.getS (r.toNat + 2), w.getS (r.toNat + 1), w.getS r.toNat⟩ ∧
      SameMemory s (s.issued n { w.onward s with i := is }) := by
  refine ⟨_, ?_, NMap.set_writesOne {} w.i d.toNat _, issued_sameMemory s n _⟩
  rw [execIset, issue_completes h (if_neg (by simp [hok])), pass_modWave h.alone.wave]
  rfl

theorem execIset_turned_away (hbad : isetBad (w.getS r.toNat) (w.getS (r.toNat + 1)) (w.getS (r.toNat + 2)) = true) :
    execIset d r s = .next (turnAway n (.trap 5 s.slotArg) s) := by
  rw [execIset, issue_turned_away (g := .trap 5 s.slotArg) h (if_pos hbad) nofun]

end

end Sys2Proof.Machine

namespace Sys2Proof
open Machine

theorem predUniWord_completes {e : (KReg → KReg → KReg → Instr) × (Bool → Bool → Bool)} (he : e ∈ predUniWords) (d a b : KReg)
    {s : State} {n : Nat} {w : Wave} (h : Issues s n w (e.1 d a b)) :
    ∃ ks, exec (e.1 d a b) s = .next (s.issued n { w.onward s with k := ks }) ∧
      SetsK w ks d.toNat (e.2 (w.getK a.toNat) (w.getK b.toNat) = true) ∧
      SameMemory s (s.issued n { w.onward s with k := ks }) := by
  simp only [predUniWords, List.mem_cons, List.not_mem_nil, or_false] at he
  obtain rfl | rfl | rfl | rfl := he
  · exact uniform_setK_completes h d (fun w => w.getK a.toNat && w.getK b.toNat) .rfl
  · exact uniform_setK_completes h d (fun w => w.getK a.toNat || w.getK b.toNat) .rfl
  · exact uniform_setK_completes h d (fun w => w.getK a.toNat != w.getK b.toNat) .rfl
  · exact uniform_setK_completes h d (fun w => !w.getK b.toNat) .rfl

/-- Settles O5: each word is one write of Kd or Sd, and the model's condition, vote or ballot word is the value that the rule gives. -/
theorem uniformComparesVotesAndBallots : Obligations.UniformComparesVotesAndBallots := by
  unfold Obligations.UniformComparesVotesAndBallots
  refine ⟨fun c d a b s n w h => ?icmp, fun c d a b s n w h => ?icmpUnsigned, fun e he d a b s n w h => ?pred,
    fun m d b s n w h => ?vote, fun d k b s n w h => ?ballot⟩
  case icmp => exact uniform_setK_completes h d (fun w => c.holds (w.getS a.toNat) (b.val w)) (ICond.holds_iff_condS c _ _)
  case icmpUnsigned => exact uniform_setK_completes h d (fun w => c.holds (w.getS a.toNat) (b.val w)) (UCond.holds_iff_condU c _ _)
  case pred => exact predUniWord_completes he d a b h
  case vote =>
    exact uniform_setK_completes h d (fun w => Machine.vote m ((cellsOf w.active).map (fun f => w.getP f b.toNat)))
      (vote_iff_votes m w b)
  case ballot => exact uniform_setS_completes h d (fun w => ballotVal w k.toNat b.toNat) (ballotVal_eq_wordOfBits w k.toNat b.toNat)

/-- Settles O6: each word is one write of its destination with the value of its rule; ISET's own check is the rule's limits, and a word
that fails it is turned away with ADDRERR. -/
theorem movesAndAddressRegisters : Obligations.MovesAndAddressRegisters := by
  unfold Obligations.MovesAndAddressRegisters
  refine ⟨fun d b s n w hwf h => ?movl, fun d b s n w _ h => ?movlUni, fun d i s n w h => ?movi, fun d i s n w h => ?moviUni,
    fun d k s n w h => ?widf, fun d k s n w h => ?widfUni, fun d a b s n w h => ?aadd, fun d b s n w h => ?aset,
    fun d r s n w h => ⟨fun hin => ?isetIn, fun hout => ?isetOut⟩⟩
  case movl =>
    obtain ⟨heven, -⟩ : evens [d] = true ∧ b.even = true := Bool.and_eq_true_iff.mp hwf
    have hd : d.toNat % 2 = 0 := by simpa [evens] using heven
    obtain ⟨vs, hrun, hvs⟩ := perCell64_completes d hd (fun s w f => b.val64 s w f) h
    exact ⟨vs, hrun, hvs, issued_sameMemory s n _⟩
  case movlUni => exact uniform_setS64_completes h d (fun w => b.val64 w)
  case movi => exact perCell_writesV h d (fun _ _ _ => i.signExtend 32) rfl
  case moviUni => exact uniform_setS_completes h d (fun _ => i.signExtend 32) rfl
  case widf => exact perCell_writesV h d (fun s w f => widfVal (s.hdr w.kern) (w.wid (s.hdr w.kern) f) k) rfl
  case widfUni => exact uniform_setS_completes h d (fun w => widfVal (s.hdr w.kern) (w.wid (s.hdr w.kern) 0) k) rfl
  case aadd => exact uniform_setA_completes h d (fun w => w.getA a.toNat + b.val w) (BitVec.add_def _ _)
  case aset => exact uniform_setA_completes h d (fun w => b.val w) rfl
  case isetIn => exact execIset_completes h ((isetBad_eq_false_iff _ _ _).2 hin)
  case isetOut => exact execIset_turned_away h (by simpa using mt (isetBad_eq_false_iff _ _ _).1 hout)

end Sys2Proof
end

section
/-! FCMP, RAND, NPACK and NUNPACK (spec/08_isa_float.md R166, R173 to R176). First the relations of FCMP; then what a word of V
registers writes in each active cell, and how a word that draws advances the counters of the cells; then the words. -/
namespace Sys2Proof.Machine

/-! ## Bytes and numbers -/

theorem bytesOf_succ (n x : Nat) : bytesOf (n + 1) x = BitVec.ofNat 8 x :: bytesOf n (x / 256) := by
  simp [bytesOf, List.range_succ_eq_map, Nat.pow_succ', Nat.div_div_eq_div_mul]

theorem natOf_bytesOf (n x : Nat) : natOf (bytesOf n x) = x % 256 ^ n := by
  induction n generalizing x with
  | zero => simp [bytesOf, natOf, Nat.mod_one]
  | succ n ih => rw [bytesOf_succ, natOf, ih, Nat.pow_succ', Nat.mod_mul, uv, BitVec.toNat_ofNat]

/-- The number at place i of numbers stored in four bytes each. -/
theorem natAt_flatMap_bytesOf {α : Type} (x : α → Nat) (l : List α) (i : Nat) (hi : i < l.length) :
    natAt (l.flatMap (fun e => bytesOf 4 (x e))) (4 * i) 4 = x l[i] % 2 ^ 32 := by
  induction l generalizing i with
  | nil => exact absurd hi (Nat.not_lt_zero i)
  | cons a l ih =>
    cases i with
    | zero => simp [natAt, natOf_bytesOf]
    | succ i =>
      have hdrop : ((a :: l).flatMap (fun e => bytesOf 4 (x e))).drop (4 * (i + 1))
          = (l.flatMap (fun e => bytesOf 4 (x e))).drop (4 * i) := by
        have hhead : (bytesOf 4 (x a)).drop (4 * (i + 1)) = [] :=
          List.drop_eq_nil_of_le (by rw [length_bytesOf]; omega)
        rw [List.flatMap_cons, List.drop_append, hhead, List.nil_append, length_bytesOf, show 4 * (i + 1) - 4 = 4 * i by omega]
      rw [natAt, hdrop]
      exact ih i (Nat.lt_of_succ_lt_succ hi)

/-! ## The relations of FCMP -/

/-- Two values are unordered exactly where one of them is NaN. -/
theorem FVal.cmp_eq_none_iff (x y : FVal) : x.cmp y = none ↔ x.isNan = true ∨ y.isNan = true := by
  cases x <;> cases y <;> simp [FVal.cmp, FVal.isNan]

end Sys2Proof.Machine

namespace Sys2Proof

theorem fcmp_iff_condF (c : FCond) (a b : Word) : Machine.fcmp c a b = true ↔ condF c a b := by
  have hun := Machine.FVal.cmp_eq_none_iff (fp32 a) (fp32 b)
  cases c with
  | un => simpa [Machine.fcmp, condF, fp32] using hun
  | ord => simpa [Machine.fcmp, condF, fp32] using not_congr hun
  | _ => simp [Machine.fcmp, condF, fp32]

/-- A write of Pd by a condition sets Pd where the relation that the condition decides holds. -/
theorem WritesP.setsP {w : Machine.Wave} {ps : NMap Bool} {d : Nat} {b : Nat → Bool} {g : Nat → Prop} (h : WritesP w ps d b)
    (hb : ∀ f, b f = true ↔ g f) : SetsP w ps d g := by
  refine fun f r hr => ⟨fun hw => ?_, fun hw => ?_⟩
  · rw [h f r hr, if_pos hw, hb]
  · rw [h f r hr, if_neg hw]

/-! ## A run of V registers in each cell -/

/-- In vs, the n V registers from Vd of every listed cell have the given words, by the place in the run; every other V register has
what it has in v. -/
def WritesRun (v vs : NMap Word) (fs : List Nat) (d n : Nat) (g : Nat → Nat → Word) : Prop :=
  ∀ f r, r < 64 → NMap.get 0 vs (64 * f + r) =
    if f ∈ fs ∧ d ≤ r ∧ r < d + n then g f (r - d) else NMap.get 0 v (64 * f + r)

theorem WritesRun.nil (v : NMap Word) (d n : Nat) (g : Nat → Nat → Word) : WritesRun v v [] d n g :=
  fun f r _ => by simp

/-- The cells of a list, one after the other. -/
theorem WritesRun.cons {v v' vs : NMap Word} {a : Nat} {fs : List Nat} {d n : Nat} {g : Nat → Nat → Word}
    (ha : WritesRun v v' [a] d n g) (hfs : WritesRun v' vs fs d n g) : WritesRun v vs (a :: fs) d n g := by
  intro f r hr
  rw [hfs f r hr, ha f r hr]
  by_cases hin : d ≤ r ∧ r < d + n
  · by_cases hf : f ∈ fs
    · rw [if_pos ⟨hf, hin⟩, if_pos ⟨List.mem_cons_of_mem a hf, hin⟩]
    · simp [hf, hin]
  · rw [if_neg (mt And.right hin), if_neg (mt And.right hin), if_neg (mt And.right hin)]

/-- The first register of the run, and then the rest of it. -/
theorem WritesRun.first_rest {v v' vs : NMap Word} {fs : List Nat} {d n : Nat} {g : Nat → Nat → Word}
    (hfirst : WritesRun v v' fs d 1 g) (hrest : WritesRun v' vs fs (d + 1) n (fun f i => g f (i + 1))) :
    WritesRun v vs fs d (n + 1) g := by
  intro f r hr
  rw [hrest f r hr, hfirst f r hr]
  by_cases hne : r = d
  · subst hne
    have hout : ¬(r + 1 ≤ r ∧ r < r + 1 + n) := by omega
    have hone : r ≤ r ∧ r < r + 1 := by omega
    have hin : r ≤ r ∧ r < r + (n + 1) := by omega
    rw [if_neg (mt And.right hout)]
    by_cases hf : f ∈ fs
    · rw [if_pos ⟨hf, hone⟩, if_pos ⟨hf, hin⟩]
    · rw [if_neg (mt And.left hf), if_neg (mt And.left hf)]
  · have hone : ¬(d ≤ r ∧ r < d + 1) := by omega
    have hin : (d + 1 ≤ r ∧ r < d + 1 + n) ↔ (d ≤ r ∧ r < d + (n + 1)) := by omega
    rw [if_neg (mt And.right hone)]
    simp only [hin]
    split
    next h => rw [show r - (d + 1) + 1 = r - d by omega]
    next => rfl

/-- Only the words at the places of the run count. -/
theorem WritesRun.congr {v vs : NMap Word} {fs : List Nat} {d n : Nat} {g g' : Nat → Nat → Word}
    (h : WritesRun v vs fs d n g) (hg : ∀ f ∈ fs, ∀ i, i < n → g f i = g' f i) : WritesRun v vs fs d n g' := by
  intro f r hr
  rw [h f r hr]
  split
  next hin => exact hg f hin.1 _ (by omega)
  next => rfl

namespace Machine

theorem Wave.setV_writesRun (w : Wave) (f d : Nat) (hd : d < 64) (g : Nat → Nat → Word) :
    WritesRun w.v (w.setV f d (g f 0)).v [f] d 1 g := by
  intro j r hr
  have hkey : 64 * j + r = 64 * f + d ↔ j = f ∧ r = d := by omega
  have hone : (d ≤ r ∧ r < d + 1) ↔ r = d := by omega
  simp only [Wave.setV_v, NMap.get_set, hkey, hone, List.mem_singleton]
  split
  next h => rw [h.1, h.2, Nat.sub_self]
  next => rfl

/-- What setRun writes. -/
theorem Wave.setRun_eq (w : Wave) (f d : Nat) (bs : List Byte) (n : Nat) (hd : d + n ≤ 64) :
    ∃ vs, w.setRun f d bs n = { w with v := vs } ∧
      WritesRun w.v vs [f] d n (fun _ i => BitVec.ofNat 32 (natAt bs (4 * i) 4)) := by
  induction n generalizing w d bs with
  | zero => exact ⟨w.v, rfl, fun j r _ => by rw [if_neg (by omega)]⟩
  | succ n ih =>
    obtain ⟨vs, hrun, hvs⟩ := ih (w.setV f d (BitVec.ofNat 32 (natOf (bs.take 4)))) (d + 1) (bs.drop 4) (by omega)
    have hfirst := w.setV_writesRun f d (by omega) (fun _ i => BitVec.ofNat 32 (natAt bs (4 * i) 4))
    refine ⟨vs, hrun, hfirst.first_rest (hvs.congr fun _ _ i _ => ?_)⟩
    rw [natAt, natAt, List.drop_drop, show 4 + 4 * i = 4 * (i + 1) by omega]

/-! ## A word that does one thing in each active cell -/

section
variable {σ : Type} {cell : Nat → Wave → Wave} {put : NMap Word → σ → Wave} {next : Nat → σ → σ} {d n : Nat}
  {g : σ → Nat → Nat → Word}

/-- A step per cell that writes a run of V registers and changes what else it changes in its own way: over a list of different cells
every cell's words are the ones that it would write alone, where no other cell's step changes them. -/
theorem foldl_writesRun (hcell : ∀ f v c, ∃ vs, cell f (put v c) = put vs (next f c) ∧ WritesRun v vs [f] d n (g c))
    (hown : ∀ a f c, f ≠ a → g (next a c) f = g c f) (fs : List Nat) (hfs : fs.Nodup) (v : NMap Word) (c : σ) :
    ∃ vs, fs.foldl (fun x f => cell f x) (put v c) = put vs (fs.foldl (fun c f => next f c) c) ∧
      WritesRun v vs fs d n (g c) := by
  induction fs generalizing v c with
  | nil => exact ⟨v, rfl, WritesRun.nil v d n _⟩
  | cons a fs ih =>
    obtain ⟨ha, hfs⟩ := List.nodup_cons.mp hfs
    obtain ⟨v', hrun, hv'⟩ := hcell a v c
    obtain ⟨vs, hrest, hvs⟩ := ih hfs v' (next a c)
    refine ⟨vs, by rw [List.foldl_cons, hrun, hrest, List.foldl_cons], hv'.cons (hvs.congr fun f hf i _ => ?_)⟩
    rw [hown a f c (ne_of_mem_of_not_mem hf ha)]

end

theorem cellsOf_nodup (m : Mask) : (cellsOf m).Nodup := List.nodup_range.filter _

/-- A word that does one thing in each active cell and has no check of its own. -/
theorem cells_complete {i : Instr} {s : State} {n : Nat} {w : Wave} (h : Issues s n w i) (cell : Wave → Nat → Wave → Wave) :
    issue i s free (fun n w s' => s'.modWave n (fun x => (cellsOf w.active).foldl (fun x f => cell w f x) x)) =
      .next (s.issued n ((cellsOf w.active).foldl (fun x f => cell w f x) (w.onward s))) := by
  rw [issue_completes h (own := free) rfl, pass_modWave h.alone.wave]

/-! ## The counters of the cells (spec/05_numbers.md R109, R111) -/

/-- The counters of the cells and WCAUSE after cell f has drawn: its counter is one on, and RNGWRAP stands where it has wrapped. -/
def tickCell {k : Nat} (f : Nat) (c : NMap (BitVec k) × BitVec 64) : NMap (BitVec k) × BitVec 64 :=
  (NMap.set 0 c.1 f (NMap.get 0 c.1 f + 1),
   c.2 ||| (if NMap.get 0 c.1 f == BitVec.allOnes k then BitVec.ofNat 64 (2 ^ 49) else 0))

/-- A counter that comes back to 0 was all ones; then RNGWRAP is marked. -/
theorem mark_of_wrap_eq {k : Nat} (n : BitVec k) (x : Wave) :
    (if n + 1 = 0 then x.mark 49 else x) =
      { x with wcause := x.wcause ||| (if n == BitVec.allOnes k then BitVec.ofNat 64 (2 ^ 49) else 0) } := by
  have hwrap : n + 1 = 0 ↔ (n == BitVec.allOnes k) = true := by
    rw [beq_iff_eq, ← BitVec.neg_one_eq_allOnes, ← BitVec.zero_sub]
    exact BitVec.eq_sub_iff_add_eq.symm
  by_cases hn : n + 1 = 0
  · rw [if_pos hn, if_pos (hwrap.mp hn), Wave.mark]
  · rw [if_neg hn, if_neg (mt hwrap.mpr hn), show x.wcause ||| 0 = x.wcause from BitVec.or_zero]

theorem get_tickCell_of_ne {k : Nat} {a f : Nat} (c : NMap (BitVec k) × BitVec 64) (h : f ≠ a) :
    NMap.get 0 (tickCell a c).1 f = NMap.get 0 c.1 f := by
  rw [tickCell, NMap.get_set, if_neg h]

/-- Each of the cells has drawn once. -/
theorem get_foldl_tickCell {k : Nat} (fs : List Nat) (hfs : fs.Nodup) (c : NMap (BitVec k) × BitVec 64) (f : Nat) :
    NMap.get 0 (fs.foldl (fun c f => tickCell f c) c).1 f =
      if f ∈ fs then NMap.get 0 c.1 f + 1 else NMap.get 0 c.1 f := by
  induction fs generalizing c with
  | nil => simp
  | cons a fs ih =>
    obtain ⟨ha, hfs⟩ := List.nodup_cons.mp hfs
    rw [List.foldl_cons, ih hfs]
    by_cases hfa : f = a
    · subst hfa
      rw [if_neg ha, if_pos List.mem_cons_self, tickCell, NMap.get_set, if_pos rfl]
    · simp only [get_tickCell_of_ne c hfa, List.mem_cons, hfa, false_or]

/-- A bit that is set for one reason and then for another. -/
theorem ite_or_ite (p q : Bool) (b : BitVec 64) :
    (if p then b else 0) ||| (if q then b else 0) = if p || q then b else 0 := by
  cases p with
  | false => simp
  | true => cases q <;> simp

/-- RNGWRAP is set where the counter of one of the cells wraps, and nothing else of WCAUSE changes. -/
theorem cause_foldl_tickCell {k : Nat} (fs : List Nat) (hfs : fs.Nodup) (c : NMap (BitVec k) × BitVec 64) :
    (fs.foldl (fun c f => tickCell f c) c).2 =
      c.2 ||| (if fs.any (fun f => NMap.get 0 c.1 f == BitVec.allOnes k) then BitVec.ofNat 64 (2 ^ 49) else 0) := by
  induction fs generalizing c with
  | nil => simp
  | cons a fs ih =>
    obtain ⟨ha, hfs⟩ := List.nodup_cons.mp hfs
    have hrest : fs.any (fun f => NMap.get 0 (tickCell a c).1 f == BitVec.allOnes k)
        = fs.any (fun f => NMap.get 0 c.1 f == BitVec.allOnes k) := by
      rw [Bool.eq_iff_iff, List.any_eq_true, List.any_eq_true]
      exact exists_congr fun f => and_congr_right fun hf => by rw [get_tickCell_of_ne c (ne_of_mem_of_not_mem hf ha)]
    rw [List.foldl_cons, ih hfs, hrest, List.any_cons, tickCell, BitVec.or_assoc, ite_or_ite]

/-- What the active cells of a wave have drawn. -/
theorem get_foldl_tickCell_active {k : Nat} (w : Wave) (m : NMap (BitVec k)) (wc : BitVec 64) (f : Nat) :
    NMap.get 0 ((cellsOf w.active).foldl (fun c f => tickCell f c) (m, wc)).1 f =
      if w.active.getLsbD f = true then NMap.get 0 m f + 1 else NMap.get 0 m f := by
  simp only [get_foldl_tickCell _ (cellsOf_nodup w.active), getLsbD_of_mem_cellsOf]

theorem cause_foldl_tickCell_active {k : Nat} (w : Wave) (m : NMap (BitVec k)) (wc : BitVec 64) :
    ((cellsOf w.active).foldl (fun c f => tickCell f c) (m, wc)).2 = wc ||| wrapBit w m :=
  cause_foldl_tickCell _ (cellsOf_nodup w.active) _

/-! ## RAND (R176) -/

/-- The wave with these V registers, draw counters and causes. -/
def Wave.drawn (x : Wave) (v : NMap Word) (c : NMap (BitVec 48) × BitVec 64) : Wave :=
  { x with v := v, draw := c.1, wcause := c.2 }

theorem Wave.drawn_setV (x : Wave) (v : NMap Word) (c : NMap (BitVec 48) × BitVec 64) (f d : Nat) (r : Word) :
    (x.drawn v c).setV f d r = x.drawn ((x.drawn v c).setV f d r).v c := rfl

/-- A cell's RAND from its write on: the counter and RNGWRAP, said of any wave y that stands for the write, so that no proof compares two
waves by computing the word. -/
theorem Wave.drawn_tick {x y : Wave} {v : NMap Word} {c : NMap (BitVec 48) × BitVec 64} (hy : y = x.drawn v c) (f : Nat) :
    (if NMap.get 0 c.1 f + 1 = 0 then { y with draw := NMap.set 0 y.draw f (NMap.get 0 c.1 f + 1) }.mark 49
      else { y with draw := NMap.set 0 y.draw f (NMap.get 0 c.1 f + 1) }) = x.drawn v (tickCell f c) := by
  subst hy
  rw [mark_of_wrap_eq, tickCell]
  rfl

/-- The word that RAND makes of a draw. -/
def randWord (m : RandKind) (z : BitVec 64) : Word :=
  match m with
  | .u32 => z.extractLsb' 32 32
  | .f32 => toFp32 (.fin false (uv z / 2 ^ 40) (-24))

theorem randWord_f32 (z : BitVec 64) :
    randWord .f32 z = BitVec.ofNat 32 (f32.roundNE (.fin false (uv (z.extractLsb' 40 24)) (-24))) := by
  have htop : (z.extractLsb' 40 24).toNat = z.toNat / 2 ^ 40 := by
    rw [BitVec.extractLsb'_toNat, Nat.shiftRight_eq_div_pow]
    omega
  rw [uv, htop]
  rfl

/-- The word that RAND writes in cell f, whose draw counter stands at n. -/
def randDraw (m : RandKind) (h : Header) (w : Wave) (f : Nat) (n : BitVec 48) : Word :=
  randWord m (draw 0 h.seed (BitVec.ofNat 64 (w.wid h f)) (n.setWidth 64))

theorem randCell_drawn (m : RandKind) (d : VReg) (h : Header) (w x : Wave) (f : Nat) (v : NMap Word)
    (c : NMap (BitVec 48) × BitVec 64) :
    ∃ vs, randCell m d.toNat h w f (x.drawn v c) = x.drawn vs (tickCell f c) ∧
      WritesRun v vs [f] d.toNat 1 (fun f _ => randDraw m h w f (NMap.get 0 c.1 f)) := by
  refine ⟨_, ?_, (x.drawn v c).setV_writesRun f d.toNat d.isLt (fun f _ => randDraw m h w f (NMap.get 0 c.1 f))⟩
  rw [randDraw, ← Wave.drawn_tick (x.drawn_setV v c f d.toNat _) f]
  cases m with
  | u32 => rfl
  | f32 =>
    rw [randWord_f32]
    rfl

theorem execRand_completes (m : RandKind) (d : VReg) {s : State} {n : Nat} {w : Wave} (h : Issues s n w (.rand m d)) :
    ∃ vs ds, execRand m d s = .next (s.issued n { w.onward s with v := vs, draw := ds, wcause := w.wcause ||| wrapBit w w.draw }) ∧
      WritesV w vs d.toNat (fun f => randDraw m (s.hdr w.kern) w f (NMap.get 0 w.draw f)) ∧
      ∀ f, NMap.get 0 ds f = if w.active.getLsbD f = true then NMap.get 0 w.draw f + 1 else NMap.get 0 w.draw f := by
  obtain ⟨vs, hfold, hvs⟩ := foldl_writesRun (randCell_drawn m d (s.hdr w.kern) w (w.onward s))
    (fun a f c hfa => by simp only [get_tickCell_of_ne c hfa])
    (cellsOf w.active) (cellsOf_nodup w.active) w.v (w.draw, w.wcause)
  refine ⟨vs, _, ?_, fun f r hr => ?_, get_foldl_tickCell_active w w.draw w.wcause⟩
  · rw [execRand, cells_complete h (fun w f x => randCell m d.toNat (s.hdr w.kern) w f x), ← cause_foldl_tickCell_active]
    exact congrArg (fun x => Host.Outcome.next (s.issued n x)) hfold
  · have hplace : (d.toNat ≤ r ∧ r < d.toNat + 1) ↔ r = d.toNat := by omega
    simp only [hvs f r hr, getLsbD_of_mem_cellsOf, hplace, Wave.getV]

/-! ## NPACK (R174) -/

/-- The wave with these V registers, conversion counters and causes. -/
def Wave.converted (x : Wave) (v : NMap Word) (c : NMap (BitVec 43) × BitVec 64) : Wave :=
  { x with v := v, conv := c.1, wcause := c.2 }

/-- A cell's NPACK from its write on, as drawn_tick. -/
theorem Wave.converted_tick {x y : Wave} {v : NMap Word} {c : NMap (BitVec 43) × BitVec 64} (hy : y = x.converted v c)
    (f : Nat) :
    (if NMap.get 0 c.1 f + 1 = 0 then { y with conv := NMap.set 0 y.conv f (NMap.get 0 c.1 f + 1) }.mark 49
      else { y with conv := NMap.set 0 y.conv f (NMap.get 0 c.1 f + 1) }) = x.converted v (tickCell f c) := by
  subst hy
  rw [mark_of_wrap_eq, tickCell]
  rfl

/-- The bytes of the block that NPACK makes in cell f, whose conversion counter stands at n. -/
def npackBytes (m : NFmt) (a : Nat) (h : Header) (w : Wave) (f : Nat) (n : BitVec 43) : List Byte :=
  m.bytes (m.quant (runVals w f a)
    (fun e => draw domCell h.seed (BitVec.ofNat 64 (w.wid h f)) (BitVec.ofNat 64 (32 * n.toNat + e))))

theorem npackCell_converted (m : NFmt) (d a : Nat) (hd : d + m.regs ≤ 64) (h : Header) (w x : Wave) (f : Nat) (v : NMap Word)
    (c : NMap (BitVec 43) × BitVec 64) :
    ∃ vs, npackCell m d a h w f (x.converted v c) = x.converted vs (tickCell f c) ∧
      WritesRun v vs [f] d m.regs
        (fun f i => BitVec.ofNat 32 (natAt (npackBytes m a h w f (NMap.get 0 c.1 f)) (4 * i) 4)) := by
  obtain ⟨vs, hrun, hvs⟩ := (x.converted v c).setRun_eq f d (npackBytes m a h w f (NMap.get 0 c.1 f)) m.regs hd
  refine ⟨vs, ?_, hvs.congr fun f' hf' i _ => ?_⟩
  · exact Wave.converted_tick hrun f
  · rw [List.mem_singleton.mp hf']

theorem execNpack_completes (m : NFmt) (d a : VReg) (hd : d.toNat + m.regs ≤ 64) {s : State} {n : Nat} {w : Wave}
    (h : Issues s n w (.npack m d a)) :
    ∃ vs cs, execNpack m d a s =
        .next (s.issued n { w.onward s with v := vs, conv := cs, wcause := w.wcause ||| wrapBit w w.conv }) ∧
      WritesRun w.v vs (cellsOf w.active) d.toNat m.regs (fun f i =>
        BitVec.ofNat 32 (natAt (npackBytes m a.toNat (s.hdr w.kern) w f (NMap.get 0 w.conv f)) (4 * i) 4)) ∧
      ∀ f, NMap.get 0 cs f = if w.active.getLsbD f = true then NMap.get 0 w.conv f + 1 else NMap.get 0 w.conv f := by
  obtain ⟨vs, hfold, hvs⟩ := foldl_writesRun
    (npackCell_converted m d.toNat a.toNat hd (s.hdr w.kern) w (w.onward s))
    (fun a f c hfa => by simp only [get_tickCell_of_ne c hfa])
    (cellsOf w.active) (cellsOf_nodup w.active) w.v (w.conv, w.wcause)
  refine ⟨vs, _, ?_, hvs, get_foldl_tickCell_active w w.conv w.wcause⟩
  rw [execNpack, cells_complete h (fun w f x => npackCell m d.toNat a.toNat (s.hdr w.kern) w f x),
    ← cause_foldl_tickCell_active]
  exact congrArg (fun x => Host.Outcome.next (s.issued n x)) hfold

/-! ## NUNPACK (R175) -/

/-- The value of element e of the block that NUNPACK reads in cell f. -/
def nunpackVal (m : NFmt) (a : Nat) (w : Wave) (f e : Nat) : Word := toFp32 (m.val (runBytes w f a m.regs) e)

theorem nunpackCell_writesRun (m : NFmt) (d a : Nat) (hd : d ≤ 32) (w x : Wave) (f : Nat) (v : NMap Word) :
    ∃ vs, nunpackCell m d a w f { x with v := v } = { x with v := vs } ∧ WritesRun v vs [f] d 32 (nunpackVal m a w) := by
  obtain ⟨vs, hrun, hvs⟩ := Wave.setRun_eq { x with v := v } f d
    ((List.range 32).flatMap (fun e => bytesOf 4 (f32.roundNE (m.val (runBytes w f a m.regs) e)))) 32 (by omega)
  refine ⟨vs, hrun, hvs.congr fun f' hf' i hi => ?_⟩
  rw [natAt_flatMap_bytesOf _ _ i (by simpa using hi), List.getElem_range, List.mem_singleton.mp hf']
  exact BitVec.eq_of_toNat_eq (by simp [nunpackVal, toFp32])

theorem execNunpack_completes (m : NFmt) (d a : VReg) (hd : d.toNat ≤ 32) {s : State} {n : Nat} {w : Wave}
    (h : Issues s n w (.nunpack m d a)) :
    ∃ vs, execNunpack m d a s = .next (s.issued n { w.onward s with v := vs }) ∧
      WritesRun w.v vs (cellsOf w.active) d.toNat 32 (nunpackVal m a.toNat w) := by
  obtain ⟨vs, hfold, hvs⟩ := foldl_writesRun (σ := Unit) (put := fun v _ => { w.onward s with v := v }) (next := fun _ c => c)
    (fun f v _ => nunpackCell_writesRun m d.toNat a.toNat hd w (w.onward s) f v)
    (fun _ _ _ _ => rfl) (cellsOf w.active) (cellsOf_nodup w.active) w.v ()
  refine ⟨vs, ?_, hvs⟩
  rw [execNunpack, cells_complete h (fun w f x => nunpackCell m d.toNat a.toNat w f x)]
  exact congrArg (fun x => Host.Outcome.next (s.issued n x)) hfold

end Machine

open Machine

/-! ## The statements -/

/-- Settles O9: each form is one write of Pd or Kd by the model's relation, which is the rule's since two values are unordered exactly
where one of them is NaN. -/
theorem floatComparesSetTheirPredicate : Obligations.FloatComparesSetTheirPredicate := by
  unfold Obligations.FloatComparesSetTheirPredicate
  refine ⟨fun c d a b s n w h => ?cells, fun c d a b s n w h => ?uniform⟩
  case cells =>
    obtain ⟨ps, hrun, hps⟩ := perCellP_completes d (fun s w f => Machine.fcmp c (w.getV f a.toNat) (b.fval s w f)) h
    exact ⟨ps, hrun, hps.setsP fun f => fcmp_iff_condF c _ _, issued_sameMemory s n _⟩
  case uniform =>
    exact uniform_setK_completes h d (fun w => Machine.fcmp c (w.getS a.toNat) (b.fval w)) (fcmp_iff_condF c _ _)

/-- Settles O11: each word goes over the active cells; a cell writes its own run of V registers and, where it draws, moves its own
counter one on, so that each cell draws at the counter that it had before the word. -/
theorem randomDrawsAndNarrowBlocks : Obligations.RandomDrawsAndNarrowBlocks := by
  unfold Obligations.RandomDrawsAndNarrowBlocks
  refine ⟨fun m d s n w h => ?rand, fun m d a s n w hwf h => ?npack, fun m d a s n w hwf h => ?nunpack⟩
  case rand =>
    obtain ⟨vs, ds, hrun, hvs, hds⟩ := execRand_completes m d h
    refine ⟨vs, ds, hrun, ?_, hds⟩
    cases m <;> exact hvs
  case npack =>
    obtain ⟨hd, -⟩ : decide (d.toNat + m.regs ≤ 64) = true ∧ decide (a.toNat ≤ 32) = true := Bool.and_eq_true_iff.mp hwf
    obtain ⟨vs, cs, hrun, hvs, hcs⟩ := execNpack_completes m d a (of_decide_eq_true hd) h
    refine ⟨vs, cs, hrun, fun f r hr => ?_, hcs⟩
    simp only [hvs f r hr, getLsbD_of_mem_cellsOf, Wave.getV]
    rfl
  case nunpack =>
    obtain ⟨-, hd⟩ : decide (a.toNat + m.regs ≤ 64) = true ∧ decide (d.toNat ≤ 32) = true := Bool.and_eq_true_iff.mp hwf
    obtain ⟨vs, hrun, hvs⟩ := execNunpack_completes m d a (of_decide_eq_true hd) h
    refine ⟨vs, hrun, fun f r hr => ?_⟩
    simp only [hvs f r hr, getLsbD_of_mem_cellsOf, Wave.getV]
    rfl

end Sys2Proof
end

section
/-! Shuffle and broadcast (spec/09_isa_memory.md R197, R198). First the lowest active cell, then the cell that each word reads. -/
namespace Sys2Proof.Machine

/-! ## The lowest active cell -/

theorem cellsOf_eq_nil_iff (m : Mask) : cellsOf m = [] ↔ m = 0 := by
  constructor
  · intro h
    refine BitVec.eq_of_getLsbD_eq fun f _ => ?_
    have hf : ¬m.getLsbD f = true := by simp [← getLsbD_of_mem_cellsOf, h]
    simpa using hf
  · rintro rfl
    simp [List.eq_nil_iff_forall_not_mem]

theorem cellsOf_pairwise_lt (m : Mask) : (cellsOf m).Pairwise (· < ·) := List.pairwise_lt_range.filter _

/-- The cells are listed in ascending order, so an active cell that is at most every active one stands first. -/
theorem cellsOf_eq_cons_of_lowest {m : Mask} {f : Nat} (hf : m.getLsbD f = true) (hlow : ∀ g, m.getLsbD g = true → f ≤ g) :
    ∃ fs, cellsOf m = f :: fs := by
  have hmem : f ∈ cellsOf m := (getLsbD_of_mem_cellsOf m f).2 hf
  cases hcells : cellsOf m with
  | nil => simp [hcells] at hmem
  | cons e es =>
    have hefirst : ∀ x ∈ es, e < x := (List.pairwise_cons.mp (hcells ▸ cellsOf_pairwise_lt m)).1
    have hfe : f ≤ e := hlow e ((getLsbD_of_mem_cellsOf m e).1 (by simp [hcells]))
    rcases List.mem_cons.mp (hcells ▸ hmem) with rfl | hfes
    · exact ⟨es, rfl⟩
    · exact absurd (hefirst f hfes) (by omega)

/-! ## LSHUF (R197) -/

theorem shufSource_eq_shuffled (m : ShufMode) (nn f n : Nat) : shufSource m nn f n = shuffled m nn f n := by
  cases m with
  | idx => rfl
  | up =>
    by_cases h : n ≤ f
    · simp [shufSource, shuffled, h, Nat.not_lt.mpr h]
    · simp [shufSource, shuffled, h, Nat.lt_of_not_le h]
  | down => rfl
  | xor => rfl

theorem execLshuf_completes (m : ShufMode) (d a : VReg) (b : BOp) {s : State} {n : Nat} {w : Wave}
    (h : Issues s n w (.lshuf m d a b)) :
    ∃ vs, execLshuf m d a b s = .next (s.issued n { w.onward s with v := vs }) ∧
      WritesV w vs d.toNat (fun f => fromCell w a f (shuffled m (s.lanesOf w) f (uv (b.val s w f)))) ∧
      SameMemory s (s.issued n { w.onward s with v := vs }) :=
  perCell_writesV h d (fun s w f => fromCell w a f (shufSource m (s.lanesOf w) f (uv (b.val s w f))))
    (funext fun f => by rw [shufSource_eq_shuffled])

/-! ## BCAST (R198) -/

theorem execBcast_completes (d a : VReg) (b : UOp) {s : State} {n : Nat} {w : Wave} (h : Issues s n w (.bcast d a b)) :
    ∃ vs, execBcast d a b s = .next (s.issued n { w.onward s with v := vs }) ∧
      WritesV w vs d.toNat (fun f => fromCell w a f (some (uv (b.val w) % s.lanesOf w))) ∧
      SameMemory s (s.issued n { w.onward s with v := vs }) :=
  perCell_writesV h d (fun s w f => fromCell w a f (some (uv (b.val w) % s.lanesOf w))) rfl

/-- What the uniform BCAST reads: Va of cell c where it is active, else of the lowest active cell, and 0 where there is none. -/
def fromCellOrLowest (w : Wave) (a : VReg) (c : Nat) : Word :=
  if w.active.getLsbD c then w.getV c a.toNat
  else match cellsOf w.active with
    | [] => 0
    | f :: _ => w.getV f a.toNat

theorem fromCellOrLowest_active {w : Wave} {a : VReg} {c : Nat} (h : w.active.getLsbD c = true) :
    fromCellOrLowest w a c = w.getV c a.toNat := if_pos h

theorem fromCellOrLowest_lowest {w : Wave} {a : VReg} {c f : Nat} (h : w.active.getLsbD c = false)
    (hf : w.active.getLsbD f = true) (hlow : ∀ g, w.active.getLsbD g = true → f ≤ g) :
    fromCellOrLowest w a c = w.getV f a.toNat := by
  obtain ⟨fs, hcells⟩ := cellsOf_eq_cons_of_lowest hf hlow
  simp [fromCellOrLowest, h, hcells]

theorem fromCellOrLowest_none {w : Wave} {a : VReg} {c : Nat} (h : w.active = 0) : fromCellOrLowest w a c = 0 := by
  have hc : w.active.getLsbD c = false := by simp [h]
  simp [fromCellOrLowest, hc, (cellsOf_eq_nil_iff w.active).2 h]

/-- The uniform BCAST as one write of Sd. The list of cells is split before the two sides are compared, so that it is not computed. -/
theorem execBcastUni_eq (d : SReg) (a : VReg) (b : UOp) (s : State) :
    execBcastUni d a b s = uniform (.bcastUni d a b) s
      (fun w x => x.setS d.toNat (fromCellOrLowest w a (uv (b.val w) % s.lanesOf w))) := by
  refine congrArg (uniform _ s) (funext fun w => funext fun x => congrArg (x.setS d.toNat) ?_)
  unfold fromCellOrLowest
  cases cellsOf w.active <;> rfl

theorem execBcastUni_completes (d : SReg) (a : VReg) (b : UOp) {s : State} {n : Nat} {w : Wave}
    (h : Issues s n w (.bcastUni d a b)) :
    ∃ ss, execBcastUni d a b s = .next (s.issued n { w.onward s with s := ss }) ∧
      WritesOne 0 w.s ss d.toNat (fromCellOrLowest w a (uv (b.val w) % s.lanesOf w)) ∧
      SameMemory s (s.issued n { w.onward s with s := ss }) :=
  execBcastUni_eq d a b s ▸ uniform_setS_completes h d (fun w => fromCellOrLowest w a (uv (b.val w) % s.lanesOf w)) rfl

end Sys2Proof.Machine

namespace Sys2Proof
open Machine

/-- Settles O16: LSHUF and BCAST are one write of Vd in the active cells, of values read from the wave before the word; the uniform BCAST
is one write of Sd, and the first of the cells in ascending order is the lowest active one. -/
theorem shuffleAndBroadcast : Obligations.ShuffleAndBroadcast := by
  unfold Obligations.ShuffleAndBroadcast
  refine ⟨fun m d a b s n w h => ?lshuf, fun d a b s n w h => ?bcast, fun d a b s n w h => ?uniform⟩
  case lshuf => exact execLshuf_completes m d a b h
  case bcast => exact execBcast_completes d a b h
  case uniform =>
    obtain ⟨ss, hrun, hss, hmem⟩ := execBcastUni_completes d a b h
    exact ⟨ss, _, hrun, hss, hmem, fromCellOrLowest_active, fun hc _ hf hlow => fromCellOrLowest_lowest hc hf hlow,
      fromCellOrLowest_none⟩

end Sys2Proof
end
